-- ==== Sys2Proof/Word.lean ====
section
/-!
DEFINITION. The words of the Q9 and nothing more (R1: bits are numbered from 0 at the least significant end).
-/
namespace Sys2Proof

/-- A 64-bit word: a register of an actor slot, a memory word, an actor instruction (R65). -/
abbrev Word := BitVec 64
/-- A byte of memory. -/
abbrev Byte := BitVec 8
/-- A register field: 0–23 name w0–w23, 24–31 name h0–h7 (R65). -/
abbrev Reg := BitVec 5
/-- A 32-bit configuration command (R45). -/
abbrev Cmd := BitVec 32

end Sys2Proof
end

