-- ==== Sys2Proof/Machine/Bits.lean ====
section
/-!
DEFINITION. Bit fields, signed readings and byte order (R1: bit 0 is the least significant bit and every multi-byte
datum is little-endian).
-/
namespace Sys2Proof

/-- Bits [lo + len − 1 : lo] of `n`, as a number. -/
def bits (n lo len : Nat) : Nat := n / 2 ^ lo % 2 ^ len

/-- Bit `i` of `n`. -/
def bitAt (n i : Nat) : Bool := n / 2 ^ i % 2 == 1

/-- Bits [lo + len − 1 : lo] of a word. -/
def fld (w : Word) (lo len : Nat) : Nat := bits w.toNat lo len

/-- The low `w` bits of `n` read as a two's-complement number. -/
def sgn (w n : Nat) : Int :=
  if 2 * (n % 2 ^ w) < 2 ^ w then (n % 2 ^ w : Nat) else (n % 2 ^ w : Nat) - (2 ^ w : Nat)

/-- The low `w` bits of an integer. -/
def ofInt (w : Nat) (i : Int) : Nat := (i % (2 ^ w : Nat)).toNat

/-- The low `w` bits of `n`, sign-extended to `v` bits. -/
def sext (w v n : Nat) : Nat := ofInt v (sgn w n)

/-- A word from a number, its low 64 bits. -/
def word (n : Nat) : Word := BitVec.ofNat 64 n

/-- A word from an integer, wrapping on 64 bits. -/
def wordI (i : Int) : Word := BitVec.ofInt 64 i

/-- The `n` bytes of a number, least significant first. -/
def leBytes : Nat → Nat → List Byte
  | 0, _ => []
  | n + 1, v => BitVec.ofNat 8 v :: leBytes n (v / 256)

/-- The number that a list of bytes holds, least significant first. -/
def leVal : List Byte → Nat
  | [] => 0
  | b :: bs => b.toNat + 256 * leVal bs

/-- ⌈a ÷ b⌉. -/
def cdiv (a b : Nat) : Nat := (a + b - 1) / b

/-- The list 0, 1, …, n − 1. -/
abbrev upTo (n : Nat) : List Nat := List.range n

/-- The number of ones among the low `w` bits. -/
def ones : Nat → Nat → Nat
  | 0, _ => 0
  | w + 1, n => n % 2 + ones w (n / 2)

/-- Bitwise complement on `w` bits. -/
def inv (w n : Nat) : Nat := 2 ^ w - 1 - n % 2 ^ w

/-- 1 for true, 0 for false. -/
def b2n (b : Bool) : Nat := if b then 1 else 0

end Sys2Proof
end

