-- ==== Sys2Proof/Machine/Fp.lean ====
section
/-!
DEFINITION. Exact numbers and their rounding (R7, R102 to R104, R119 to R122). A finite value is a sign, a natural
significand and a power of two; arithmetic on values is exact, and rounding happens once, in `round`.
-/
namespace Sys2Proof

/-- A float layout: exponent bits, fraction bits, bias, and whether the all-ones exponent means infinity and NaN (R102). -/
structure FFmt where
  eb   : Nat
  mb   : Nat
  bias : Nat
  ieee : Bool
  deriving DecidableEq, Repr

def fp32 : FFmt := ⟨8, 23, 127, true⟩
def bf16 : FFmt := ⟨8, 7, 127, true⟩
def e4m3f : FFmt := ⟨4, 3, 7, false⟩
def e5m2f : FFmt := ⟨5, 2, 15, false⟩

/-- An exact value: NaN, an infinity, or (−1)^neg × m × 2^e. A zero keeps its sign. -/
inductive Num where
  | nan
  | inf (neg : Bool)
  | fin (neg : Bool) (m : Nat) (e : Int)
  deriving DecidableEq, Repr

/-- Rounding modes (R119): 0 RNE, 1 RTZ, 2 RDN, 3 RUP. -/
abbrev Rnd := Nat

/-- The four flags: invalid, overflow, underflow, inexact (R122). -/
abbrev Flags := BitVec 4
def noFlags : Flags := 0
def invalid : Flags := 1
def overflow : Flags := 2
def underflow : Flags := 4
def inexact : Flags := 8

/-- The value of a code (R102, R104). -/
def FFmt.decode (f : FFmt) (n : Nat) : Num :=
  let neg := bits n (f.eb + f.mb) 1 == 1
  let e := bits n f.mb f.eb
  let m := bits n 0 f.mb
  if f.ieee && e == 2 ^ f.eb - 1 then (if m == 0 then .inf neg else .nan)
  else if e == 0 then .fin neg m (1 - (f.bias : Int) - f.mb)
  else .fin neg (m + 2 ^ f.mb) ((e : Int) - f.bias - f.mb)

/-- The canonical quiet NaN (R103). -/
def FFmt.qnan (f : FFmt) : Nat := (2 ^ f.eb - 1) * 2 ^ f.mb + 2 ^ (f.mb - 1)
/-- The code of an infinity. -/
def FFmt.infCode (f : FFmt) (neg : Bool) : Nat := b2n neg * 2 ^ (f.eb + f.mb) + (2 ^ f.eb - 1) * 2 ^ f.mb
/-- The code of the largest finite value. -/
def FFmt.maxCode (f : FFmt) (neg : Bool) : Nat :=
  b2n neg * 2 ^ (f.eb + f.mb) + (if f.ieee then (2 ^ f.eb - 1) * 2 ^ f.mb - 1 else 2 ^ (f.eb + f.mb) - 1)

/-- Round the quotient of `num` by `den` to an integer in a mode; was anything discarded? -/
def roundQuot (mode : Rnd) (neg : Bool) (num den : Nat) : Nat × Bool :=
  let q := num / den
  let r := num % den
  let up :=
    if r == 0 then false
    else match mode with
      | 0 => den < 2 * r || (2 * r == den && q % 2 == 1)
      | 1 => false
      | 2 => neg
      | _ => !neg
  (if up then q + 1 else q, r != 0)

/-- The exponent x with 2^x ≤ num/den × 2^e < 2^(x+1), for num ≠ 0. -/
def ratExp (num den : Nat) (e : Int) : Int :=
  let k : Int := (Nat.log2 num : Int) - Nat.log2 den
  -- num/den lies in (2^(k−1), 2^(k+1))
  let ge : Bool := if 0 ≤ k then den * 2 ^ k.toNat ≤ num else den ≤ num * 2 ^ (-k).toNat
  e + (if ge then k else k - 1)

/-- Scale a fraction so that it counts units of 2^q. -/
def inUnits (num den : Nat) (e q : Int) : Nat × Nat :=
  if q ≤ e then (num * 2 ^ (e - q).toNat, den) else (num, den * 2 ^ (q - e).toNat)

/-- Round (−1)^neg × num/den × 2^e to a format in a mode, with the flags of the rounding (R119 to R122). Narrow formats
saturate (R117). Tininess is detected before rounding (R120). -/
def FFmt.roundRat (f : FFmt) (mode : Rnd) (neg : Bool) (num den : Nat) (e : Int) : Nat × Flags :=
  let sbit := b2n neg * 2 ^ (f.eb + f.mb)
  if num == 0 then (sbit, noFlags)
  else
    let x := ratExp num den e
    let emin : Int := 1 - (f.bias : Int)
    let q := (if x < emin then emin else x) - f.mb
    let nd := inUnits num den e q
    let (n, inx) := roundQuot mode neg nd.1 nd.2
    let (n, q) := if n == 2 ^ (f.mb + 1) then (n / 2, q + 1) else (n, q)
    let ecode : Int := if n < 2 ^ f.mb then 0 else q + f.mb + f.bias
    let top : Int := 2 ^ f.eb - 1
    if (f.ieee && top ≤ ecode) || top < ecode then
      let toInf := mode == 0 || (mode == 2 && neg) || (mode == 3 && !neg)
      (if f.ieee && toInf then f.infCode neg else f.maxCode neg, overflow ||| inexact)
    else
      let code := sbit + (if n < 2 ^ f.mb then n else ecode.toNat * 2 ^ f.mb + (n - 2 ^ f.mb))
      (code, (if inx then inexact else 0) ||| (if inx && x < emin then underflow else 0))

/-- Round an exact value to a format (R119, R121, R117). -/
def FFmt.round (f : FFmt) (mode : Rnd) : Num → Nat × Flags
  | .nan => if f.ieee then (f.qnan, noFlags) else (0, invalid)
  | .inf neg => if f.ieee then (f.infCode neg, noFlags) else (f.maxCode neg, overflow ||| inexact)
  | .fin neg m e => f.roundRat mode neg m 1 e

/-! ### Exact arithmetic -/

def Num.isNan : Num → Bool
  | .nan => true
  | _ => false
def Num.neg : Num → Num
  | .nan => .nan
  | .inf n => .inf (!n)
  | .fin n m e => .fin (!n) m e
def Num.abs : Num → Num
  | .nan => .nan
  | .inf _ => .inf false
  | .fin _ m e => .fin false m e
def Num.isNeg : Num → Bool
  | .nan => false
  | .inf n => n
  | .fin n _ _ => n
def Num.isZero : Num → Bool
  | .fin _ m _ => m == 0
  | _ => false
def Num.isInf : Num → Bool
  | .inf _ => true
  | _ => false
/-- Multiply by 2^k. -/
def Num.scale (k : Int) : Num → Num
  | .fin n m e => .fin n m (e + k)
  | x => x

/-- A signed significand at exponent `q` at or below the value's own. -/
def finAt (n : Bool) (m : Nat) (e q : Int) : Int :=
  let v : Int := (m * 2 ^ (e - q).toNat : Nat)
  if n then -v else v

/-- Exact sum of two finite values; a zero result takes the sign rule of R120 for a rounding mode. -/
def addFin (mode : Rnd) (n1 : Bool) (m1 : Nat) (e1 : Int) (n2 : Bool) (m2 : Nat) (e2 : Int) : Num :=
  let q := if e1 < e2 then e1 else e2
  let v := finAt n1 m1 e1 q + finAt n2 m2 e2 q
  if v == 0 then
    (if m1 == 0 && m2 == 0 && n1 == n2 then .fin n1 0 0 else .fin (mode == 2) 0 0)
  else .fin (v < 0) v.natAbs q

/-- Exact sum, with invalid for infinities of opposite sign (R122). A NaN operand yields NaN and no flag (R103). -/
def Num.add (mode : Rnd) : Num → Num → Num × Flags
  | .nan, _ => (.nan, noFlags)
  | _, .nan => (.nan, noFlags)
  | .inf a, .inf b => if a == b then (.inf a, noFlags) else (.nan, invalid)
  | .inf a, _ => (.inf a, noFlags)
  | _, .inf b => (.inf b, noFlags)
  | .fin n1 m1 e1, .fin n2 m2 e2 => (addFin mode n1 m1 e1 n2 m2 e2, noFlags)

/-- Exact product, with invalid for 0 × ∞. -/
def Num.mul : Num → Num → Num × Flags
  | .nan, _ => (.nan, noFlags)
  | _, .nan => (.nan, noFlags)
  | .inf a, .inf b => (.inf (a != b), noFlags)
  | .inf a, .fin n m _ => if m == 0 then (.nan, invalid) else (.inf (a != n), noFlags)
  | .fin n m _, .inf b => if m == 0 then (.nan, invalid) else (.inf (n != b), noFlags)
  | .fin n1 m1 e1, .fin n2 m2 e2 => (.fin (n1 != n2) (m1 * m2) (e1 + e2), noFlags)

/-- a × b + c, exact (R137): a NaN among the operands yields NaN and no flag. -/
def Num.fma (mode : Rnd) (a b c : Num) : Num × Flags :=
  if a.isNan || b.isNan || c.isNan then (.nan, noFlags)
  else
    let (p, f) := a.mul b
    if p.isNan then (.nan, f) else p.add mode c

/-- Exact comparison; none when an operand is a NaN. −0 equals +0. -/
def Num.cmp : Num → Num → Option Ordering
  | .nan, _ => none
  | _, .nan => none
  | .inf a, .inf b => some (if a == b then .eq else if a then .lt else .gt)
  | .inf a, _ => some (if a then .lt else .gt)
  | _, .inf b => some (if b then .gt else .lt)
  | .fin n1 m1 e1, .fin n2 m2 e2 =>
    let q := if e1 < e2 then e1 else e2
    some (compare (finAt n1 m1 e1 q) (finAt n2 m2 e2 q))

/-- Strictly less, false when unordered. -/
def Num.lt (a b : Num) : Bool := a.cmp b == some .lt
def Num.eq (a b : Num) : Bool := a.cmp b == some .eq
/-- The order in which −0 lies below +0, for FMIN and FMAX (R137). -/
def Num.ltZ (a b : Num) : Bool := a.lt b || (a.eq b && a.isZero && a.isNeg && !b.isNeg)

/-- Round to an integer in a mode: the integer, and whether a fraction was discarded. -/
def Num.toInt (mode : Rnd) : Num → Int × Bool
  | .fin neg m e =>
    let nd := inUnits m 1 e 0
    let (n, inx) := roundQuot mode neg nd.1 nd.2
    (if neg then -(n : Int) else n, inx)
  | _ => (0, false)

/-- An integer as an exact value. -/
def Num.ofInt (i : Int) : Num := .fin (i < 0) i.natAbs 0

/-- Saturate an integer to a signed or unsigned width: the value and whether it was clamped. -/
def satInt (signed : Bool) (w : Nat) (i : Int) : Int × Bool :=
  let lo : Int := if signed then -(2 ^ (w - 1) : Nat) else 0
  let hi : Int := if signed then (2 ^ (w - 1) : Nat) - 1 else (2 ^ w : Nat) - 1
  if i < lo then (lo, true) else if hi < i then (hi, true) else (i, false)

/-- Float to integer (R121): NaN gives 0 and invalid; a saturated result is invalid; a discarded fraction is inexact. -/
def numToInt (mode : Rnd) (signed : Bool) (w : Nat) (x : Num) : Int × Flags :=
  match x with
  | .nan => (0, invalid)
  | .inf neg => ((satInt signed w (if neg then -(2 ^ w : Nat) else (2 ^ w : Nat))).1, invalid)
  | .fin .. =>
    let (i, inx) := x.toInt mode
    let (j, sat) := satInt signed w i
    (j, (if sat then invalid else 0) ||| (if inx then inexact else 0))

end Sys2Proof
end

