-- ==== Sys2Proof/Machine/Flags.lean ====
section
/-!
DEFINITION. Every flag computation of integer and float operations (R120 to R122, R136 to R140, R370, R372): each
operation answers its result code and the flags that it records.
-/
namespace Sys2Proof

/-- The flag with which a clamped integer result is recorded (R122). -/
def clamped (b : Bool) : Flags := if b then overflow else noFlags

/-- A result and flags of several results together. -/
def joinFlags (fs : List Flags) : Flags := fs.foldl (· ||| ·) noFlags

/-- Width of an element type TY (R59, R370). -/
def tyW (ty : Nat) : Nat :=
  match ty with
  | 2 => 16
  | 3 => 8
  | 5 => 16
  | 6 => 64
  | _ => 32
/-- Is TY a signed integer type? -/
def tySigned (ty : Nat) : Bool := ty == 0 || ty == 2 || ty == 3 || ty == 6
/-- Is TY a float type? -/
def tyIsFlt (ty : Nat) : Bool := ty == 4 || ty == 5
/-- Layout of a float TY. -/
def tyFmt (ty : Nat) : FFmt := if ty == 5 then bf16 else fp32

/-- An operand of an integer type, from the low bits of a code. -/
def rdInt (ty n : Nat) : Int := if tySigned ty then sgn (tyW ty) n else ((n % 2 ^ tyW ty : Nat) : Int)

/-- The exact result fitted to the type: it wraps, or saturates and records overflow when clamped (R136, R370). -/
def fit (ty : Nat) (sat : Bool) (i : Int) : Nat × Flags :=
  if sat then
    let r := satInt (tySigned ty) (tyW ty) i
    (ofInt (tyW ty) r.1, clamped r.2)
  else (ofInt (tyW ty) i, noFlags)

/-! ### Integer operations (R136, R370) -/

def iAdd (ty : Nat) (sat : Bool) (a b : Nat) : Nat × Flags := fit ty sat (rdInt ty a + rdInt ty b)
def iSub (ty : Nat) (sat : Bool) (a b : Nat) : Nat × Flags := fit ty sat (rdInt ty a - rdInt ty b)
def iMul (ty : Nat) (sat : Bool) (a b : Nat) : Nat × Flags := fit ty sat (rdInt ty a * rdInt ty b)
def iMad (ty : Nat) (sat : Bool) (a b c : Nat) : Nat × Flags := fit ty sat (rdInt ty a * rdInt ty b + rdInt ty c)
def iMulh (ty a b : Nat) : Nat := ofInt (2 * tyW ty) (rdInt ty a * rdInt ty b) / 2 ^ tyW ty
/-- Quotient and remainder truncated toward zero; a zero divisor gives all ones and the dividend, and is invalid. -/
def iDiv (ty a b : Nat) : Nat × Flags :=
  if rdInt ty b == 0 then (2 ^ tyW ty - 1, invalid) else (ofInt (tyW ty) (Int.tdiv (rdInt ty a) (rdInt ty b)), noFlags)
def iRem (ty a b : Nat) : Nat × Flags :=
  if rdInt ty b == 0 then (a % 2 ^ tyW ty, invalid) else (ofInt (tyW ty) (Int.tmod (rdInt ty a) (rdInt ty b)), noFlags)
def iMin (ty a b : Nat) : Nat := (if rdInt ty b < rdInt ty a then b else a) % 2 ^ tyW ty
def iMax (ty a b : Nat) : Nat := (if rdInt ty a < rdInt ty b then b else a) % 2 ^ tyW ty
def iAbs (ty : Nat) (sat : Bool) (a : Nat) : Nat × Flags := fit ty sat (((rdInt ty a).natAbs : Nat) : Int)
def bAnd (ty a b : Nat) : Nat := Nat.land a b % 2 ^ tyW ty
def bOr (ty a b : Nat) : Nat := Nat.lor a b % 2 ^ tyW ty
def bXor (ty a b : Nat) : Nat := Nat.xor a b % 2 ^ tyW ty
def bNot (ty a : Nat) : Nat := inv (tyW ty) a
/-- Shifts by `n`; a shift by the width or more leaves zeros, or copies of the sign. -/
def shlN (ty a n : Nat) : Nat := if tyW ty ≤ n then 0 else a % 2 ^ tyW ty * 2 ^ n % 2 ^ tyW ty
def shrN (ty a n : Nat) : Nat := if tyW ty ≤ n then 0 else a % 2 ^ tyW ty / 2 ^ n
def sarN (ty a n : Nat) : Nat :=
  ofInt (tyW ty) (sgn (tyW ty) a / ((2 ^ min n (tyW ty) : Nat) : Int))
/-- Leading zeros, or the width of a zero. -/
def iClz (ty a : Nat) : Nat :=
  let v := a % 2 ^ tyW ty
  if v == 0 then tyW ty else tyW ty - 1 - Nat.log2 v
/-- A compare condition SUB on an ordering; none when unordered (R136, R138). -/
def condHolds (sub : Nat) (o : Option Ordering) : Bool :=
  match sub with
  | 0 => o == some .eq
  | 1 => o != some .eq
  | 2 => o == some .lt
  | 3 => o == some .lt || o == some .eq
  | 4 => o == some .gt
  | _ => o == some .gt || o == some .eq
def iCmp (ty sub a b : Nat) : Nat := b2n (condHolds sub (some (compare (rdInt ty a) (rdInt ty b))))

/-! ### Float operations (R137 to R140, R372) -/

/-- Round an exact result that may itself be invalid. -/
def rounded (f : FFmt) (rnd : Rnd) (x : Num × Flags) : Nat × Flags :=
  let r := f.round rnd x.1
  (r.1, r.2 ||| x.2)
def fAdd (ty rnd a b : Nat) : Nat × Flags :=
  rounded (tyFmt ty) rnd (((tyFmt ty).decode a).add rnd ((tyFmt ty).decode b))
def fSub (ty rnd a b : Nat) : Nat × Flags :=
  rounded (tyFmt ty) rnd (((tyFmt ty).decode a).add rnd ((tyFmt ty).decode b).neg)
def fMul (ty rnd a b : Nat) : Nat × Flags :=
  rounded (tyFmt ty) rnd (((tyFmt ty).decode a).mul ((tyFmt ty).decode b))
def fFma (ty rnd a b c : Nat) : Nat × Flags :=
  rounded (tyFmt ty) rnd (Num.fma rnd ((tyFmt ty).decode a) ((tyFmt ty).decode b) ((tyFmt ty).decode c))
/-- A NaN operand gives the canonical NaN; otherwise a chosen result. -/
def unlessNan (ty a b r : Nat) : Nat :=
  if ((tyFmt ty).decode a).isNan || ((tyFmt ty).decode b).isNan then (tyFmt ty).qnan else r % 2 ^ tyW ty
def fMin (ty a b : Nat) : Nat :=
  unlessNan ty a b (if ((tyFmt ty).decode b).ltZ ((tyFmt ty).decode a) then b else a)
def fMax (ty a b : Nat) : Nat :=
  unlessNan ty a b (if ((tyFmt ty).decode a).ltZ ((tyFmt ty).decode b) then b else a)
/-- The sign bit of a float TY as a number. -/
def signBit (ty : Nat) : Nat := 2 ^ (tyW ty - 1)
def fAbs (ty a : Nat) : Nat := unlessNan ty a a (a % signBit ty)
def fNeg (ty a : Nat) : Nat := unlessNan ty a a (Nat.xor a (signBit ty))
def fCpys (ty a b : Nat) : Nat := unlessNan ty a b (a % signBit ty + bits b (tyW ty - 1) 1 * signBit ty)
/-- FCMP at an element: condition SUB; lt, le, gt and ge are invalid with a NaN (R138). -/
def fCmp (ty sub a b : Nat) : Nat × Flags :=
  let o := ((tyFmt ty).decode a).cmp ((tyFmt ty).decode b)
  (b2n (condHolds sub o), if o.isNone && 2 ≤ sub then invalid else noFlags)
/-- FCMP in an actor: less, equal, greater, unordered; a NaN is invalid (R372). -/
def fCmpMask (ty a b : Nat) : Nat × Flags :=
  match ((tyFmt ty).decode a).cmp ((tyFmt ty).decode b) with
  | some .lt => (1, noFlags)
  | some .eq => (2, noFlags)
  | some .gt => (4, noFlags)
  | none => (8, invalid)
/-- FCLASS (R138). -/
def fClass (ty a : Nat) : Nat :=
  let f := tyFmt ty
  let neg := bits a (tyW ty - 1) 1 == 1
  match f.decode a with
  | .nan => 2 ^ 8
  | .inf n => if n then 1 else 2 ^ 7
  | .fin _ m _ =>
    if m == 0 then (if neg then 2 ^ 3 else 2 ^ 4)
    else if bits a f.mb f.eb == 0 then (if neg then 2 ^ 2 else 2 ^ 5)
    else if neg then 2 else 2 ^ 6
/-- FEXP (R139): the exponent x of the leading bit, and the form's exponent and significand scale. -/
def fExp (ty sub a : Nat) : Nat :=
  let f := tyFmt ty
  match f.decode a with
  | .nan => if sub % 2 == 0 then f.qnan else 0
  | .inf _ => if sub % 2 == 0 then a % 2 ^ tyW ty else 0
  | .fin neg m e =>
    if m == 0 then (if sub % 2 == 0 then a % 2 ^ tyW ty else 0)
    else
      let x : Int := Nat.log2 m + e
      -- e of the mant form; 2h of the mant2 form; c of the mantc form, whose significand lies in [0.75, 1.5)
      let k : Int :=
        if sub < 2 then x
        else if sub < 4 then 2 * (x / 2)
        else if 3 * 2 ^ Nat.log2 m ≤ 2 * m then x + 1 else x
      if sub % 2 == 0 then (f.round 0 (.fin neg m (e - k))).1
      else ofInt (tyW ty) (if sub == 3 then x / 2 else k)
/-- FLDX (R140). Beyond ±600 every scaling of a finite value overflows, or lies below the smallest code, alike. -/
def fLdx (ty rnd a b : Nat) : Nat × Flags :=
  let f := tyFmt ty
  let n := sgn (tyW ty) b
  let n : Int := if n < -600 then -600 else if 600 < n then 600 else n
  f.round rnd ((f.decode a).scale n)

/-! ### Combinations of reductions and scans (R146, R150, R205) -/

/-- The operator SUB of LRED, LSCAN, ACC and REDUCE: 0 add, 1 min, 2 max, 3 and, 4 or, 5 xor. -/
def foldOp (ty rnd : Nat) (sat : Bool) (sub a b : Nat) : Nat × Flags :=
  if tyIsFlt ty then
    match sub with
    | 0 => fAdd ty rnd a b
    | 1 => (fMin ty a b, noFlags)
    | _ => (fMax ty a b, noFlags)
  else
    match sub with
    | 0 => iAdd ty sat a b
    | 1 => (iMin ty a b, noFlags)
    | 2 => (iMax ty a b, noFlags)
    | 3 => (bAnd ty a b, noFlags)
    | 4 => (bOr ty a b, noFlags)
    | _ => (bXor ty a b, noFlags)

/-- One level of the binary tree of R125. -/
def pairUp (op : Nat → Nat → Nat × Flags) : List Nat → List Nat × Flags
  | a :: b :: r =>
    let v := op a b
    let t := pairUp op r
    (v.1 :: t.1, v.2 ||| t.2)
  | r => (r, noFlags)
/-- The tree of R125 over 2^n lanes. -/
def treeFold (op : Nat → Nat → Nat × Flags) : Nat → List Nat → List Nat × Flags
  | 0, l => (l, noFlags)
  | n + 1, l =>
    let v := pairUp op l
    let t := treeFold op n v.1
    (t.1, t.2 ||| v.2)
/-- The steps of R125 from lane 0 upward: the inclusive values and flags. -/
def scanFold (op : Nat → Nat → Nat × Flags) (carry : Nat) : List Nat → List Nat × Flags
  | [] => ([], noFlags)
  | a :: r =>
    let v := op carry a
    let t := scanFold op v.1 r
    (v.1 :: t.1, v.2 ||| t.2)

end Sys2Proof
end

