-- ==== Sys2Proof/Machine/Operands.lean ====
section
/-!
DEFINITION. Every operand form: registers read and written in a type (R370, R372), lanes of a payload (R129), and the
conversion of one value between formats (R121, R126, R127, R143).
-/
namespace Sys2Proof

/-! ### Registers -/

/-- A result code of TY as a register holds it: sign-extended for signed integers, else zero-extended (R370, R372). -/
def wrReg (ty code : Nat) : Word := if tySigned ty then word (sext (tyW ty) 64 code) else word (code % 2 ^ tyW ty)

/-! ### Lanes (R129) -/

/-- Lanes of a lane form, and their width; the scalar form has one lane of the TY width. -/
def lfLanes (lf : Nat) : Nat :=
  match lf with
  | 0 => 16
  | 1 => 32
  | 2 => 64
  | _ => 1
def lfW (lf ty : Nat) : Nat :=
  match lf with
  | 0 => 32
  | 1 => 16
  | 2 => 8
  | _ => tyW ty
/-- `n` lanes of width `w` of a payload. -/
def lanesOf (w n pay : Nat) : List Nat := (upTo n).map fun i => bits pay (w * i) w
/-- The payload that lanes of width `w` make. -/
def packLanes (w : Nat) : List Nat → Nat
  | [] => 0
  | a :: r => a % 2 ^ w + 2 ^ w * packLanes w r
/-- The lanes that an input supplies: those of a vector, or its low bits in every lane. -/
def inLanes (lf ty : Nat) (vector : Bool) (pay : Nat) : List Nat :=
  if lf == 3 then [pay % 2 ^ tyW ty]
  else if vector then lanesOf (lfW lf ty) (lfLanes lf) pay
  else List.replicate (lfLanes lf) (pay % 2 ^ lfW lf ty)
/-- Width of an output payload by OW. -/
def owBits (ow : Nat) : Nat := if ow == 0 then 32 else if ow == 1 then 64 else 512
/-- The payload of result lanes: packed, or a scalar extended to OW. -/
def outPay (lf ow ty : Nat) (signed : Bool) (ls : List Nat) : Nat :=
  if lf == 3 then (if signed then sext (tyW ty) (owBits ow) (ls.headD 0) else ls.headD 0 % 2 ^ tyW ty)
  else packLanes (lfW lf ty) ls

/-! ### Conversions -/

/-- Width, signedness and kind of a format code (R110, R126); 12 is INT64. -/
def fmtW (f : Nat) : Nat :=
  match f with
  | 1 => 32 | 2 => 16 | 3 => 8 | 4 => 8 | 5 => 4 | 7 => 8 | 8 => 8 | 9 => 16 | 10 => 32 | 11 => 32 | _ => 64
def fmtSigned (f : Nat) : Bool := f == 7 || f == 9 || f == 10 || f == 12
def fmtIsInt (f : Nat) : Bool := 7 ≤ f && f ≤ 12
def fmtNarrow (f : Nat) : Bool := 3 ≤ f && f ≤ 5
def fmtFloat (f : Nat) : FFmt := if f == 1 then fp32 else if f == 2 then bf16 else if f == 3 then e4m3f else e5m2f
/-- Format code of an element type. -/
def tyCode (ty : Nat) : Nat :=
  match ty with
  | 0 => 10 | 1 => 11 | 2 => 9 | 3 => 7 | 4 => 1 | 5 => 2 | _ => 12

/-- The value of a code; a lone Q4E marker is 0 and invalid (R127). -/
def fmtValue (f n : Nat) : Num × Flags :=
  let v := n % 2 ^ fmtW f
  if fmtIsInt f then (Num.ofInt (if fmtSigned f then sgn (fmtW f) v else v), noFlags)
  else if f == 5 then (if v == 8 then (.fin false 0 0, invalid) else (Num.ofInt (sgn 4 v), noFlags))
  else ((fmtFloat f).decode v, noFlags)

/-- A single Q4E element: rounded, clamped to −7 to +7 with overflow and inexact, a NaN as 0 and invalid (R117, R127). A nonzero value that
rounds to 0 is inexact and no underflow: R104 gives the format no smallest normal (DESIGN CHOICE, log 101). -/
def toQ4e (rnd : Rnd) (x : Num) : Nat × Flags :=
  match x with
  | .nan => (0, invalid)
  | .inf neg => (ofInt 4 (if neg then -7 else 7), overflow ||| inexact)
  | .fin .. =>
    let r := x.toInt rnd
    if r.1 < -7 then (ofInt 4 (-7), overflow ||| inexact)
    else if 7 < r.1 then (7, overflow ||| inexact)
    else (ofInt 4 r.1, if r.2 then inexact else noFlags)

/-- The code of a value in a format (R121, R127). `int` is the source's integer, when the source is an integer format. -/
def fmtCode (f : Nat) (rnd : Rnd) (sat : Bool) (int : Option Int) (x : Num) : Nat × Flags :=
  if fmtIsInt f then
    match int with
    | some i =>
      if sat then
        let r := satInt (fmtSigned f) (fmtW f) i
        (ofInt (fmtW f) r.1, clamped r.2)
      else (ofInt (fmtW f) i, noFlags)
    | none =>
      let r := numToInt rnd (fmtSigned f) (fmtW f) x
      (ofInt (fmtW f) r.1, r.2)
  else if f == 5 then toQ4e rnd x
  else (fmtFloat f).round rnd x

/-- Convert one value (R127): `scale` is the E8M0 code when USC is set; it multiplies a narrow source and divides a narrow
destination. -/
def convert (sf df : Nat) (rnd : Rnd) (sat : Bool) (scale : Option Nat) (n : Nat) : Nat × Flags :=
  let v := fmtValue sf n
  let x : Num :=
    match scale with
    | none => v.1
    | some 255 => .nan
    | some e =>
      let k : Int := (e : Int) - 127
      let y := if fmtNarrow sf then v.1.scale k else v.1
      if fmtNarrow df then y.scale (-k) else y
  let int := if fmtIsInt sf && x != .nan then some (if fmtSigned sf then sgn (fmtW sf) n else ((n % 2 ^ fmtW sf : Nat) : Int)) else none
  let r := fmtCode df rnd sat int x
  (r.1, r.2 ||| v.2)

/-- The code of a format as a register holds it (R127). -/
def wrFmt (f code : Nat) : Word := if fmtSigned f then word (sext (fmtW f) 64 code) else word (code % 2 ^ fmtW f)

end Sys2Proof
end

