-- ==== Sys2Proof/Machine/NumFmt.lean ====
section
/-!
DEFINITION. Page formats: blocks, scales and groups (R105 to R108, R110 to R118), and what an element type may be loaded
from or stored to (R113, R216, R226, R240, R244).
-/
namespace Sys2Proof

/-- Bytes of an element of a page format; RAW takes the width of the request, Q4E and INT4G hold nibbles (R110). -/
def fmtBytes (f : Nat) : Nat :=
  match f with
  | 1 => 4 | 2 => 2 | 3 => 1 | 4 => 1 | 7 => 1 | 8 => 1 | 9 => 2 | 10 => 4 | 11 => 4 | _ => 0
/-- Group size of an INT4G geometry (R108, R111). -/
def geoGroup (geo : Nat) : Nat := if geo == 3 then 32 else if geo == 4 then 64 else 128

/-! ### Q4E and INT4G (R107, R108) -/

/-- The nibble of element `i` of packed nibbles (R106). -/
def nibOf (bytes : List Byte) (i : Nat) : Nat := bits (bytes.getD (i / 2) 0).toNat (4 * (i % 2)) 4

/-- The values of a Q4E block from slot `i` on; `skip` slots are given up. -/
def q4eFrom : Nat → Nat → List Nat → List (Num × Flags)
  | _, _, [] => []
  | i, skip + 1, _ :: r => (.fin false 0 0, noFlags) :: q4eFrom (i + 1) skip r
  | i, 0, n :: r =>
    if n == 8 && i ≤ 29 then
      (e4m3f.decode (r.getD 1 0 * 16 + r.getD 0 0), noFlags) :: q4eFrom (i + 1) 2 r
    else if n == 8 then (.fin false 0 0, invalid) :: q4eFrom (i + 1) 0 r
    else (Num.ofInt (sgn 4 n), noFlags) :: q4eFrom (i + 1) 0 r

/-- The unscaled values of a block of 32 nibbles. -/
def q4eValues (nibs : List Nat) : List (Num × Flags) := q4eFrom 0 0 nibs

/-- Decode one narrow value under an E8M0 scale to FP32 or BF16 (R114). -/
def decodeScaled (target : FFmt) (scale : Nat) (v : Num × Flags) : Nat × Flags :=
  if scale == 255 then (target.qnan, noFlags)
  else
    let r := target.round 0 (v.1.scale ((scale : Int) - 127))
    (r.1, r.2 ||| v.2)

/-- One INT4G element under its group header: bf16_rne((q − z) × s), NaN with invalid for a NaN or infinite s (R108). -/
def int4gBf16 (header nib : Nat) : Nat × Flags :=
  match bf16.decode (header % 65536) with
  | .fin neg m e =>
    let d := sgn 4 nib - sgn 4 (bits header 16 4)
    bf16.roundRat 0 (neg != (d < 0)) (d.natAbs * m) 1 e
  | _ => (bf16.qnan, invalid)

/-! ### Encoding blocks (R116 to R118) -/

/-- Twice the bound below which a magnitude rounds into the format: maxf plus half a step (R116). -/
def scaleBound (f : Nat) : Nat := if f == 3 then 2 * 496 else if f == 4 then 2 * 122880 else 15

/-- The smallest scale code whose rounded largest magnitude fits (R116). -/
def pickScale (f : Nat) (a : Num) : Nat :=
  ((upTo 255).find? fun (e : Nat) => a.lt (.fin false (scaleBound f) ((e : Int) - 128))).getD 254

/-- The largest magnitude of a list. -/
def maxMag : List Num → Num
  | [] => .fin false 0 0
  | v :: r => let m := maxMag r; if m.lt v.abs then v.abs else m

/-- A block of E4M3F or E5M2F (R117): scale, codes, flags. -/
def storeBlock8 (f : Nat) (vs : List Num) : Nat × List Nat × Flags :=
  if vs.any Num.isNan then (255, vs.map fun _ => 0, noFlags)
  else
    let e := pickScale f (maxMag vs)
    let rs := vs.map fun v => (fmtFloat f).round 0 (v.scale (127 - (e : Int)))
    (e, rs.map (·.1), joinFlags (rs.map (·.2)))

/-- A block of Q4E (R118): scale, nibbles, flags. -/
def storeQ4e (vs : List Num) : Nat × List Nat × Flags :=
  if vs.any Num.isNan then (255, vs.map fun _ => 0, noFlags)
  else
    let a := maxMag vs
    let i := (vs.findIdx? fun v => v.abs.eq a).getD 0
    let e2 := pickScale 5 (maxMag (vs.eraseIdx i))
    let k2 : Int := 127 - (e2 : Int)
    let small (j : Nat) : Bool := (((vs.getD j (.fin false 0 0)).scale k2).toInt 0).1 == 0
    let outlier := i ≤ 29 && !a.isInf && (Num.fin false 7 0).lt (a.scale k2) && small (i + 1) && small (i + 2)
      && (a.scale k2).lt (.fin false 496 0)
    let e := if outlier then e2 else pickScale 5 a
    let k : Int := 127 - (e : Int)
    let c := e4m3f.round 0 ((vs.getD i (.fin false 0 0)).scale k)
    let slot (j : Nat) : Nat × Flags :=
      let v := vs.getD j (.fin false 0 0)
      if outlier && j == i then (8, c.2)
      else if outlier && j == i + 1 then (c.1 % 16, if v.isZero then noFlags else inexact)
      else if outlier && j == i + 2 then (c.1 / 16, if v.isZero then noFlags else inexact)
      else toQ4e 0 (v.scale k)
    let rs := (upTo vs.length).map slot
    (e, rs.map (·.1), joinFlags (rs.map (·.2)))

/-- Nibbles packed two to a byte (R106). -/
def packNibs : List Nat → List Byte
  | a :: b :: r => BitVec.ofNat 8 (a % 16 + 16 * (b % 16)) :: packNibs r
  | [a] => [BitVec.ofNat 8 (a % 16)]
  | [] => []

/-! ### What a request may name -/

/-- Can an actor load or store of size 2^sz name a page of this format and geometry (R216)? -/
def ldOk (f sz : Nat) : Bool :=
  if f == 0 then true
  else if f ≤ 4 then sz == 1 || sz == 2
  else if f ≤ 6 then false
  else if f ≤ 8 then sz == 0
  else if f == 9 then sz == 1 else sz == 2
def stOk (f geo sz : Nat) : Bool :=
  if f == 0 then true
  else if f ≤ 2 then sz == 1 || sz == 2
  else if f ≤ 4 then geo == 0 && (sz == 1 || sz == 2)
  else if f ≤ 6 then false
  else if f ≤ 8 then true
  else if f == 9 then 1 ≤ sz else 2 ≤ sz
/-- Bytes that an actor access of a page format moves, and its alignment (R216). -/
def accBytes (f sz : Nat) : Nat := if f == 0 || f == 5 || f == 6 then 2 ^ sz else fmtBytes f
/-- Can an element of type TY load from, or store to, a page of this format (R113, R226)? -/
def tyPageOk (f ty : Nat) : Bool :=
  if f == 0 then true
  else if f ≤ 6 then ty == 4 || ty == 5
  else !tyIsFlt ty && fmtW f ≤ tyW ty
/-- Page formats of a single-word atomic of 2^sz bytes (R240). -/
def amoOk (f sz : Nat) (flt : Bool) : Bool :=
  if f == 0 then true
  else if flt then (sz == 1 && f == 2) || (sz == 2 && f == 1)
  else sz == 2 && (f == 10 || f == 11)
/-- Page formats of ATOM by TY (R244). -/
def atomOk (f ty : Nat) : Bool :=
  if f == 0 then true
  else if ty == 0 || ty == 1 then f == 10 || f == 11
  else if ty == 4 then f == 1 else if ty == 5 then f == 2 else false

/-- The value that an actor load delivers from an element of a page: zero-extended raw and float codes, extended integers
(R216). `scale` is the E8M0 code of a narrow element. -/
def ldValue (f sz scale n : Nat) : Word × Flags :=
  if f == 0 then (word n, noFlags)
  else if f ≤ 4 then
    let t := if sz == 1 then bf16 else fp32
    let r := if fmtNarrow f then decodeScaled t scale (fmtValue f n) else t.round 0 (fmtValue f n).1
    (word r.1, r.2)
  else (word (if fmtSigned f then sext (fmtW f) 64 n else n), noFlags)

/-- The element code that an actor store writes (R216). -/
def stValue (f sz n : Nat) : Nat × Flags :=
  if f == 0 then (n % 2 ^ (8 * 2 ^ sz), noFlags)
  else if f ≤ 4 then
    let src := if sz == 1 then bf16 else fp32
    (fmtFloat f).round 0 (src.decode (n % 2 ^ (8 * 2 ^ sz)))
  else
    let r := satInt (fmtSigned f) (fmtW f) (sgn (8 * 2 ^ sz) n)
    (ofInt (fmtW f) r.1, clamped r.2)

/-- A lane of type TY as a store writes it to a FLAT page (R115, R121). -/
def laneStore (f ty n : Nat) : Nat × Flags :=
  if f == 0 then (n % 2 ^ tyW ty, noFlags)
  else if f == 5 then toQ4e 0 ((tyFmt ty).decode n)
  else if f ≤ 4 then (fmtFloat f).round 0 ((tyFmt ty).decode n)
  else
    let r := satInt (fmtSigned f) (fmtW f) (rdInt ty n)
    (ofInt (fmtW f) r.1, clamped r.2)

/-- A lane of type TY as a load delivers it from one element (R113, R114); Q4E and INT4G stand in `Access`. -/
def laneLoad (f ty scale n : Nat) : Nat × Flags :=
  if f == 0 then (n % 2 ^ tyW ty, noFlags)
  else if f ≤ 4 then
    (if fmtNarrow f then decodeScaled (tyFmt ty) scale (fmtValue f n) else (tyFmt ty).round 0 (fmtValue f n).1)
  else (ofInt (tyW ty) (if fmtSigned f then sgn (fmtW f) n else ((n % 2 ^ fmtW f : Nat) : Int)), noFlags)

end Sys2Proof
end

