-- ==== Sys2Proof/Syntax.lean ====
section
/-!
DEFINITION. The syntax of the Q9: one constructor of `Instr` for each row of the opcode table, in the table's order,
but for the rows without fields, which stand at the end.
Three kinds of row: configuration commands (R45 to R49), actor instruction words (R65 to R69) and the whole, indivisible
steps of elements, engines and outside parties. The bits of an encoding are kept as the spec draws them; which values
are well formed is said in WellFormed.lean, and what a row does is said in Machine/.
-/
namespace Sys2Proof

/-- Register format R of an actor word (R65 to R67). -/
structure RForm where
  dst : Reg
  sa  : Reg
  sb  : Reg
  sc  : Reg
  ty  : BitVec 3
  rnd : BitVec 2
  sat : BitVec 1
  deriving DecidableEq, Repr

/-- Immediate format I of an actor word (R65 to R67). -/
structure IForm where
  dst : Reg
  sa  : Reg
  sb  : Reg
  ty  : BitVec 3
  imm : BitVec 32
  deriving DecidableEq, Repr

/-- Memory format M of an actor word (R65 to R67). -/
structure MForm where
  dst : Reg
  sa  : Reg
  sb  : Reg
  sz  : BitVec 2
  ix  : BitVec 1
  os  : BitVec 4
  hnd : BitVec 12
  ofs : BitVec 20
  deriving DecidableEq, Repr

/-- Branch format B of an actor word (R65 to R67). -/
structure BForm where
  dst : Reg
  sa  : Reg
  sb  : Reg
  cc  : BitVec 4
  imm : BitVec 32
  deriving DecidableEq, Repr

/-- Engine format X of an actor word (R65 to R67); `xm` and `ctl` are laid out in each entry. -/
structure XForm where
  dst : Reg
  sa  : Reg
  sb  : Reg
  sc  : Reg
  sd  : Reg
  xm  : BitVec 7
  ctl : BitVec 22
  deriving DecidableEq, Repr

/-- Modifiers of the element opcodes 0x01–0x7F (R59). -/
structure EMod where
  ty  : BitVec 3
  sub : BitVec 4
  sat : BitVec 1
  sw  : BitVec 1
  deriving DecidableEq, Repr

/-- One member's part of a collective as it reached this member (R278): its operation, type, reduction, root and count,
and the bytes of its source. -/
structure CollPart where
  op   : Nat
  ty   : Nat
  rop  : Nat
  root : Nat
  n    : Nat
  data : List Byte
  /-- the COLL's tag, and how many of its tag the member has issued before it -/
  tag  : Nat
  k    : Nat
  deriving DecidableEq, Repr

/-- A cell as it arrives at a port (R273): route prefix P0 to P2, header H0 and H1, the sending die, 256 payload bytes. -/
structure Cell where
  p0   : Word
  p1   : Word
  p2   : Word
  h0   : Word
  h1   : Word
  die  : Nat
  data : List Byte
  deriving DecidableEq, Repr

/-- A rem access that arrives at its target (R266, R269, R270): a read, a store of `data`, or an atomic whose operation code
`amo` is that of R270. `os` is the order and scope code of R67. -/
structure RemoteAccess where
  ctx  : Nat
  rkey : Nat
  addr : Nat
  size : Nat
  read : Bool
  amo  : Option Nat
  os   : Nat
  val  : Word
  cmp  : Word
  data : List Byte
  /-- runs of the data that came from poisoned words: first byte and length (R289) -/
  bad  : List (Nat × Nat)
  /-- the issuing agent's pod group (none with GV 0) and package (R268) -/
  gid  : Option Nat
  pkg  : Nat
  tag  : Nat
  deriving DecidableEq, Repr

/-- The supervisor's binding of a queue pair (R430): its number and Ethernet port, the context, queue and LAUNCH bit, and the path
MTU. -/
structure PairBind where
  qp     : Nat
  port   : Nat
  ctx    : Nat
  queue  : Nat
  launch : Bool
  mtu    : Nat
  deriving DecidableEq, Repr, Inhabited

/-- What the security block and firmware find at bring-up (R432): the firmware with its key and signature, the supervisor and whether
firmware verifies it, the pod address, the key table and the system actors' keys. -/
structure BringUp where
  firmware   : List Byte
  fwKey      : List Byte
  fwSig      : List Byte
  supervisor : List Byte
  svOk       : Bool
  pod        : Nat
  keys       : List (Nat × List Byte)
  systemKeys : List (List Byte)
  /-- what the supervisor binds: queue pairs (R430), the rate step, and PCIe requester IDs to contexts (R431) -/
  qpairs     : List PairBind
  rateStep   : Nat
  requesters : List (Nat × Nat)
  deriving DecidableEq, Repr

/-- How a reach access ends without its acknowledgment: the cause of R280, and the level of the recorded scope where the target slice's checker
refused it (R253). -/
structure ReachEnd where
  cause : Nat
  scope : Option Nat := none
  deriving DecidableEq, Repr, Inhabited

/-- One constructor for each row of the opcode table. -/
inductive Instr where
  /-- FIELD (R47). Configuration command that writes one field of one element in the selected page and bank, with the checks made at the command. -/
  | field (elem : BitVec 6) (fld : BitVec 5) (val : BitVec 19)
  /-- PAGE (R48). CTRL command that selects a logical page and bank 0 for later FIELD commands and starts the SEAL count at zero. -/
  | page (rsv : BitVec 15) (page : BitVec 4)
  /-- BANK (R48). CTRL command that selects bank 0 (active) or bank 1 (shadow) of the selected page. -/
  | bank (rsv : BitVec 18) (bank : BitVec 1)
  /-- ARM (R48). CTRL command that arms one element, or every element with ALL, to swap to its shadow bank. -/
  | arm (rsv : BitVec 11) (all : BitVec 1) (elem : BitVec 6)
  /-- DISARM (R48). CTRL ARM command with the DISARM bit set, which disarms one element or every element with ALL. -/
  | disarm (rsv : BitVec 11) (all : BitVec 1) (elem : BitVec 6)
  /-- SEAL (R61). CTRL command that closes the selected page, checks the count and runs every SEAL-time check against the final contents of the banks. -/
  | sealPage (count : BitVec 19)
  /-- PREFIX (R49). Command that supplies bits [48:19] of the value of the next FIELD command. -/
  | pfx (hi : BitVec 30)
  /-- ADD (R370). Integer add of SA and SB at the width of TY, wrapping or saturating. -/
  | add (f : RForm)
  /-- SUB (R370). Integer subtract of SB from SA at the width of TY. -/
  | sub (f : RForm)
  /-- MUL (R370). Integer multiply at the width of TY. -/
  | mul (f : RForm)
  /-- MULH (R370). Upper half of the exact double-width integer product. -/
  | mulh (f : RForm)
  /-- DIV (R370). Integer division truncated toward zero, with fixed results for a zero divisor. -/
  | div (f : RForm)
  /-- REM (R370). Integer remainder matching DIV. -/
  | rem (f : RForm)
  /-- AND (R370). Bitwise AND of two registers. -/
  | and (f : RForm)
  /-- OR (R370). Bitwise OR of two registers. -/
  | or (f : RForm)
  /-- XOR (R370). Bitwise XOR of two registers. -/
  | xor (f : RForm)
  /-- SHL (R370). Left shift by SB. -/
  | shl (f : RForm)
  /-- SHR (R370). Logical right shift by SB. -/
  | shr (f : RForm)
  /-- SAR (R370). Arithmetic right shift by SB. -/
  | sar (f : RForm)
  /-- MIN (R370). Smaller of two integers. -/
  | min (f : RForm)
  /-- MAX (R370). Larger of two integers. -/
  | max (f : RForm)
  /-- SLT (R370). Writes 1 if SA is less than SB, otherwise 0. -/
  | slt (f : RForm)
  /-- SEL (R370). Selects SA or SB according to SC. -/
  | sel (f : RForm)
  /-- POPC (R370). Counts the one bits of SA. -/
  | popc (f : RForm)
  /-- CLZ (R370). Counts the leading zeros of SA. -/
  | clz (f : RForm)
  /-- MOV (R370). Copies SA at the width of TY. -/
  | mov (f : RForm)
  /-- ADDI (R371). Integer add of a sign-extended immediate. -/
  | addi (f : IForm)
  /-- ANDI (R371). Bitwise AND with an immediate. -/
  | andi (f : IForm)
  /-- ORI (R371). Bitwise OR with an immediate. -/
  | ori (f : IForm)
  /-- XORI (R371). Bitwise XOR with an immediate. -/
  | xori (f : IForm)
  /-- SHLI (R371). Left shift by IMM[5:0]. -/
  | shli (f : IForm)
  /-- SHRI (R371). Logical right shift by IMM[5:0]. -/
  | shri (f : IForm)
  /-- SARI (R371). Arithmetic right shift by IMM[5:0]. -/
  | sari (f : IForm)
  /-- SLTI (R371). Compares SA with an immediate, writing 1 or 0. -/
  | slti (f : IForm)
  /-- MOVI (R371). Loads a sign-extended 32-bit immediate into DST. -/
  | movi (f : IForm)
  /-- MOVHI (R371). Writes the immediate into DST[63:32] and keeps DST[31:0]. -/
  | movhi (f : IForm)
  /-- FADD (R372). Actor floating-point add with flags recorded at position 60. -/
  | fadd (f : RForm)
  /-- FSUB (R372). Actor floating-point subtract. -/
  | fsub (f : RForm)
  /-- FMUL (R372). Actor floating-point multiply. -/
  | fmul (f : RForm)
  /-- FFMA (R372). Actor fused multiply-add of SA times SB plus SC, with one rounding. -/
  | ffma (f : RForm)
  /-- FMIN (R372). Actor floating-point minimum. -/
  | fmin (f : RForm)
  /-- FMAX (R372). Actor floating-point maximum. -/
  | fmax (f : RForm)
  /-- FCMP (R372). Actor floating-point compare that writes a less, equal, greater and unordered mask. -/
  | fcmp (f : RForm)
  /-- FCLASS (R372). Actor class mask of a floating-point value. -/
  | fclass (f : RForm)
  /-- CVT (R127). Converts one register value between formats, with an optional E8M0 scale, rounding and saturation. -/
  | cvt (f : XForm)
  /-- BR (R373). Unconditional branch. -/
  | br (f : BForm)
  /-- BCC (R373). Conditional branch that compares SA with SB. -/
  | bcc (f : BForm)
  /-- LOOP (R373). Decrements DST and branches if the result is nonzero. -/
  | loop (f : BForm)
  /-- LD (R217). Loads through a handle with format conversion and optional acquire order. -/
  | ld (f : MForm)
  /-- ST (R217). Stores through a handle with format conversion and optional release order. -/
  | st (f : MForm)
  /-- LDF (R221). Full/empty read that waits for FULL and leaves the word FULL, or joins the word's deferred-read list. -/
  | ldf (f : MForm)
  /-- LDFE (R221). Full/empty read that takes a FULL word, leaves it EMPTY and retries a parked writer. -/
  | ldfe (f : MForm)
  /-- STEF (R221). Full/empty write that fills an EMPTY word and serves its waiters, or parks in the writer queue. -/
  | stef (f : MForm)
  /-- WAYS (R229). Moves the boundary between scratchpad and L1 ways, with a full fence for the core. -/
  | ways (f : IForm)
  /-- HINV (R232). Drops one or all handle entries from every handle cache, together with the metadata and routing descriptor caches. -/
  | hinv (f : IForm)
  /-- AADD (R239). Atomic add at the word's home, returning the old value. -/
  | aadd (f : MForm)
  /-- AAND (R239). Atomic AND at the word's home. -/
  | aand (f : MForm)
  /-- AOR (R239). Atomic OR at the word's home. -/
  | aor (f : MForm)
  /-- AXOR (R239). Atomic XOR at the word's home. -/
  | axor (f : MForm)
  /-- AMIN (R239). Atomic signed minimum at the word's home. -/
  | amin (f : MForm)
  /-- AMAX (R239). Atomic signed maximum at the word's home. -/
  | amax (f : MForm)
  /-- AXCHG (R239). Atomic exchange at the word's home. -/
  | axchg (f : MForm)
  /-- AFADD (R239). Atomic floating-point add, rounded RNE, at the word's home. -/
  | afadd (f : MForm)
  /-- CAS (R239). Atomic compare-and-swap against the value DST held at issue. -/
  | cas (f : MForm)
  /-- DCAS (R242). Double compare-and-swap on two aligned 64-bit words under an ordered lock. -/
  | dcas (f : XForm)
  /-- AMOVE (R242). Atomic move of word 1 into word 2 when word 2 matches SA. -/
  | amove (f : XForm)
  /-- BIND (R251). Adds a region binding for a synchronisation object, or removes every binding of it, in the team's binding table. -/
  | bind (f : MForm)
  /-- ACQ (R252). Acquire read of a synchronisation object, with a cover limited to its bound regions. -/
  | acq (f : MForm)
  /-- REL (R252). Release write of a synchronisation object, with a cover limited to its bound regions. -/
  | rel (f : MForm)
  /-- BAR (R256). Arrives at a barrier instance with release, parks, and wakes with acquire when COUNT arrivals have been made. -/
  | bar (f : IForm)
  /-- MWAIT (R257). Waits at the word's home until the word is at least SB, then returns it, optionally as an acquire. -/
  | mwait (f : MForm)
  /-- WATCH (R258). Registers or cancels a memory watchpoint from a descriptor. -/
  | watch (f : MForm)
  /-- WATCH_APPEND (R259). An append held by a full command queue enters the queue once there is room. -/
  | watchAppend (held : Nat)
  /-- RST (R269). Stores one word through a rem, net or pcie window, with optional release. -/
  | rst (f : MForm)
  /-- RAMO (R270). Performs an atomic at the home of a word in a rem window. -/
  | ramo (f : MForm)
  /-- RSEND (R272). Ships a row as cells through a window, optionally as a commit point, and raises an arrival counter at the target. -/
  | rsend (f : XForm)
  /-- COLL (R278). Starts a collective (allgather, reducescatter, allreduce or bcast) over the tenant's pod group. -/
  | coll (f : XForm)
  /-- COLL_COMPLETE (R279). When the destination is performed, the completion word is written once with flags and error code. -/
  | collComplete (req : Nat) (peers : List (Nat × CollPart)) (reached : Bool)
  /-- CELL_ARRIVAL (R274). A cell arrives at the target, is admitted and written at the homes of its bytes, and updates its reassembly entry. -/
  | cellArrival (c : Cell)
  /-- REMOTE_ACCESS_ARRIVAL (R266). An arriving rem access is admitted by an inbound descriptor and performed at its home, or refused and reported to the sender. -/
  | remoteAccessArrival (a : RemoteAccess)
  /-- REACH_ACKNOWLEDGE (R269). The target's acknowledgment of a reach access arrives and releases any release waiting on it. -/
  | reachAcknowledge (req : Nat) (data : List Byte) (bad : List (Nat × Nat))
  /-- REACH_TIMEOUT (R280). A reach access not acknowledged within the reach timeout fails with asynchronous error 0x44. -/
  | reachTimeout (req : Nat) (cause : ReachEnd)
  /-- RDMA_WRITE_ARRIVAL (R276). An arriving RDMA write is admitted by a net inbound descriptor and placed as a plain write. -/
  | rdmaWriteArrival (qp : Nat) (rkey : Nat) (addr : Nat) (data : List Byte)
  /-- RDMA_SEND_LAUNCH (R430). A 256-byte SEND on a bound LAUNCH queue pair is appended to its command queue, or refused with a NAK. -/
  | rdmaSendLaunch (qp : Nat) (data : List Byte)
  /-- PCIE_INBOUND (R431). An inbound PCIe request is admitted by the device's inbound pcie descriptor or completes as an unsupported request. -/
  | pcieInbound (requester : Nat) (write : Bool) (addr : Nat) (data : List Byte)
  /-- XFER (R298). Issues a copy or fence request packet from registers into a copy queue. -/
  | xfer (f : XForm)
  /-- XIM2C (R303). Queues a copy of image patches into an operand slot. -/
  | xim2c (f : XForm)
  /-- GATH (R304). Queues an indexed gather through the gather units into memory or an operand slot. -/
  | gath (f : XForm)
  /-- DRAIN (R301). Waits until the covered copy requests are complete, then acts as an acquire for the l2 and hbm paths. -/
  | drain (f : IForm)
  /-- FENCEQ (R300). Places a fence entry that joins the queues in a mask. -/
  | fenceq (f : IForm)
  /-- COPY_PERFORM (R289). A copy engine performs an accepted request in queue order: it reads the source, writes the destination, then stamps, appends and issues any follow-on. -/
  | copyPerform (core queue : Nat)
  /-- FENCE_COMPLETE (R290). A fence completes when every request ahead of it in its joined queues is complete, and its append and follow-on then act. -/
  | fenceComplete (core queue : Nat)
  /-- GATHER_BATCH (R305). GREQ closes a batch of indices and passes it to the gather units, at 64 indices or 8 cycles after the first. -/
  | gatherBatch (core pos : Nat)
  /-- OCLAIM (R315). Claims an operand slot or accumulator tile, advances its generation and sets a slot descriptor. -/
  | oclaim (f : XForm)
  /-- ORELEASE (R316). Queues the release of a held slot or tile, which takes effect after the earlier operations that name it. -/
  | orelease (f : XForm)
  /-- MMA (R318). Tile product of two operand slots into an accumulator tile, by K-chunks, with optional checksums and accumulation. -/
  | mma (f : XForm)
  /-- MMAQ (R319). Tile product of a BF16 operand with an INT4G operand decoded by the prologue. -/
  | mmaq (f : XForm)
  /-- MCHK (R321). Compares a tile with its checksum references and writes row and column residue masks. -/
  | mchk (f : XForm)
  /-- MFIX (R322). Corrects a single faulty tile element named by one-bit row and column masks. -/
  | mfix (f : XForm)
  /-- MINJ (R323). Inverts one bit of a tile element in debug mode. -/
  | minj (f : XForm)
  /-- MACCZ (R324). Zeroes a tile and its checksum vectors and clears CKV. -/
  | maccz (f : XForm)
  /-- MACCST (R324). Stores a tile region or its checksum rows to memory at their homes. -/
  | maccst (f : XForm)
  /-- SEQUENCER_OPERATION (R326). The macro-op sequencer starts the next queued matrix operation, in arrival order. -/
  | sequencerOperation (core : Nat)
  /-- RCAP (R340). Sorts the share's choices into runs, publishes them to the exchange and raises XCTR. -/
  | rcap (f : XForm)
  /-- RCAP_MERGE (R340). Once XCTR reaches n·D, merges every expert's runs, assigns slots, applies the drop mode and writes records, INV, CNTS and DST. -/
  | rcapMerge (die : Nat)
  /-- RDISP (R345). Scatters the slotted rows of a range of tokens to the expert buffers and raises their counters. -/
  | rdisp (f : XForm)
  /-- RCOMB (R347). Combines the weighted expert outputs of a range of tokens into output rows. -/
  | rcomb (f : XForm)
  /-- RREC (R348). Reads one route record, INV entry or CNTS entry after the die's earlier RCAP and RDISP on that descriptor. -/
  | rrec (f : XForm)
  /-- RECV (R365). Takes the next counted token from a bound input channel, committing its set and waiting for the answer. -/
  | recv (f : XForm)
  /-- SEND (R367). Places one token on a bound output channel. -/
  | send (f : XForm)
  /-- PEEK (R366). Returns the head of an input channel without removing it. -/
  | peek (f : XForm)
  /-- NOTE (R368). Reads the team's notice at cursor RD and advances RD, optionally waiting for one. -/
  | note (f : XForm)
  /-- FIREND (R374). Waits for the firing's loads and stores, then ends the firing, finishing the slot when DONE is set. -/
  | firend (f : IForm)
  /-- CFGW (R386). Hands a configuration stream to the network of the actor's page set and returns a status. -/
  | cfgw (f : XForm)
  /-- LAUNCH (R400). Appends a launch packet to a command queue of the tenant. -/
  | launch (f : XForm)
  /-- SYSC (R413). Writes a call record to the trap ring. -/
  | sysc (f : IForm)
  /-- SREG (R408). A system actor reads or writes a context or package register. -/
  | sreg (f : XForm)
  /-- TLBI (R419). Drops translations from every translation unit and waits for accesses that used them. -/
  | tlbi (f : XForm)
  /-- DIGEST (R428). Writes the SHA-512 of a byte range, or of the team's output windows, to memory. -/
  | digest (f : XForm)
  /-- IADD (R136). Element integer add per lane. -/
  | iadd (m : EMod)
  /-- ISUB (R136). Element integer subtract per lane. -/
  | isub (m : EMod)
  /-- IMUL (R136). Element integer multiply per lane. -/
  | imul (m : EMod)
  /-- IMAD (R136). Element integer multiply-add, fitted once. -/
  | imad (m : EMod)
  /-- IMIN (R136). Element integer minimum. -/
  | imin (m : EMod)
  /-- IMAX (R136). Element integer maximum. -/
  | imax (m : EMod)
  /-- IABS (R136). Element integer absolute value. -/
  | iabs (m : EMod)
  /-- AND_ELEMENT (R136). Element bitwise AND. -/
  | andElement (m : EMod)
  /-- OR_ELEMENT (R136). Element bitwise OR. -/
  | orElement (m : EMod)
  /-- XOR_ELEMENT (R136). Element bitwise XOR. -/
  | xorElement (m : EMod)
  /-- NOT (R136). Element bitwise complement. -/
  | not (m : EMod)
  /-- SHL_ELEMENT (R136). Element left shift. -/
  | shlElement (m : EMod)
  /-- SHR_ELEMENT (R136). Element logical right shift. -/
  | shrElement (m : EMod)
  /-- SAR_ELEMENT (R136). Element arithmetic right shift. -/
  | sarElement (m : EMod)
  /-- ICMP (R136). Element integer compare under a SUB condition. -/
  | icmp (m : EMod)
  /-- FADD_ELEMENT (R137). Element floating-point add. -/
  | faddElement (m : EMod)
  /-- FSUB_ELEMENT (R137). Element floating-point subtract. -/
  | fsubElement (m : EMod)
  /-- FMUL_ELEMENT (R137). Element floating-point multiply. -/
  | fmulElement (m : EMod)
  /-- FFMA_ELEMENT (R137). Element fused multiply-add with one rounding. -/
  | ffmaElement (m : EMod)
  /-- FMIN_ELEMENT (R137). Element floating-point minimum. -/
  | fminElement (m : EMod)
  /-- FMAX_ELEMENT (R137). Element floating-point maximum. -/
  | fmaxElement (m : EMod)
  /-- FABS (R137). Element clears the sign bit. -/
  | fabs (m : EMod)
  /-- FNEG (R137). Element inverts the sign bit. -/
  | fneg (m : EMod)
  /-- FCMP_ELEMENT (R138). Element floating-point compare giving 1 or 0. -/
  | fcmpElement (m : EMod)
  /-- CMPF (R141). Compares two score-index candidates and forwards the winner, and the loser with LOSE. -/
  | cmpf (m : EMod)
  /-- FCLASS_ELEMENT (R138). Element class mask of a floating-point value. -/
  | fclassElement (m : EMod)
  /-- FCPYS (R137). Element takes the magnitude of a and the sign of b. -/
  | fcpys (m : EMod)
  /-- FEXP (R139). Element splits a value into significand and exponent in the SUB form. -/
  | fexp (m : EMod)
  /-- FLDX (R140). Element scales a by 2 to the power b, with one rounding. -/
  | fldx (m : EMod)
  /-- SEL_ELEMENT (R142). Element lane select of a or b under c. -/
  | selElement (m : EMod)
  /-- CVT_ELEMENT (R143). Element lane conversion between formats. -/
  | cvtElement (m : EMod)
  /-- PACK (R144). Element narrows two vectors into one. -/
  | pack (m : EMod)
  /-- UNPACK (R144). Element widens half of one vector. -/
  | unpack (m : EMod)
  /-- SHUF (R145). Element lane shuffle of a by the indices in b. -/
  | shuf (m : EMod)
  /-- BCAST (R145). Element broadcasts lane k to every lane. -/
  | bcast (m : EMod)
  /-- LRED (R146). Element tree reduction of the lanes. -/
  | lred (m : EMod)
  /-- LSCAN (R146). Element lane scan with a carry-in. -/
  | lscan (m : EMod)
  /-- LEXT (R145). Element extracts lane k into lane 0. -/
  | lext (m : EMod)
  /-- LINS (R145). Element inserts lane 0 of b at lane k. -/
  | lins (m : EMod)
  /-- ROT (R145). Element rotates the lanes by k. -/
  | rot (m : EMod)
  /-- LMASK (R145). Element lane mask that uses k1 where the mask bit is 0. -/
  | lmask (m : EMod)
  /-- CNT (R147). Source element that emits an arithmetic sequence, then eos. -/
  | cnt (m : EMod)
  /-- AFF (R148). Element emits an affine run for each base token, with optional stops. -/
  | aff (m : EMod)
  /-- DELAY (R149). Element delay line of d tokens. -/
  | delay (m : EMod)
  /-- ACC (R150). Commit-point accumulator that folds committed data tokens and emits totals by EMIT. -/
  | acc (m : EMod)
  /-- CONST (R151). Element emits the constant k0, per input token or as a source. -/
  | const (m : EMod)
  /-- FORK (R183). Copies a to x and y. -/
  | fork (m : EMod)
  /-- JOIN (R183). Pairs heads of a and b and forwards them with a common set. -/
  | join (m : EMod)
  /-- STEER (R183). Sends a to x or to y by the condition in b. -/
  | steer (m : EMod)
  /-- FILTER (R183). Passes a to x when the condition in b holds, and drops it otherwise. -/
  | filter (m : EMod)
  /-- GATE (R183). Passes data on a against credits added by b. -/
  | gate (m : EMod)
  /-- OSNEW (R160). Declares a new omission set for each data item and stamps it. -/
  | osnew (m : EMod)
  /-- OSQUENCH (R183). Sends QUENCH-if-LIVE for a's set under a condition, and drops or forwards a by the answer. -/
  | osquench (m : EMod)
  /-- OSCOMMIT (R183). Sends COMMIT-if-LIVE for a's set and optionally forwards a once sealed. -/
  | oscommit (m : EMod)
  /-- SCANU (R199). Fibre scan of an uncompressed level. -/
  | scanu (m : BitVec 11)
  /-- SCANC (R199). Fibre scan of a compressed level through offset and coordinate arrays. -/
  | scanc (m : BitVec 11)
  /-- SCANB (R199). Fibre scan of bitmap words. -/
  | scanb (m : BitVec 11)
  /-- ISECT (R200). Intersects matched coordinate or bitmap streams. -/
  | isect (m : BitVec 11)
  /-- UNION (R200). Unions matched coordinate streams with absent partners. -/
  | union (m : BitVec 11)
  /-- REPEAT (R202). Repeats a parent reference for each token of the aligned fibre. -/
  | repeatEl (m : BitVec 11)
  /-- REDUCE (R205). Commit-point fold of the innermost levels of a value stream. -/
  | reduce (m : BitVec 11)
  /-- LOCATE (R203). Finds each coordinate's position beneath a parent reference. -/
  | locate (m : BitVec 11)
  /-- CRDDROP (R204). Drops the coordinates whose aligned fibre is empty. -/
  | crddrop (m : BitVec 11)
  /-- POPPFX (R201). Turns bitmap bits into references by population prefix. -/
  | poppfx (m : BitVec 11)
  /-- BAND (R201). AND of matched bitmap words. -/
  | band (m : BitVec 11)
  /-- BOR (R201). OR of matched bitmap words. -/
  | bor (m : BitVec 11)
  /-- FWRITE (R206). Commit-point write of a stream as one compressed level or a packed value array. -/
  | fwrite (m : BitVec 11)
  /-- LDA (R226). Stream element that loads an affine traversal of up to three dimensions. -/
  | lda (m : BitVec 11)
  /-- LDI (R226). Stream element that loads one element for each index token. -/
  | ldi (m : BitVec 11)
  /-- STA (R226). Stream element that stores tokens along an affine traversal, as a commit point. -/
  | sta (m : BitVec 11)
  /-- STI (R226). Stream element that stores tokens at indices, as a commit point. -/
  | sti (m : BitVec 11)
  /-- ATOM (R245). Stream element that applies an atomic at each indexed element. -/
  | atom (m : BitVec 11)
  /-- XREQ (R299). Stream element that issues a copy request packet from a token, as a commit point. -/
  | xreq (m : BitVec 11)
  /-- GREQ (R305). Stream element that gathers indexed values through the gather units. -/
  | greq (m : BitVec 11)
  /-- BROUTE (R396). Boundary element that carries a channel to or from another page. -/
  | broute (m : BitVec 11)
  /-- MPORT (R328). Matrix port that commits and issues the matrix words carried by tokens. -/
  | mport (m : BitVec 11)
  /-- TRIGGER_EVENT (R392). HEAD receives a trigger event and, at TRIG events, ends the page's sources. -/
  | triggerEvent (core pos : Nat)
  /-- DRY_POLL (R393). Every DRYT cycles HEAD reads the queue pair and ends the sources when it is dry and only sources can fire. -/
  | dryPoll (core : Nat)
  /-- SWAP (R390). An armed element exchanges its banks as eos passes, once its parked effects are decided, and is disarmed. -/
  | swap (core pos : Nat)
  /-- APORT_SWAP (R390). An armed actor port swaps once every bound slot is finished and its eos has been sent. -/
  | aportSwap (core : Nat)
  /-- DISCARD_UNFIRED (R169). A head whose set is in the quench filter or overflow range is discarded without firing. -/
  | discardUnfired (core pos port : Nat)
  /-- OVERFLOW_LOOKUP (R168). A head whose set lies in the overflow range is looked up at its home damper before the element fires. -/
  | overflowLookup (core pos port : Nat)
  /-- RANKED_ARRIVAL_ELASTIC (R171). A data token that arrives at a full ranked input in elastic mode starts the eviction procedure. -/
  | rankedArrivalElastic (core pos port : Nat)
  /-- RANKED_ARRIVAL_REPRO (R174). A data token that arrives at a ranked input in repro mode is held or dropped by segment quota. -/
  | rankedArrivalRepro (core pos port : Nat)
  /-- SEGMENT_CLOSE (R444). A repro segment closes once its quench answers and broadcasts are complete, and its held tokens become heads. -/
  | segmentClose (core pos port : Nat)
  /-- DECLARE (R164). The damper allocates an entry for a new set as LIVE and clears its fate bit. -/
  | declare (die req : Nat)
  /-- COMMIT_IF_LIVE (R164). The home damper handles a commit request, sealing a LIVE set or answering from its state or fate bit. -/
  | commitIfLive (die req : Nat)
  /-- QUENCH_IF_LIVE (R164). The home damper handles a quench request, quenching a LIVE set, recording the notice and broadcasting. -/
  | quenchIfLive (die req : Nat)
  /-- DAMPER_ANSWER (R167). A damper answer arrives, and parked effects are performed or discarded in firing order. -/
  | damperAnswer (die answer : Nat)
  /-- QUENCH_BROADCAST (R170). A quench arrives at a core and is written into its quench filter, spilling into the overflow range when the filter is full. -/
  | quenchBroadcast (die cast : Nat)
  /-- FRONTIER_REPORT (R177). A damper reports its settled frontier to the damper of share 0. -/
  | frontierReport (launch share : Nat)
  /-- NOTICE_RELEASE (R177). The notice of a quenched set is released once every lower sequence has settled, and the set retires. -/
  | noticeRelease (launch : Nat)
  /-- FLUE_WRITE (R179). The flue writes a released notice to the ring when there is room, then writes WR with release. -/
  | flueWrite (launch : Nat)
  /-- SCHEDULING_ROUND (R360). The sequencer chooses a ready firing or a woken parked firing to start or resume. -/
  | schedulingRound (core : Nat)
  /-- SLOT_FINISH (R362). A slot whose inputs all hold eos becomes finished, discards tokens and sends eos on its outputs. -/
  | slotFinish (core slot : Nat)
  /-- LANTERN_DEAL (R377). The Lantern feeds a record index to an instance's job channel as it has room. -/
  | lanternDeal (launch share inst : Nat)
  /-- CHUNK_REQUEST (R378). In elastic mode an instance asks for records and receives a shrinking chunk. -/
  | chunkRequest (launch share inst : Nat)
  /-- DOORBELL (R429). A guest doorbell write appends a launch packet to a queue, or drops it with a CLASS 6 record. -/
  | doorbell (ctx queue : Nat) (addr : Word)
  /-- GUEST_HINV (R429). A guest write to the HINV register invalidates handle entries as HINV does. -/
  | guestHinv (ctx : Nat) (val : Word)
  /-- ADMIT (R101). A guest write to the ADMIT register checks a loaded image's signature and key and admits it, or refuses it. -/
  | admitImage (ctx : Nat) (addr : Word)
  /-- ADMISSION (R401). A launch at the head of its queue is checked, its areas are prepared, its pages placed and configured, and its sources released. -/
  | admission (ctx queue : Nat)
  /-- LAUNCH_END_STAGE1 (R186). Once every sink holds eos and nothing remains in flight, LIVE sets retire and the remaining notices are released. -/
  | launchEndStage1 (launch : Nat)
  /-- LAUNCH_END (R402). Once the notice path sinks hold eos, claims are released, the digest is computed, pages are returned and the completion word is written. -/
  | launchEnd (launch : Nat)
  /-- SLICE_EXPIRY (R410). A context's time slice expires while another context waits for pages, and its teams are pre-empted. -/
  | sliceExpiry (ctx : Nat)
  /-- TEAM_SWAP (R380). A firing parked in MWAIT past TEAMWAIT registers watchpoints and its team is pre-empted. -/
  | teamSwap (core slot : Nat)
  /-- ALLOCATOR_MOVE (R397). The allocator pre-empts a resident team and resumes it at once on other cores. -/
  | allocatorMove (launch die : Nat) (places : List (Nat × Nat))
  /-- SAVE (R403). Once the team is quiescent, its image is written to the save area. -/
  | saveTeam (launch : Nat)
  /-- DRAIN_BUDGET_EXPIRY (R403). If the team is not quiescent within DRB microseconds, elements stop and the state is saved as it stands. -/
  | drainBudgetExpiry (launch : Nat)
  /-- READMIT (R381). A swapped team is readmitted when a watchpoint fires or its time slice returns. -/
  | readmit (launch : Nat) (bySlice : Bool)
  /-- RESUME (R404). The team's shares are placed anew, their state, channels and damper entries restored, and their sources let run. -/
  | resumeTeam (launch : Nat)
  /-- REGISTER_WRITE (R409). A supervisor-window write to a context or package register without behaviour of its own is accepted or refused and recorded. -/
  | registerWrite (reg ctx : Nat) (val : Word)
  /-- CONTEXT_RESET (R423). Clearing EN ends the context's launches and zeroes what it owned. -/
  | contextReset (ctx : Nat) (val : Word)
  /-- FAULT_RESPONSE (R417). A supervisor write to FRESP makes the waiting accesses walk again or fail with error 0x42. -/
  | faultResponse (val : Word)
  /-- REASSIGN (R421). A write to register 0x88 starts the reassignment of physical pages to a new owner. -/
  | reassign (val : Word)
  /-- KEY_LOAD (R420). Firmware loads an AES key entry through the security block. -/
  | keyLoad (entry : Nat) (key : List Byte)
  /-- SCRUB (R424). The base die scrubs each HBM line at least once every 24 hours. -/
  | scrub (line : Nat)
  /-- BRING_UP (R432). At power-on, firmware is measured and verified, and memory, links, keys and the supervisor are brought up. -/
  | bringUp (b : BringUp)
  /-- ATTESTATION_REPORT (R433). On a firmware call, the security block issues a signed attestation report. -/
  | attestationReport (nonce : List Byte)
  /-- UNASSIGNED_MAJOR_OPCODE (R73). An actor instruction word whose MAJ is unassigned, including 0x000, raises decode trap 0x01 and ends the firing. -/
  | unassignedMajorOpcode (word : Word)
  /-- RESERVED_CLASS_COMMAND (R46). A configuration command with class 0b11 raises configuration fault 0x01 and stops the stream. -/
  | reservedClassCommand (bits : BitVec 30)
  /-- RESERVED_CTRL_OPERATION (R48). A CTRL command with operation 4–15 raises configuration fault 0x02 and stops the stream. -/
  | reservedCtrlOperation (opn : BitVec 4) (rsv : BitVec 7) (val : BitVec 19)
  /-- RDMA_ATOMIC_ARRIVAL (R430). An arriving RoCEv2 atomic request is answered with a NAK for an invalid request. -/
  | rdmaAtomicArrival (qp : Nat)
  /-- RDMA_READ_ARRIVAL (R430). An arriving RDMA READ from a net peer is served from the Q9's memory on its queue pair. -/
  | rdmaReadArrival (qp : Nat) (rkey addr len : Nat)
  /-- CONGESTION_NOTIFICATION_PACKET (R430). An arriving RoCEv2 congestion notification packet lowers the sending rate of its queue pair by the rate step. -/
  | congestionNotificationPacket (qp : Nat)
  /-- MFENCE (R325). Waits for every earlier matrix operation and MACCST write, then drops the L1 lines those writes touched. -/
  | mfence
  /-- NOP (R69). Advances the PC and does nothing else. -/
  | nop
  /-- DPORT_QUENCH (R184). Damper port command that sends QUENCH-if-LIVE for a set and answers its state. -/
  | dportQuench
  /-- DPORT_SEAL (R184). Damper port command that sends COMMIT-if-LIVE with no effect. -/
  | dportSeal
  /-- DPORT_QUERY (R184). Damper port command that returns a set's state code. -/
  | dportQuery
  /-- DPORT_SETTLE (R184). Damper port command that retires every LIVE set below a sequence at every share. -/
  | dportSettle
  /-- DPORT_OLDEST (R184). Damper port command that returns the lowest LIVE sequence of the team. -/
  | dportOldest
  /-- DPORT_UNASSIGNED (R184). A damper port command with an unassigned code raises element fault 0x28. -/
  | dportUnassigned
  /-- DPORT_NOTICE (R185). The damper port takes the notice at RD, emits it on x and advances RD. -/
  | dportNotice
  /-- HEAD_FLAGS (R389). Head command that returns an element's sticky flags. -/
  | headFlags
  /-- HEAD_CLEAR (R389). Head command that clears the flags of one element or of every element. -/
  | headClear
  /-- HEAD_ARMED (R389). Head command that returns the armed positions. -/
  | headArmed
  /-- HEAD_END (R389). Head command that ends the page's sources, as a trigger does. -/
  | headEnd
  /-- HEAD_COUNT (R389). Head command that returns the trigger event and page swap counts. -/
  | headCount
  /-- HEAD_UNASSIGNED (R389). A head command with an unassigned code raises element fault 0x2E. -/
  | headUnassigned
  /-- WATCHDOG (R363). A firing that has issued 65,536 instructions raises trap 0x28. -/
  | watchdog
  /-- REASSIGN_DONE (R421). After the range's accesses are performed, translations and lines are dropped, lines marked zero and owner tags set. -/
  | reassignDone
  /-- THROTTLE (R434). When the power averaged over 1 ms exceeds PLIM, firmware slows the compute clock by a step. -/
  | throttle
  /-- THERMAL_TRIP (R434). A thermal trip halts the package. -/
  | thermalTrip
  deriving DecidableEq, Repr

end Sys2Proof
end

