-- ==== Sys2Proof/Machine/Entries.lean ====
section
/-!
DEFINITION. What each entry of the opcode map allows in its fields: for actor words the decode trap codes 0x04, 0x05 and
0x06 (R65 to R71, R73 and the entries), for element opcodes the types, sub-operations, modes, ports and omission fields
that the operation's entry lists (R57 to R60, R134, R182, R195, R196, R225, R244, R299, R305, R328, R355, R388, R184).
-/
namespace Sys2Proof

/-- A nonzero field. -/
def nz {n : Nat} (b : BitVec n) : Bool := b != 0#n

/-- The lowest decode trap code among three conditions (R73). -/
def lowest (bad4 bad5 bad6 : Bool) : Option Nat :=
  if bad4 then some 4 else if bad5 then some 5 else if bad6 then some 6 else none

/-- Integer element types (R59): INT32, UINT32, INT16, INT8, INT64. -/
def tyInt (ty : BitVec 3) : Bool := ty.toNat ≤ 3 || ty.toNat == 6
/-- Float element types (R59): FP32, BF16. -/
def tyFlt (ty : BitVec 3) : Bool := ty.toNat == 4 || ty.toNat == 5
/-- A register that starts no pair (R65). -/
def odd (r : Reg) : Bool := r.toNat % 2 == 1
/-- Bits [lo + len − 1 : lo] of an IMM or CTL field. -/
def ctlF {n : Nat} (c : BitVec n) (lo len : Nat) : Nat := bits c.toNat lo len

/-- Integer R-format entries (R71, R370): `b`, `c` say whether SB and SC are used, `s` whether SAT is allowed. -/
def rInt (f : RForm) (b c s : Bool) : Option Nat :=
  lowest ((!b && nz f.sb) || (!c && nz f.sc)) (!tyInt f.ty || nz f.rnd || (!s && nz f.sat)) false
/-- Float R-format entries (R71, R372). -/
def rFlt (f : RForm) (b c : Bool) : Option Nat :=
  lowest ((!b && nz f.sb) || (!c && nz f.sc)) (!tyFlt f.ty || nz f.sat) false
/-- Integer I-format entries (R71, R371); `sh` for the shifts, whose IMM[31:6] is reserved. -/
def iInt (f : IForm) (sh : Bool) : Option Nat :=
  lowest (nz f.sb || (sh && ctlF f.imm 6 26 != 0)) (!tyInt f.ty) false
/-- I-format entries with no register operands and `used` low IMM bits; a nonzero TY is code `tyCode`. -/
def iCtl (f : IForm) (used : Nat) (ty4 : Bool) (bad5 : Bool) : Option Nat :=
  lowest (nz f.dst || nz f.sa || nz f.sb || f.imm.toNat / 2 ^ used != 0 || (ty4 && nz f.ty))
    ((!ty4 && nz f.ty) || bad5) false
/-- M-format entries: which registers are used, and the allowed SZ and OS values (R71); SA is used with IX only (R67). -/
def mChk (f : MForm) (d b : Bool) (sz os : List Nat) (pair : Bool) : Option Nat :=
  lowest ((!d && nz f.dst) || (!b && nz f.sb) || (!nz f.ix && nz f.sa))
    (!sz.contains f.sz.toNat || !os.contains f.os.toNat) (pair && odd f.sb)
/-- X-format registers: which of DST, SA, SB, SC and SD are used. -/
def xRegs (f : XForm) (d a b c e : Bool) : Bool :=
  (!d && nz f.dst) || (!a && nz f.sa) || (!b && nz f.sb) || (!c && nz f.sc) || (!e && nz f.sd)
/-- Bits of CTL from bit `k` up that must be zero. -/
def ctlHi (f : XForm) (k : Nat) : Bool := f.ctl.toNat / 2 ^ k != 0

/-- Every value of a two-bit and of a four-bit field. -/
def szAny : List Nat := [0, 1, 2, 3]
def osAny : List Nat := [0, 1, 2, 3, 4, 5, 6, 7, 8, 9, 10, 11, 12, 13, 14, 15]

/-- CVT (R128): CTL layout [21:18]→SC bits are SC and SD; SF is CTL[21:18], DF [17:14], USC [13], SAT [12]. -/
def cvtFmt (n : Nat) : Bool := n != 0 && n != 6 && n ≤ 12
def cvtInt (n : Nat) : Bool := 7 ≤ n && n ≤ 12
def cvtNarrow (n : Nat) : Bool := n == 3 || n == 4 || n == 5
def cvtChk (f : XForm) : Option Nat :=
  let sf := ctlF f.ctl 18 4
  let df := ctlF f.ctl 14 4
  let usc := ctlF f.ctl 13 1 == 1
  let sat := ctlF f.ctl 12 1 == 1
  lowest (xRegs f true true usc false false || ctlF f.ctl 0 12 != 0 || bits f.xm.toNat 0 2 != 0 || bits f.xm.toNat 4 3 != 0)
    (!cvtFmt sf || !cvtFmt df || (usc && !cvtNarrow sf && !cvtNarrow df) || (sat && !(cvtInt sf && cvtInt df))) false

/-- COLL (R277). -/
def collChk (f : XForm) : Option Nat :=
  let op := ctlF f.ctl 19 3
  let ty := ctlF f.ctl 16 3
  let rop := ctlF f.ctl 14 2
  lowest (xRegs f false true true true true || nz f.xm || (op != 3 && ctlF f.ctl 5 9 != 0))
    (3 < op || 3 < ty || rop == 3 || (ty == 0 && (op == 1 || op == 2)) || (rop != 0 && (op == 0 || op == 3))) false

/-- GATH (R304). -/
def gathChk (f : XForm) : Option Nat :=
  let dk := ctlF f.ctl 11 1 == 1
  let ap := ctlF f.ctl 10 1 == 1
  let st := ctlF f.ctl 9 1 == 1
  lowest (xRegs f (st || ap) true true true (!dk) || bits f.xm.toNat 1 6 != 0 || ctlHi f 17 || (!dk && ctlF f.ctl 12 5 != 0))
    ((st && dk) || ctlF f.ctl 0 3 == 7) false

/-- RECV, PEEK, SEND (R364): `send` swaps the roles of the registers. -/
def chanChk (f : XForm) (send : Bool) : Option Nat :=
  let hdr := ctlF f.ctl 6 1 == 1
  let w := ctlF f.ctl 4 2
  let bad4 := if send then xRegs f false true hdr false false else xRegs f true false false false hdr
  lowest (bad4 || nz f.xm || ctlHi f 7) (w == 3 || 8 ≤ ctlF f.ctl 0 4)
    (w == 2 && (if send then f.sa else f.dst).toNat % 8 != 0)

/-- A configuration command with a reserved VAL bit (R48), refused with configuration fault 0x09. -/
def rsvChk {n : Nat} (r : BitVec n) : Option Nat := if nz r then some 9 else none
/-- ARM and DISARM with ALL set leave [5:0] zero (R48). -/
def armChk (rsv : BitVec 11) (all : BitVec 1) (e : BitVec 6) : Option Nat :=
  if nz rsv || (nz all && nz e) then some 9 else none

/-! ### Element opcodes -/

/-- Opcodes assigned by R58, 0x00 among them. -/
def opAssigned (c : Nat) : Bool :=
  c ≤ 0x0F || (0x10 ≤ c && c ≤ 0x1D) || (0x20 ≤ c && c ≤ 0x23) || (0x30 ≤ c && c ≤ 0x37) || (0x40 ≤ c && c ≤ 0x44)
  || (0x50 ≤ c && c ≤ 0x57) || (0x80 ≤ c && c ≤ 0x8C) || (0xA0 ≤ c && c ≤ 0xA6) || c == 0xB0 || (0xB4 ≤ c && c ≤ 0xB7)

/-- Legal positions of an opcode (R57), by the opcode's range. -/
def opLegalAt (c p : Nat) : Bool :=
  if c == 0 then p ≤ 55 || (60 ≤ p && p ≤ 62)
  else if c ≤ 0x7F then p ≤ 39
  else if c ≤ 0x9F then 40 ≤ p && p ≤ 47
  else if c ≤ 0xAF then 48 ≤ p && p ≤ 55
  else if c == 0xB0 then 56 ≤ p && p ≤ 59
  else if c == 0xB4 then p == 60 else if c == 0xB5 then p == 61 else if c == 0xB6 then p == 62
  else if c == 0xB7 then p == 63 else false

/-- Opcodes to which R57 gives no position at all; R58 leaves them unassigned. -/
def opNowhere (c : Nat) : Bool := (0xB1 ≤ c && c ≤ 0xB3) || 0xB8 ≤ c
/-- Element types an operation's entry lists (R60). Operations without a TY field list none. -/
def opTypes (c : Nat) : List Nat :=
  if 1 ≤ c && c ≤ 0x0F then [0, 1, 2, 3, 6]
  else if 0x10 ≤ c && c ≤ 0x1D then [4, 5]
  else if c == 0x22 then [0, 2, 4]
  else if c == 0x23 then [2, 3, 5]
  else if c == 0x40 || c == 0x41 then [0, 1, 2, 3, 6]
  else if c == 0xA4 then [0, 1, 4, 5, 6]
  else if 0x20 ≤ c && c ≤ 0x57 || c == 0x86 || (0xA0 ≤ c && c ≤ 0xA3) || c == 0xA6 then [0, 1, 2, 3, 4, 5, 6]
  else []

/-- SUB codes an operation's entry defines, for a given TY. -/
def opSubOk (c ty sub : Nat) : Bool :=
  let flt := ty == 4 || ty == 5
  if c == 0x0F || c == 0x18 || c == 0x1C then sub ≤ 5
  else if c == 0x19 then sub ≤ 1
  else if c == 0x32 || c == 0x33 then sub ≤ (if flt then 2 else 5)
  else if c == 0x43 || c == 0x86 then sub ≤ 2
  else if c == 0xA4 then sub ≤ 7 && !(flt && 1 ≤ sub && sub ≤ 3)
  else sub == 0

/-- SAT is reserved on float types, on the bitwise and shift operations and on 0x40–0x57 (R60). -/
def opSatOk (c ty : Nat) : Bool :=
  !(ty == 4 || ty == 5 || (8 ≤ c && c ≤ 0x0E) || (0x40 ≤ c && c ≤ 0x57))

/-- MODE bits that an entry defines. -/
def opModeMask (c : Nat) : Nat :=
  if c == 0x19 then 3 else if c == 0x21 then 0x7FF
  else if c == 0x23 || c == 0x31 || c == 0x32 || c == 0x34 || c == 0x35 || c == 0x36 then 1
  else if c == 0x33 then 3
  else if c == 0x41 || c == 0x44 then 1 else if c == 0x43 then 3
  else if c == 0x52 || c == 0x53 || c == 0x57 then 1 else if c == 0x55 then 0xFF else if c == 0x56 then 3
  else if c == 0x80 || c == 0x81 || c == 0x85 || c == 0x89 || c == 0x8C then 1
  else if c == 0x82 || c == 0x83 || c == 0x87 then 3 else if c == 0x86 then 7
  else if c == 0xA0 then 7 else if c == 0xA1 then 6 else if c == 0xA2 || c == 0xA3 then 2
  else if c == 0xA4 then 0x1F else if c == 0xA5 then 3
  else if c == 0xB5 || c == 0xB6 then 1 else if c == 0xB7 then 0x30 else 0

/-- Input ports (0 a, 1 b, 2 c) that an operation uses under a MODE and SUB. -/
def opPorts (c mode sub : Nat) : List Nat :=
  let m0 := mode % 2 == 1
  let m1 := mode / 2 % 2 == 1
  if c == 4 || c == 0x13 || c == 0x20 then [0, 1, 2]
  else if c == 0x19 then (if m1 then [0, 1, 2] else [0, 1])
  else if c == 7 || c == 0x0B || c == 0x16 || c == 0x17 || c == 0x1A || c == 0x1C then [0]
  else if (1 ≤ c && c ≤ 0x0F) || (0x10 ≤ c && c ≤ 0x1D) then [0, 1]
  else if c == 0x21 || c == 0x23 then [0]
  else if c == 0x22 || c == 0x30 || c == 0x37 then [0, 1]
  else if c == 0x31 || c == 0x34 || c == 0x36 then (if m0 then [0, 1] else [0])
  else if c == 0x35 then (if m0 then [0, 1, 2] else [0, 1])
  else if c == 0x32 || c == 0x33 then [0]
  else if c == 0x40 then []
  else if c == 0x41 || c == 0x42 || c == 0x43 then [0]
  else if c == 0x44 then (if m0 then [] else [0])
  else if c == 0x50 || c == 0x55 || c == 0x57 then [0]
  else if c == 0x56 then (if m0 then [0, 1] else [0])
  else if 0x51 ≤ c && c ≤ 0x54 then [0, 1]
  else if 0x80 ≤ c && c ≤ 0x82 then (if m0 then [] else [0])
  else if c == 0x83 then (if m0 then [0, 1, 2] else [0, 1])
  else if c == 0x85 then (if m0 then [1] else [0, 1])
  else if c == 0x86 || c == 0x8C then [0]
  else if c == 0x89 then (if m0 then [0] else [0, 1])
  else if 0x84 ≤ c && c ≤ 0x8B then [0, 1]
  else if c == 0xA0 then []
  else if c == 0xA1 || c == 0xA2 || c == 0xA5 || c == 0xA6 then [0]
  else if c == 0xA3 then [0, 1]
  else if c == 0xA4 then (if sub == 7 then [0, 1, 2] else [0, 1])
  else if c == 0xB5 || c == 0xB6 || c == 0xB7 then [0]
  else []

/-- SW is reserved on an operation with fewer than two inputs (R60), and among the channel operations is allowed on
JOIN, STEER, FILTER and GATE only (R181). -/
def opSwOk (c mode sub : Nat) : Bool := 2 ≤ (opPorts c mode sub).length && c != 0x56

/-- Output ports (0 x, 1 y) that an operation drives under a MODE and SUB (R134, R182, R184, R196, R225, R244). -/
def opOuts (c mode : Nat) : List Nat :=
  let m0 := mode % 2 == 1
  if c == 0 then []
  else if c == 0x19 then (if m0 then [0, 1] else [0])
  else if c ≤ 0x44 then [0]
  else if c == 0x50 || c == 0x51 || c == 0x52 then [0, 1]
  else if c == 0x57 then (if m0 then [0] else [])
  else if c ≤ 0x57 then [0]
  else if c == 0x83 then (if mode / 2 % 2 == 1 then [0] else [0, 1])
  else if c == 0x85 || c == 0x86 || c == 0x8A || c == 0x8B then [0]
  else if c == 0x8C then []
  else if c ≤ 0x8B then [0, 1]
  else if c == 0xA4 then (if mode / 16 % 2 == 1 then [] else [0])
  else if c ≤ 0xA6 then [0]
  else if c == 0xB0 then [0, 1]
  else if c == 0xB4 || c == 0xB5 then [0]
  else if c == 0xB6 then (if m0 then [0, 1] else [1])
  else if c == 0xB7 then [1]
  else []

/-- Modifier bits [10:0] of field 0 that the operation reserves (R59, R195, R225, R244): configuration fault 0x09. -/
def opModReserved (c mods : Nat) : Bool :=
  if c == 0 then false
  else if c ≤ 0x7F then mods % 4 != 0
  else if c == 0x86 || c == 0xA4 then mods % 16 != 0
  else if (0xA0 ≤ c && c ≤ 0xA3) || c == 0xA6 then mods % 256 != 0
  else mods != 0

/-- POL values an operation's entry allows (R132, R150, R182, R196, R225, R299, R328); CMPF takes 0 (R141). -/
def opPolOk (c pol : Nat) : Bool :=
  if c == 0x19 || c == 0x54 || c == 0x57 || c == 0xA0 then pol == 0
  else if c == 0x43 || c == 0x55 || c == 0x86 || c == 0x8C then pol == 3
  else if c == 0x50 then pol == 0 || pol == 3
  else if c == 0x52 || c == 0x53 || c == 0x56 then pol == 0 || pol == 2
  else if c == 0xA1 || c == 0xA2 || c == 0xA5 || c == 0xA6 || c == 0xB5 then pol == 0 || pol == 3
  else true

/-- RSRC must be zero on CMPF, STEER, FILTER, GATE, OSQUENCH and OSCOMMIT (R141, R182). -/
def opRsrcOk (c rsrc : Nat) : Bool :=
  if c == 0x19 || c == 0x52 || c == 0x53 || c == 0x54 || c == 0x56 || c == 0x57 then rsrc == 0 else true

/-- CMT must be zero on the channel operations but JOIN (R182), and one on FWRITE (R196). -/
def opCmtOk (c cmt : Nat) : Bool :=
  if 0x50 ≤ c && c ≤ 0x57 && c != 0x51 then cmt == 0 else if c == 0x8C then cmt == 1 else true

/-- How an operation treats LF and OW: 0 the checks of R55 and R60 apply; 1 ignored (R181); 2 both must be zero (R195,
R299, R328, R184, R388, R355). -/
def opLanes (c : Nat) : Nat :=
  if 0x50 ≤ c && c ≤ 0x57 then 1
  else if 0x80 ≤ c && c ≤ 0x8C && c != 0x86 then 2
  else if c == 0xA5 || 0xB0 ≤ c then 2 else if c == 0 then 1 else 0

/-- An operation that is a commit point whatever CMT holds (R150, R166, R196, R225, R244, R299, R328, R183). -/
def opAlwaysCommit (c : Nat) : Bool :=
  c == 0x43 || c == 0x56 || c == 0x57 || c == 0x86 || c == 0x8C || c == 0xA2 || c == 0xA3 || c == 0xA4 || c == 0xA5 || c == 0xB5

/-- The modifiers of an element opcode 0x01–0x7F are well formed as far as they alone can say (R59, R60). -/
def emodChk (c : Nat) (m : EMod) : Option Nat :=
  if !(opTypes c).contains m.ty.toNat || !opSubOk c m.ty.toNat m.sub.toNat || (nz m.sat && !opSatOk c m.ty.toNat)
     || (nz m.sw && !(opSwOk c (opModeMask c) m.sub.toNat)) then some 8 else none

/-- The modifiers of an element opcode 0x80–0xB7 are well formed as far as they alone can say. -/
def kmodChk (c : Nat) (m : BitVec 11) : Option Nat :=
  if opModReserved c m.toNat then some 9
  else if c == 0x86 || (0xA0 ≤ c && c ≤ 0xA6 && c != 0xA5) then
    (if !(opTypes c).contains (bits m.toNat 8 3) || !opSubOk c (bits m.toNat 8 3) (bits m.toNat 4 4) then some 8 else none)
  else none

/-- Major opcodes that the map assigns (R69). -/
def majAssigned (m : Nat) : Bool :=
  (1 ≤ m && m ≤ 0x13) || m == 0x21 || (0x27 ≤ m && m ≤ 0x2C) || (0x2F ≤ m && m ≤ 0x31) || (0x40 ≤ m && m ≤ 0x48)
  || (0x60 ≤ m && m ≤ 0x62) || (0x80 ≤ m && m ≤ 0x84) || m == 0x87 || m == 0x88 || (0xC0 ≤ m && m ≤ 0xCA)
  || (0xD0 ≤ m && m ≤ 0xD5) || (0xE0 ≤ m && m ≤ 0xE3) || (0xF0 ≤ m && m ≤ 0xF4) || (0x100 ≤ m && m ≤ 0x109)
  || (0x120 ≤ m && m ≤ 0x123) || (0x130 ≤ m && m ≤ 0x134) || m == 0x13F || m == 0x140 || m == 0x141
  || (0x150 ≤ m && m ≤ 0x153)

/-- The code with which an instruction's own fields are refused, if any: decode trap codes 0x04 to 0x06 for actor words
(R73), configuration fault codes for configuration commands and element operations. -/
def entryFault : Instr → Option Nat
  | .field _ _ _ => none
  | .page rsv _ => rsvChk rsv
  | .bank rsv _ => rsvChk rsv
  | .arm rsv all e => armChk rsv all e
  | .disarm rsv all e => armChk rsv all e
  | .sealPage _ => none
  | .pfx _ => none
  | .add f => rInt f true false true
  | .sub f => rInt f true false true
  | .mul f => rInt f true false true
  | .mulh f => rInt f true false false
  | .div f => rInt f true false false
  | .rem f => rInt f true false false
  | .and f => rInt f true false false
  | .or f => rInt f true false false
  | .xor f => rInt f true false false
  | .shl f => rInt f true false false
  | .shr f => rInt f true false false
  | .sar f => rInt f true false false
  | .min f => rInt f true false false
  | .max f => rInt f true false false
  | .slt f => rInt f true false false
  | .sel f => rInt f true true false
  | .popc f => rInt f false false false
  | .clz f => rInt f false false false
  | .mov f => rInt f false false false
  | .addi f => iInt f false
  | .andi f => iInt f false
  | .ori f => iInt f false
  | .xori f => iInt f false
  | .shli f => iInt f true
  | .shri f => iInt f true
  | .sari f => iInt f true
  | .slti f => iInt f false
  | .movi f => lowest (nz f.sa || nz f.sb) (nz f.ty) false
  | .movhi f => lowest (nz f.sa || nz f.sb) (nz f.ty) false
  | .fadd f => rFlt f true false
  | .fsub f => rFlt f true false
  | .fmul f => rFlt f true false
  | .ffma f => rFlt f true true
  | .fmin f => rFlt f true false
  | .fmax f => rFlt f true false
  | .fcmp f => rFlt f true false
  | .fclass f => rFlt f false false
  | .cvt f => cvtChk f
  | .br f => lowest (nz f.dst || nz f.sa || nz f.sb) (nz f.cc) false
  | .bcc f => lowest (nz f.dst) (5 < f.cc.toNat) false
  | .loop f => lowest (nz f.sa || nz f.sb) (nz f.cc) false
  | .ld f => mChk f true false szAny [0, 1, 2, 3, 4, 5] false
  | .st f => mChk f false true szAny [0, 6, 7, 8, 9, 10] false
  | .ldf f => mChk f true false [3] [0] false
  | .ldfe f => mChk f true false [3] [0] false
  | .stef f => mChk f false true [3] [0] false
  | .ways f => iCtl f 5 true (f.imm.toNat % 32 < 4 || 20 < f.imm.toNat % 32)
  | .hinv f => iCtl f 13 false (ctlF f.imm 12 1 == 1 && ctlF f.imm 0 12 != 0)
  | .aadd f => mChk f true true [2, 3] osAny false
  | .aand f => mChk f true true [2, 3] osAny false
  | .aor f => mChk f true true [2, 3] osAny false
  | .axor f => mChk f true true [2, 3] osAny false
  | .amin f => mChk f true true [2, 3] osAny false
  | .amax f => mChk f true true [2, 3] osAny false
  | .axchg f => mChk f true true [2, 3] osAny false
  | .afadd f => mChk f true true [1, 2] osAny false
  | .cas f => mChk f true true [2, 3] osAny false
  | .dcas f => lowest (bits f.xm.toNat 4 3 != 0 || ctlF f.ctl 0 10 != 0) false (odd f.dst || odd f.sa || odd f.sb)
  | .amove f => lowest (bits f.xm.toNat 4 3 != 0 || ctlF f.ctl 0 10 != 0) false (odd f.dst)
  | .bind f => mChk f false true [3] [0] true
  | .acq f => mChk f true false [3] [1, 2, 3, 4, 5] false
  | .rel f => mChk f false true [3] [6, 7, 8, 9, 10] false
  | .bar f => lowest (nz f.dst || nz f.sa || nz f.sb || nz f.ty || ctlF f.imm 12 4 != 0 || ctlF f.imm 3 5 != 0)
      (ctlF f.imm 16 16 == 0 || ctlF f.imm 0 3 == 0 || 5 < ctlF f.imm 0 3) false
  | .mwait f => mChk f true true [2, 3] [0, 1, 2, 3, 4, 5] false
  | .watch f => mChk f true false [3] [0] false
  | .watchAppend _ => none
  | .rst f => mChk f false true szAny [0, 9, 10] false
  | .ramo f => mChk f true true [2, 3] [0, 4, 5, 9, 10, 14, 15] true
  | .rsend f => lowest (xRegs f (ctlF f.ctl 0 1 == 1) true true true true || nz f.xm || ctlHi f 3) false false
  | .coll f => collChk f
  | .collComplete _ _ _ => none
  | .cellArrival _ => none
  | .remoteAccessArrival _ => none
  | .reachAcknowledge _ _ _ => none
  | .reachTimeout _ _ => none
  | .rdmaWriteArrival _ _ _ _ => none
  | .rdmaSendLaunch _ _ => none
  | .pcieInbound _ _ _ _ => none
  | .xfer f => lowest (xRegs f false true true false false || bits f.xm.toNat 1 6 != 0 || nz f.ctl) false (odd f.sa || odd f.sb)
  | .xim2c f => lowest (xRegs f (ctlF f.ctl 8 1 == 1) true true true true || bits f.xm.toNat 1 6 != 0 || ctlHi f 9) false false
  | .gath f => gathChk f
  | .drain f => iCtl f 3 false (4 < f.imm.toNat)
  | .fenceq f => iCtl f 8 false (f.imm.toNat == 0)
  | .copyPerform _ _ => none
  | .fenceComplete _ _ => none
  | .gatherBatch _ _ => none
  | .oclaim f => lowest (xRegs f true (ctlF f.ctl 5 1 == 0) false false false || nz f.xm || ctlHi f 6) (ctlF f.ctl 5 1 == 1 && 7 < ctlF f.ctl 0 5) false
  | .orelease f => lowest (xRegs f false false false false false || nz f.xm || ctlHi f 6) (ctlF f.ctl 5 1 == 1 && 7 < ctlF f.ctl 0 5) false
  | .mma f => lowest (xRegs f false false false false false || bits f.xm.toNat 2 5 != 0 || ctlHi f 13) false false
  | .mmaq f => lowest (xRegs f false false false false false || bits f.xm.toNat 2 5 != 0 || ctlHi f 13) false false
  | .mchk f => lowest (xRegs f true false false false false || nz f.xm || ctlHi f 9) false (odd f.dst)
  | .mfix f => lowest (xRegs f true true false false false || nz f.xm || ctlHi f 3) false (odd f.sa)
  | .minj f => lowest (xRegs f false false false false false || nz f.xm || ctlHi f 20) false false
  | .maccz f => lowest (xRegs f false false false false false || nz f.xm || ctlHi f 3) false false
  | .maccst f => lowest (xRegs f false true true false false || nz f.xm || ctlHi f 17)
      (ctlF f.ctl 3 2 == 3 || (ctlF f.ctl 3 2 == 2 && ctlF f.ctl 5 12 != 0)) false
  | .sequencerOperation _ => none
  | .rcap f => lowest (xRegs f true true true false false || nz f.xm || nz f.ctl) false false
  | .rcapMerge _ => none
  | .rdisp f => lowest (xRegs f false true true true false || nz f.xm || nz f.ctl) false false
  | .rcomb f => lowest (xRegs f false true true true false || nz f.xm || nz f.ctl) false false
  | .rrec f => lowest (xRegs f true true true (ctlF f.ctl 0 2 != 2) false || nz f.xm || ctlHi f 2) (ctlF f.ctl 0 2 == 3) false
  | .recv f => chanChk f false
  | .send f => chanChk f true
  | .peek f => chanChk f false
  | .note f => lowest (xRegs f true false false false false || nz f.xm || ctlHi f 1) false (odd f.dst)
  | .firend f => iCtl f 1 true false
  | .cfgw f => lowest (xRegs f true true false true false || nz f.xm || nz f.ctl) false false
  | .launch f => lowest (xRegs f true true false false false || nz f.xm || ctlHi f 3) false false
  | .sysc f => lowest (f.imm.toNat / 2 ^ 16 != 0) (nz f.ty) false
  | .sreg f => lowest (xRegs f true true false false false || nz f.xm || ctlHi f 13) false false
  | .tlbi f => lowest (xRegs f false (ctlF f.ctl 4 2 == 1) false false false || nz f.xm || ctlHi f 6) (ctlF f.ctl 4 2 == 3) false
  | .digest f => lowest (xRegs f false true true true false || nz f.xm || ctlHi f 2) false false
  | .iadd m => emodChk 0x01 m
  | .isub m => emodChk 0x02 m
  | .imul m => emodChk 0x03 m
  | .imad m => emodChk 0x04 m
  | .imin m => emodChk 0x05 m
  | .imax m => emodChk 0x06 m
  | .iabs m => emodChk 0x07 m
  | .andElement m => emodChk 0x08 m
  | .orElement m => emodChk 0x09 m
  | .xorElement m => emodChk 0x0A m
  | .not m => emodChk 0x0B m
  | .shlElement m => emodChk 0x0C m
  | .shrElement m => emodChk 0x0D m
  | .sarElement m => emodChk 0x0E m
  | .icmp m => emodChk 0x0F m
  | .faddElement m => emodChk 0x10 m
  | .fsubElement m => emodChk 0x11 m
  | .fmulElement m => emodChk 0x12 m
  | .ffmaElement m => emodChk 0x13 m
  | .fminElement m => emodChk 0x14 m
  | .fmaxElement m => emodChk 0x15 m
  | .fabs m => emodChk 0x16 m
  | .fneg m => emodChk 0x17 m
  | .fcmpElement m => emodChk 0x18 m
  | .cmpf m => emodChk 0x19 m
  | .fclassElement m => emodChk 0x1A m
  | .fcpys m => emodChk 0x1B m
  | .fexp m => emodChk 0x1C m
  | .fldx m => emodChk 0x1D m
  | .selElement m => emodChk 0x20 m
  | .cvtElement m => emodChk 0x21 m
  | .pack m => emodChk 0x22 m
  | .unpack m => emodChk 0x23 m
  | .shuf m => emodChk 0x30 m
  | .bcast m => emodChk 0x31 m
  | .lred m => emodChk 0x32 m
  | .lscan m => emodChk 0x33 m
  | .lext m => emodChk 0x34 m
  | .lins m => emodChk 0x35 m
  | .rot m => emodChk 0x36 m
  | .lmask m => emodChk 0x37 m
  | .cnt m => emodChk 0x40 m
  | .aff m => emodChk 0x41 m
  | .delay m => emodChk 0x42 m
  | .acc m => emodChk 0x43 m
  | .const m => emodChk 0x44 m
  | .fork m => emodChk 0x50 m
  | .join m => emodChk 0x51 m
  | .steer m => emodChk 0x52 m
  | .filter m => emodChk 0x53 m
  | .gate m => emodChk 0x54 m
  | .osnew m => emodChk 0x55 m
  | .osquench m => emodChk 0x56 m
  | .oscommit m => emodChk 0x57 m
  | .scanu m => kmodChk 0x80 m
  | .scanc m => kmodChk 0x81 m
  | .scanb m => kmodChk 0x82 m
  | .isect m => kmodChk 0x83 m
  | .union m => kmodChk 0x84 m
  | .repeatEl m => kmodChk 0x85 m
  | .reduce m => kmodChk 0x86 m
  | .locate m => kmodChk 0x87 m
  | .crddrop m => kmodChk 0x88 m
  | .poppfx m => kmodChk 0x89 m
  | .band m => kmodChk 0x8A m
  | .bor m => kmodChk 0x8B m
  | .fwrite m => kmodChk 0x8C m
  | .lda m => kmodChk 0xA0 m
  | .ldi m => kmodChk 0xA1 m
  | .sta m => kmodChk 0xA2 m
  | .sti m => kmodChk 0xA3 m
  | .atom m => kmodChk 0xA4 m
  | .xreq m => kmodChk 0xA5 m
  | .greq m => kmodChk 0xA6 m
  | .broute m => kmodChk 0xB0 m
  | .mport m => kmodChk 0xB5 m
  | .triggerEvent _ _ => none
  | .dryPoll _ => none
  | .swap _ _ => none
  | .aportSwap _ => none
  | .discardUnfired _ _ _ => none
  | .overflowLookup _ _ _ => none
  | .rankedArrivalElastic _ _ _ => none
  | .rankedArrivalRepro _ _ _ => none
  | .segmentClose _ _ _ => none
  | .declare _ _ => none
  | .commitIfLive _ _ => none
  | .quenchIfLive _ _ => none
  | .damperAnswer _ _ => none
  | .quenchBroadcast _ _ => none
  | .frontierReport _ _ => none
  | .noticeRelease _ => none
  | .flueWrite _ => none
  | .schedulingRound _ => none
  | .slotFinish _ _ => none
  | .lanternDeal _ _ _ => none
  | .chunkRequest _ _ _ => none
  | .doorbell _ _ _ => none
  | .guestHinv _ _ => none
  | .admitImage _ _ => none
  | .admission _ _ => none
  | .launchEndStage1 _ => none
  | .launchEnd _ => none
  | .sliceExpiry _ => none
  | .teamSwap _ _ => none
  | .allocatorMove _ _ _ => none
  | .saveTeam _ => none
  | .drainBudgetExpiry _ => none
  | .readmit _ _ => none
  | .resumeTeam _ => none
  | .registerWrite _ _ _ => none
  | .contextReset _ _ => none
  | .faultResponse _ => none
  | .reassign _ => none
  | .keyLoad _ _ => none
  | .scrub _ => none
  | .bringUp _ => none
  | .attestationReport _ => none
  | .unassignedMajorOpcode w => if majAssigned (fld w 54 10) then some 1 else none
  | .reservedClassCommand _ => none
  | .reservedCtrlOperation opn rsv _ => if opn.toNat < 4 && !nz rsv then some 1 else none
  | .rdmaAtomicArrival _ => none
  | .rdmaReadArrival _ _ _ _ => none
  | .congestionNotificationPacket _ => none
  | .mfence => none
  | .nop => none
  | .dportQuench => none
  | .dportSeal => none
  | .dportQuery => none
  | .dportSettle => none
  | .dportOldest => none
  | .dportUnassigned => none
  | .dportNotice => none
  | .headFlags => none
  | .headClear => none
  | .headArmed => none
  | .headEnd => none
  | .headCount => none
  | .headUnassigned => none
  | .watchdog => none
  | .reassignDone => none
  | .throttle => none
  | .thermalTrip => none

end Sys2Proof
end

