-- ==== Sys2Proof/WellFormed.lean ====
section
/-!
DEFINITION. Well-formed instructions: those whose own fields no entry of the opcode map refuses (R48, R60, R65 to R71,
R73). What the machine does with an ill-formed word is said in Decode.lean and Machine/.
-/
namespace Sys2Proof

/-- No field of the instruction is reserved, unused and nonzero, an odd pair, or outside its entry's values. -/
def Instr.wellFormed (i : Instr) : Bool := (entryFault i).isNone

end Sys2Proof
end

