-- ==== Sys2Proof/Decode.lean ====
section
/-!
DEFINITION. Decoding, total on any bits (R46 to R49, R57, R59, R65 to R73), and after it the encoder, written from the
same encoding tables. Reserved encodings never fall through to a neighbour: a word whose major opcode the map leaves out
is read as the row UNASSIGNED_MAJOR_OPCODE, a class 0b11 command and a CTRL command outside the four operations as the
rows of those names, and every other refused word is refused with its decode trap code.
-/
namespace Sys2Proof

/-! ### Fields of an actor word -/

/-- The R layout: SC in [31:27] (R66), TY, RND, SAT in MOD (R67). -/
def decR (w : Word) : RForm where
  dst := w.extractLsb' 49 5
  sa  := w.extractLsb' 44 5
  sb  := w.extractLsb' 39 5
  ty  := w.extractLsb' 36 3
  rnd := w.extractLsb' 34 2
  sat := w.extractLsb' 33 1
  sc  := w.extractLsb' 27 5

/-- The I layout. -/
def decI (w : Word) : IForm where
  dst := w.extractLsb' 49 5
  sa  := w.extractLsb' 44 5
  sb  := w.extractLsb' 39 5
  ty  := w.extractLsb' 36 3
  imm := w.extractLsb' 0 32

/-- The M layout. -/
def decM (w : Word) : MForm where
  dst := w.extractLsb' 49 5
  sa  := w.extractLsb' 44 5
  sb  := w.extractLsb' 39 5
  sz  := w.extractLsb' 37 2
  ix  := w.extractLsb' 36 1
  os  := w.extractLsb' 32 4
  hnd := w.extractLsb' 20 12
  ofs := w.extractLsb' 0 20

/-- The B layout. -/
def decB (w : Word) : BForm where
  dst := w.extractLsb' 49 5
  sa  := w.extractLsb' 44 5
  sb  := w.extractLsb' 39 5
  cc  := w.extractLsb' 35 4
  imm := w.extractLsb' 0 32

/-- The X layout. -/
def decX (w : Word) : XForm where
  dst := w.extractLsb' 49 5
  sa  := w.extractLsb' 44 5
  sb  := w.extractLsb' 39 5
  xm  := w.extractLsb' 32 7
  sc  := w.extractLsb' 27 5
  sd  := w.extractLsb' 22 5
  ctl := w.extractLsb' 0 22

/-- The instruction that a word's major opcode names, with its fields as they stand (R69). -/
def rawWord (w : Word) : Option Instr :=
  match fld w 54 10 with
  | 0x001 => some (.add (decR w))
  | 0x002 => some (.sub (decR w))
  | 0x003 => some (.mul (decR w))
  | 0x004 => some (.mulh (decR w))
  | 0x005 => some (.div (decR w))
  | 0x006 => some (.rem (decR w))
  | 0x007 => some (.and (decR w))
  | 0x008 => some (.or (decR w))
  | 0x009 => some (.xor (decR w))
  | 0x00A => some (.shl (decR w))
  | 0x00B => some (.shr (decR w))
  | 0x00C => some (.sar (decR w))
  | 0x00D => some (.min (decR w))
  | 0x00E => some (.max (decR w))
  | 0x00F => some (.slt (decR w))
  | 0x010 => some (.sel (decR w))
  | 0x011 => some (.popc (decR w))
  | 0x012 => some (.clz (decR w))
  | 0x013 => some (.mov (decR w))
  | 0x021 => some (.addi (decI w))
  | 0x027 => some (.andi (decI w))
  | 0x028 => some (.ori (decI w))
  | 0x029 => some (.xori (decI w))
  | 0x02A => some (.shli (decI w))
  | 0x02B => some (.shri (decI w))
  | 0x02C => some (.sari (decI w))
  | 0x02F => some (.slti (decI w))
  | 0x030 => some (.movi (decI w))
  | 0x031 => some (.movhi (decI w))
  | 0x040 => some (.fadd (decR w))
  | 0x041 => some (.fsub (decR w))
  | 0x042 => some (.fmul (decR w))
  | 0x043 => some (.ffma (decR w))
  | 0x044 => some (.fmin (decR w))
  | 0x045 => some (.fmax (decR w))
  | 0x046 => some (.fcmp (decR w))
  | 0x047 => some (.cvt (decX w))
  | 0x048 => some (.fclass (decR w))
  | 0x060 => some (.br (decB w))
  | 0x061 => some (.bcc (decB w))
  | 0x062 => some (.loop (decB w))
  | 0x080 => some (.ld (decM w))
  | 0x081 => some (.st (decM w))
  | 0x082 => some (.ldf (decM w))
  | 0x083 => some (.ldfe (decM w))
  | 0x084 => some (.stef (decM w))
  | 0x087 => some (.ways (decI w))
  | 0x088 => some (.hinv (decI w))
  | 0x0C0 => some (.aadd (decM w))
  | 0x0C1 => some (.aand (decM w))
  | 0x0C2 => some (.aor (decM w))
  | 0x0C3 => some (.axor (decM w))
  | 0x0C4 => some (.amin (decM w))
  | 0x0C5 => some (.amax (decM w))
  | 0x0C6 => some (.axchg (decM w))
  | 0x0C7 => some (.afadd (decM w))
  | 0x0C8 => some (.cas (decM w))
  | 0x0C9 => some (.dcas (decX w))
  | 0x0CA => some (.amove (decX w))
  | 0x0D0 => some (.bind (decM w))
  | 0x0D1 => some (.acq (decM w))
  | 0x0D2 => some (.rel (decM w))
  | 0x0D3 => some (.bar (decI w))
  | 0x0D4 => some (.mwait (decM w))
  | 0x0D5 => some (.watch (decM w))
  | 0x0E0 => some (.rst (decM w))
  | 0x0E1 => some (.rsend (decX w))
  | 0x0E2 => some (.ramo (decM w))
  | 0x0E3 => some (.coll (decX w))
  | 0x0F0 => some (.xfer (decX w))
  | 0x0F1 => some (.xim2c (decX w))
  | 0x0F2 => some (.gath (decX w))
  | 0x0F3 => some (.drain (decI w))
  | 0x0F4 => some (.fenceq (decI w))
  | 0x100 => some (.oclaim (decX w))
  | 0x101 => some (.orelease (decX w))
  | 0x102 => some (.mma (decX w))
  | 0x103 => some (.mmaq (decX w))
  | 0x104 => some (.mchk (decX w))
  | 0x105 => some (.mfix (decX w))
  | 0x106 => some (.minj (decX w))
  | 0x107 => some (.maccz (decX w))
  | 0x108 => some (.maccst (decX w))
  | 0x109 => some .mfence
  | 0x120 => some (.rcap (decX w))
  | 0x121 => some (.rdisp (decX w))
  | 0x122 => some (.rcomb (decX w))
  | 0x123 => some (.rrec (decX w))
  | 0x130 => some (.recv (decX w))
  | 0x131 => some (.send (decX w))
  | 0x132 => some (.peek (decX w))
  | 0x133 => some (.note (decX w))
  | 0x134 => some (.firend (decI w))
  | 0x13F => some .nop
  | 0x140 => some (.cfgw (decX w))
  | 0x141 => some (.launch (decX w))
  | 0x150 => some (.sysc (decI w))
  | 0x151 => some (.sreg (decX w))
  | 0x152 => some (.tlbi (decX w))
  | 0x153 => some (.digest (decX w))
  | _ => none

/-- Bits that the format of an instruction reserves (R66, R67): MOD [32] and IMM [26:0] of R, MOD [35:32] of I, MOD
[34:32] of B. MFENCE and NOP use no bit but MAJ (R314, R69). -/
def formatReserved (m : Nat) (w : Word) : Bool :=
  if (1 ≤ m && m ≤ 0x13) || (0x40 ≤ m && m ≤ 0x46) || m == 0x48 then fld w 32 1 != 0 || fld w 0 27 != 0
  else if m == 0x21 || (0x27 ≤ m && m ≤ 0x31) || m == 0x87 || m == 0x88 || m == 0xD3 || m == 0xF3 || m == 0xF4
      || m == 0x134 || m == 0x150 then fld w 32 4 != 0
  else if m == 0x109 || m == 0x13F then fld w 0 54 != 0
  else if 0x60 ≤ m && m ≤ 0x62 then fld w 32 3 != 0
  else false

/-- Decode an actor word as it issues (R72, R73), in a system actor or not, in tenant debug mode or not. A refused word
gives the lowest of its decode trap codes 0x02 to 0x06. -/
def decodeWord (sys dbg : Bool) (w : Word) : Except Nat Instr :=
  match rawWord w with
  | none => .ok (.unassignedMajorOpcode w)
  | some i =>
    if (fld w 54 10 == 0x151 || fld w 54 10 == 0x152) && !sys then .error 2
    else if fld w 54 10 == 0x106 && !dbg then .error 3
    else if formatReserved (fld w 54 10) w then .error 4
    else match entryFault i with
      | some c => .error c
      | none => .ok i

/-- Decode a configuration command (R46 to R49). Every command decodes; the rows RESERVED_CLASS_COMMAND and
RESERVED_CTRL_OPERATION are the commands that the map leaves out. -/
def decodeCmd (c : Cmd) : Instr :=
  match bits c.toNat 30 2 with
  | 0 => .field (c.extractLsb' 24 6) (c.extractLsb' 19 5) (c.extractLsb' 0 19)
  | 1 =>
    if bits c.toNat 19 7 != 0 then
      .reservedCtrlOperation (c.extractLsb' 26 4) (c.extractLsb' 19 7) (c.extractLsb' 0 19)
    else match bits c.toNat 26 4 with
      | 0 => .page (c.extractLsb' 4 15) (c.extractLsb' 0 4)
      | 1 => .bank (c.extractLsb' 1 18) (c.extractLsb' 0 1)
      | 2 =>
        if bits c.toNat 7 1 == 0 then .arm (c.extractLsb' 8 11) (c.extractLsb' 6 1) (c.extractLsb' 0 6)
        else .disarm (c.extractLsb' 8 11) (c.extractLsb' 6 1) (c.extractLsb' 0 6)
      | 3 => .sealPage (c.extractLsb' 0 19)
      | _ => .reservedCtrlOperation (c.extractLsb' 26 4) 0 (c.extractLsb' 0 19)
  | 2 => .pfx (c.extractLsb' 0 30)
  | _ => .reservedClassCommand (c.extractLsb' 0 30)

/-- The modifiers [10:0] of an element opcode 0x01–0x7F (R59). -/
def decEMod (v : BitVec 19) : EMod where
  ty  := v.extractLsb' 8 3
  sub := v.extractLsb' 4 4
  sat := v.extractLsb' 3 1
  sw  := v.extractLsb' 2 1

/-- The element operation that field 0 names: opcode [18:11], modifiers [10:0] (R51, R57 to R59). NOP (0x00) never fires
and the ports 0xB4, 0xB6 and 0xB7 act through rows of their own, so none of them names an operation here. -/
def decodeElem (v : BitVec 19) : Option Instr :=
  match bits v.toNat 11 8 with
  | 0x01 => some (.iadd (decEMod v))
  | 0x02 => some (.isub (decEMod v))
  | 0x03 => some (.imul (decEMod v))
  | 0x04 => some (.imad (decEMod v))
  | 0x05 => some (.imin (decEMod v))
  | 0x06 => some (.imax (decEMod v))
  | 0x07 => some (.iabs (decEMod v))
  | 0x08 => some (.andElement (decEMod v))
  | 0x09 => some (.orElement (decEMod v))
  | 0x0A => some (.xorElement (decEMod v))
  | 0x0B => some (.not (decEMod v))
  | 0x0C => some (.shlElement (decEMod v))
  | 0x0D => some (.shrElement (decEMod v))
  | 0x0E => some (.sarElement (decEMod v))
  | 0x0F => some (.icmp (decEMod v))
  | 0x10 => some (.faddElement (decEMod v))
  | 0x11 => some (.fsubElement (decEMod v))
  | 0x12 => some (.fmulElement (decEMod v))
  | 0x13 => some (.ffmaElement (decEMod v))
  | 0x14 => some (.fminElement (decEMod v))
  | 0x15 => some (.fmaxElement (decEMod v))
  | 0x16 => some (.fabs (decEMod v))
  | 0x17 => some (.fneg (decEMod v))
  | 0x18 => some (.fcmpElement (decEMod v))
  | 0x19 => some (.cmpf (decEMod v))
  | 0x1A => some (.fclassElement (decEMod v))
  | 0x1B => some (.fcpys (decEMod v))
  | 0x1C => some (.fexp (decEMod v))
  | 0x1D => some (.fldx (decEMod v))
  | 0x20 => some (.selElement (decEMod v))
  | 0x21 => some (.cvtElement (decEMod v))
  | 0x22 => some (.pack (decEMod v))
  | 0x23 => some (.unpack (decEMod v))
  | 0x30 => some (.shuf (decEMod v))
  | 0x31 => some (.bcast (decEMod v))
  | 0x32 => some (.lred (decEMod v))
  | 0x33 => some (.lscan (decEMod v))
  | 0x34 => some (.lext (decEMod v))
  | 0x35 => some (.lins (decEMod v))
  | 0x36 => some (.rot (decEMod v))
  | 0x37 => some (.lmask (decEMod v))
  | 0x40 => some (.cnt (decEMod v))
  | 0x41 => some (.aff (decEMod v))
  | 0x42 => some (.delay (decEMod v))
  | 0x43 => some (.acc (decEMod v))
  | 0x44 => some (.const (decEMod v))
  | 0x50 => some (.fork (decEMod v))
  | 0x51 => some (.join (decEMod v))
  | 0x52 => some (.steer (decEMod v))
  | 0x53 => some (.filter (decEMod v))
  | 0x54 => some (.gate (decEMod v))
  | 0x55 => some (.osnew (decEMod v))
  | 0x56 => some (.osquench (decEMod v))
  | 0x57 => some (.oscommit (decEMod v))
  | 0x80 => some (.scanu (v.extractLsb' 0 11))
  | 0x81 => some (.scanc (v.extractLsb' 0 11))
  | 0x82 => some (.scanb (v.extractLsb' 0 11))
  | 0x83 => some (.isect (v.extractLsb' 0 11))
  | 0x84 => some (.union (v.extractLsb' 0 11))
  | 0x85 => some (.repeatEl (v.extractLsb' 0 11))
  | 0x86 => some (.reduce (v.extractLsb' 0 11))
  | 0x87 => some (.locate (v.extractLsb' 0 11))
  | 0x88 => some (.crddrop (v.extractLsb' 0 11))
  | 0x89 => some (.poppfx (v.extractLsb' 0 11))
  | 0x8A => some (.band (v.extractLsb' 0 11))
  | 0x8B => some (.bor (v.extractLsb' 0 11))
  | 0x8C => some (.fwrite (v.extractLsb' 0 11))
  | 0xA0 => some (.lda (v.extractLsb' 0 11))
  | 0xA1 => some (.ldi (v.extractLsb' 0 11))
  | 0xA2 => some (.sta (v.extractLsb' 0 11))
  | 0xA3 => some (.sti (v.extractLsb' 0 11))
  | 0xA4 => some (.atom (v.extractLsb' 0 11))
  | 0xA5 => some (.xreq (v.extractLsb' 0 11))
  | 0xA6 => some (.greq (v.extractLsb' 0 11))
  | 0xB0 => some (.broute (v.extractLsb' 0 11))
  | 0xB5 => some (.mport (v.extractLsb' 0 11))
  | _ => none

/-- The decoder as the opcode table numbers bits: a 32-bit configuration command, or a 64-bit actor word (read as a system
actor in debug mode would issue it), from the little-endian bytes that hold it. -/
def decodeTableWord (nbits w : Nat) : Option Instr :=
  if nbits == 32 then some (decodeCmd (BitVec.ofNat 32 (leVal (leBytes 4 w))))
  else if nbits == 64 then (decodeWord true true (word (leVal (leBytes 8 w)))).toOption
  else none

/-! ### The encoder -/

/-- R: MAJ DST SA SB, TY RND SAT and a reserved bit, SC, 27 reserved bits. -/
def encR (m : BitVec 10) (f : RForm) : Word :=
  m ++ f.dst ++ f.sa ++ f.sb ++ f.ty ++ f.rnd ++ f.sat ++ 0#1 ++ f.sc ++ 0#27
/-- I: MAJ DST SA SB, TY and four reserved bits, IMM. -/
def encI (m : BitVec 10) (f : IForm) : Word := m ++ f.dst ++ f.sa ++ f.sb ++ f.ty ++ 0#4 ++ f.imm
/-- M: MAJ DST SA SB, SZ IX OS, HND OFS. -/
def encM (m : BitVec 10) (f : MForm) : Word :=
  m ++ f.dst ++ f.sa ++ f.sb ++ f.sz ++ f.ix ++ f.os ++ f.hnd ++ f.ofs
/-- B: MAJ DST SA SB, CC and three reserved bits, displacement. -/
def encB (m : BitVec 10) (f : BForm) : Word := m ++ f.dst ++ f.sa ++ f.sb ++ f.cc ++ 0#3 ++ f.imm
/-- X: MAJ DST SA SB, XM, SC SD CTL. -/
def encX (m : BitVec 10) (f : XForm) : Word :=
  m ++ f.dst ++ f.sa ++ f.sb ++ f.xm ++ f.sc ++ f.sd ++ f.ctl

/-- The word of an actor instruction (R65 to R69). -/
def encodeWord : Instr → Option Word
  | .add f => some (encR 0x001#10 f)
  | .sub f => some (encR 0x002#10 f)
  | .mul f => some (encR 0x003#10 f)
  | .mulh f => some (encR 0x004#10 f)
  | .div f => some (encR 0x005#10 f)
  | .rem f => some (encR 0x006#10 f)
  | .and f => some (encR 0x007#10 f)
  | .or f => some (encR 0x008#10 f)
  | .xor f => some (encR 0x009#10 f)
  | .shl f => some (encR 0x00A#10 f)
  | .shr f => some (encR 0x00B#10 f)
  | .sar f => some (encR 0x00C#10 f)
  | .min f => some (encR 0x00D#10 f)
  | .max f => some (encR 0x00E#10 f)
  | .slt f => some (encR 0x00F#10 f)
  | .sel f => some (encR 0x010#10 f)
  | .popc f => some (encR 0x011#10 f)
  | .clz f => some (encR 0x012#10 f)
  | .mov f => some (encR 0x013#10 f)
  | .addi f => some (encI 0x021#10 f)
  | .andi f => some (encI 0x027#10 f)
  | .ori f => some (encI 0x028#10 f)
  | .xori f => some (encI 0x029#10 f)
  | .shli f => some (encI 0x02A#10 f)
  | .shri f => some (encI 0x02B#10 f)
  | .sari f => some (encI 0x02C#10 f)
  | .slti f => some (encI 0x02F#10 f)
  | .movi f => some (encI 0x030#10 f)
  | .movhi f => some (encI 0x031#10 f)
  | .fadd f => some (encR 0x040#10 f)
  | .fsub f => some (encR 0x041#10 f)
  | .fmul f => some (encR 0x042#10 f)
  | .ffma f => some (encR 0x043#10 f)
  | .fmin f => some (encR 0x044#10 f)
  | .fmax f => some (encR 0x045#10 f)
  | .fcmp f => some (encR 0x046#10 f)
  | .cvt f => some (encX 0x047#10 f)
  | .fclass f => some (encR 0x048#10 f)
  | .br f => some (encB 0x060#10 f)
  | .bcc f => some (encB 0x061#10 f)
  | .loop f => some (encB 0x062#10 f)
  | .ld f => some (encM 0x080#10 f)
  | .st f => some (encM 0x081#10 f)
  | .ldf f => some (encM 0x082#10 f)
  | .ldfe f => some (encM 0x083#10 f)
  | .stef f => some (encM 0x084#10 f)
  | .ways f => some (encI 0x087#10 f)
  | .hinv f => some (encI 0x088#10 f)
  | .aadd f => some (encM 0x0C0#10 f)
  | .aand f => some (encM 0x0C1#10 f)
  | .aor f => some (encM 0x0C2#10 f)
  | .axor f => some (encM 0x0C3#10 f)
  | .amin f => some (encM 0x0C4#10 f)
  | .amax f => some (encM 0x0C5#10 f)
  | .axchg f => some (encM 0x0C6#10 f)
  | .afadd f => some (encM 0x0C7#10 f)
  | .cas f => some (encM 0x0C8#10 f)
  | .dcas f => some (encX 0x0C9#10 f)
  | .amove f => some (encX 0x0CA#10 f)
  | .bind f => some (encM 0x0D0#10 f)
  | .acq f => some (encM 0x0D1#10 f)
  | .rel f => some (encM 0x0D2#10 f)
  | .bar f => some (encI 0x0D3#10 f)
  | .mwait f => some (encM 0x0D4#10 f)
  | .watch f => some (encM 0x0D5#10 f)
  | .rst f => some (encM 0x0E0#10 f)
  | .rsend f => some (encX 0x0E1#10 f)
  | .ramo f => some (encM 0x0E2#10 f)
  | .coll f => some (encX 0x0E3#10 f)
  | .xfer f => some (encX 0x0F0#10 f)
  | .xim2c f => some (encX 0x0F1#10 f)
  | .gath f => some (encX 0x0F2#10 f)
  | .drain f => some (encI 0x0F3#10 f)
  | .fenceq f => some (encI 0x0F4#10 f)
  | .oclaim f => some (encX 0x100#10 f)
  | .orelease f => some (encX 0x101#10 f)
  | .mma f => some (encX 0x102#10 f)
  | .mmaq f => some (encX 0x103#10 f)
  | .mchk f => some (encX 0x104#10 f)
  | .mfix f => some (encX 0x105#10 f)
  | .minj f => some (encX 0x106#10 f)
  | .maccz f => some (encX 0x107#10 f)
  | .maccst f => some (encX 0x108#10 f)
  | .mfence => some (0x109#10 ++ 0#54)
  | .rcap f => some (encX 0x120#10 f)
  | .rdisp f => some (encX 0x121#10 f)
  | .rcomb f => some (encX 0x122#10 f)
  | .rrec f => some (encX 0x123#10 f)
  | .recv f => some (encX 0x130#10 f)
  | .send f => some (encX 0x131#10 f)
  | .peek f => some (encX 0x132#10 f)
  | .note f => some (encX 0x133#10 f)
  | .firend f => some (encI 0x134#10 f)
  | .nop => some (0x13F#10 ++ 0#54)
  | .cfgw f => some (encX 0x140#10 f)
  | .launch f => some (encX 0x141#10 f)
  | .sysc f => some (encI 0x150#10 f)
  | .sreg f => some (encX 0x151#10 f)
  | .tlbi f => some (encX 0x152#10 f)
  | .digest f => some (encX 0x153#10 f)
  | .unassignedMajorOpcode w => some w
  | _ => none

/-- The configuration command of a row (R46 to R49). -/
def encodeCmd : Instr → Option Cmd
  | .field e f v => some (0#2 ++ e ++ f ++ v)
  | .page r p => some (1#2 ++ 0#4 ++ 0#7 ++ r ++ p)
  | .bank r b => some (1#2 ++ 1#4 ++ 0#7 ++ r ++ b)
  | .arm r a e => some (1#2 ++ 2#4 ++ 0#7 ++ r ++ 0#1 ++ a ++ e)
  | .disarm r a e => some (1#2 ++ 2#4 ++ 0#7 ++ r ++ 1#1 ++ a ++ e)
  | .sealPage c => some (1#2 ++ 3#4 ++ 0#7 ++ c)
  | .pfx h => some (2#2 ++ h)
  | .reservedClassCommand b => some (3#2 ++ b)
  | .reservedCtrlOperation o r v => some (1#2 ++ o ++ r ++ v)
  | _ => none

/-- Opcode and modifiers of an operation 0x01–0x7F as a value of field 0. -/
def encE (c : BitVec 8) (m : EMod) : BitVec 19 := c ++ m.ty ++ m.sub ++ m.sat ++ m.sw ++ 0#2

/-- The value of field 0 that names an element operation (R51, R59). -/
def encodeElem : Instr → Option (BitVec 19)
  | .iadd m => some (encE 0x01#8 m)
  | .isub m => some (encE 0x02#8 m)
  | .imul m => some (encE 0x03#8 m)
  | .imad m => some (encE 0x04#8 m)
  | .imin m => some (encE 0x05#8 m)
  | .imax m => some (encE 0x06#8 m)
  | .iabs m => some (encE 0x07#8 m)
  | .andElement m => some (encE 0x08#8 m)
  | .orElement m => some (encE 0x09#8 m)
  | .xorElement m => some (encE 0x0A#8 m)
  | .not m => some (encE 0x0B#8 m)
  | .shlElement m => some (encE 0x0C#8 m)
  | .shrElement m => some (encE 0x0D#8 m)
  | .sarElement m => some (encE 0x0E#8 m)
  | .icmp m => some (encE 0x0F#8 m)
  | .faddElement m => some (encE 0x10#8 m)
  | .fsubElement m => some (encE 0x11#8 m)
  | .fmulElement m => some (encE 0x12#8 m)
  | .ffmaElement m => some (encE 0x13#8 m)
  | .fminElement m => some (encE 0x14#8 m)
  | .fmaxElement m => some (encE 0x15#8 m)
  | .fabs m => some (encE 0x16#8 m)
  | .fneg m => some (encE 0x17#8 m)
  | .fcmpElement m => some (encE 0x18#8 m)
  | .cmpf m => some (encE 0x19#8 m)
  | .fclassElement m => some (encE 0x1A#8 m)
  | .fcpys m => some (encE 0x1B#8 m)
  | .fexp m => some (encE 0x1C#8 m)
  | .fldx m => some (encE 0x1D#8 m)
  | .selElement m => some (encE 0x20#8 m)
  | .cvtElement m => some (encE 0x21#8 m)
  | .pack m => some (encE 0x22#8 m)
  | .unpack m => some (encE 0x23#8 m)
  | .shuf m => some (encE 0x30#8 m)
  | .bcast m => some (encE 0x31#8 m)
  | .lred m => some (encE 0x32#8 m)
  | .lscan m => some (encE 0x33#8 m)
  | .lext m => some (encE 0x34#8 m)
  | .lins m => some (encE 0x35#8 m)
  | .rot m => some (encE 0x36#8 m)
  | .lmask m => some (encE 0x37#8 m)
  | .cnt m => some (encE 0x40#8 m)
  | .aff m => some (encE 0x41#8 m)
  | .delay m => some (encE 0x42#8 m)
  | .acc m => some (encE 0x43#8 m)
  | .const m => some (encE 0x44#8 m)
  | .fork m => some (encE 0x50#8 m)
  | .join m => some (encE 0x51#8 m)
  | .steer m => some (encE 0x52#8 m)
  | .filter m => some (encE 0x53#8 m)
  | .gate m => some (encE 0x54#8 m)
  | .osnew m => some (encE 0x55#8 m)
  | .osquench m => some (encE 0x56#8 m)
  | .oscommit m => some (encE 0x57#8 m)
  | .scanu m => some (0x80#8 ++ m)
  | .scanc m => some (0x81#8 ++ m)
  | .scanb m => some (0x82#8 ++ m)
  | .isect m => some (0x83#8 ++ m)
  | .union m => some (0x84#8 ++ m)
  | .repeatEl m => some (0x85#8 ++ m)
  | .reduce m => some (0x86#8 ++ m)
  | .locate m => some (0x87#8 ++ m)
  | .crddrop m => some (0x88#8 ++ m)
  | .poppfx m => some (0x89#8 ++ m)
  | .band m => some (0x8A#8 ++ m)
  | .bor m => some (0x8B#8 ++ m)
  | .fwrite m => some (0x8C#8 ++ m)
  | .lda m => some (0xA0#8 ++ m)
  | .ldi m => some (0xA1#8 ++ m)
  | .sta m => some (0xA2#8 ++ m)
  | .sti m => some (0xA3#8 ++ m)
  | .atom m => some (0xA4#8 ++ m)
  | .xreq m => some (0xA5#8 ++ m)
  | .greq m => some (0xA6#8 ++ m)
  | .broute m => some (0xB0#8 ++ m)
  | .mport m => some (0xB5#8 ++ m)
  | _ => none

/-- The bytes of an instruction as memory holds them (R1, R45, R65): eight for an actor word, four for a command. Rows
that have no word of their own have none. -/
def encode (i : Instr) : List Byte :=
  match encodeWord i with
  | some w => leBytes 8 w.toNat
  | none =>
    match encodeCmd i with
    | some c => leBytes 4 c.toNat
    | none => []

end Sys2Proof
end

