-- ==== Sys2Proof/Machine/Aes.lean ====
section
/-!
DEFINITION. AES-256-XTS, which R420 names and the manual does not restate: the functions of FIPS 197 and IEEE 1619 over one
64-byte line (PRESUMED, log 9). A key is 64 bytes: 32 for the data, then 32 for the tweak.
-/
namespace Sys2Proof.Aes

/-- Products in the field of AES, modulo x^8 + x^4 + x^3 + x + 1. -/
def xtime (a : Nat) : Nat := if a < 128 then 2 * a else (2 * a - 256) ^^^ 0x1B
def gmulN : Nat → Nat → Nat → Nat
  | 0, _, _ => 0
  | n + 1, a, b => (if b % 2 == 1 then a else 0) ^^^ gmulN n (xtime a) (b / 2)
def gmul (a b : Nat) : Nat := gmulN 8 a b
/-- The inverse, a^254; 0 for 0. -/
def ginv (a : Nat) : Nat :=
  let a2 := gmul a a
  let a4 := gmul a2 a2
  let a8 := gmul a4 a4
  let a16 := gmul a8 a8
  let a32 := gmul a16 a16
  let a64 := gmul a32 a32
  gmul (gmul (gmul a2 a4) (gmul a8 a16)) (gmul (gmul a32 a64) (gmul a64 a64))
def rotl8 (a n : Nat) : Nat := (a * 2 ^ n + a / 2 ^ (8 - n)) % 256
/-- The substitution and its inverse. -/
def sbox (a : Nat) : Nat :=
  let b := ginv a
  b ^^^ rotl8 b 1 ^^^ rotl8 b 2 ^^^ rotl8 b 3 ^^^ rotl8 b 4 ^^^ 0x63
def invSbox (a : Nat) : Nat := ginv (rotl8 a 1 ^^^ rotl8 a 3 ^^^ rotl8 a 6 ^^^ 0x05)

/-- The key schedule: words of 4 bytes, newest first, from `i` on. -/
def expand : Nat → Nat → Nat → List (List Nat) → List (List Nat)
  | 0, _, _, ws => ws
  | n + 1, i, rcon, ws =>
    let t := ws.headD []
    let t := if i % 8 == 0 then
        (match t with | [a, b, c, d] => [sbox b ^^^ rcon, sbox c, sbox d, sbox a] | x => x)
      else if i % 8 == 4 then t.map sbox else t
    expand n (i + 1) (if i % 8 == 0 then xtime rcon else rcon) ((ws.getD 7 []).zipWith (· ^^^ ·) t :: ws)
/-- The fifteen round keys of a 32-byte key. -/
def roundKeys (key : List Nat) : List (List Nat) :=
  let ws := (expand 52 8 1 ((upTo 8).map fun i => (key.drop (4 * i)).take 4).reverse).reverse
  (upTo 15).map fun r => ((ws.drop (4 * r)).take 4).flatten

def addKey (s k : List Nat) : List Nat := s.zipWith (· ^^^ ·) k
/-- Byte r of column c goes to column c − r, and back. -/
def shiftRows (s : List Nat) : List Nat := (upTo 16).map fun i => s.getD ((i + 4 * (i % 4)) % 16) 0
def invShiftRows (s : List Nat) : List Nat := (upTo 16).map fun i => s.getD ((i + 16 - 4 * (i % 4)) % 16) 0
/-- Every column times a circulant matrix with the given first row. -/
def mixWith (row s : List Nat) : List Nat := (upTo 16).map fun i =>
  (upTo 4).foldl (fun acc j => acc ^^^ gmul (row.getD ((j + 4 - i % 4) % 4) 0) (s.getD (i / 4 * 4 + j) 0)) 0

/-- One block of 16 bytes enciphered, and deciphered. -/
def encBlock (ks : List (List Nat)) (b : List Nat) : List Nat :=
  let s := (upTo 13).foldl (fun s r => addKey (mixWith [2, 3, 1, 1] (shiftRows (s.map sbox))) (ks.getD (r + 1) []))
    (addKey b (ks.getD 0 []))
  addKey (shiftRows (s.map sbox)) (ks.getD 14 [])
def decBlock (ks : List (List Nat)) (b : List Nat) : List Nat :=
  let s := (upTo 13).foldl (fun s r =>
      mixWith [14, 11, 13, 9] (addKey ((invShiftRows s).map invSbox) (ks.getD (13 - r) [])))
    (addKey b (ks.getD 14 []))
  addKey ((invShiftRows s).map invSbox) (ks.getD 0 [])

/-- The 64 bytes of a key as it was loaded, short ones filled with zeros. -/
def keyBytes (key : List Byte) : List Nat := (upTo 64).map fun i => (key.getD i 0).toNat
/-- The tweak of block j of a line: the line's number enciphered, times x^j in the field of XTS. -/
def tweaks (key : List Byte) (line : Nat) : List (List Nat) :=
  let t := leVal ((encBlock (roundKeys ((keyBytes key).drop 32)) ((leBytes 16 line).map (·.toNat))).map (BitVec.ofNat 8 ·))
  let next (v : Nat) : Nat := (2 * v) % 2 ^ 128 ^^^ (if v < 2 ^ 127 then 0 else 0x87)
  ([t, next t, next (next t), next (next (next t))]).map fun v => (leBytes 16 v).map (·.toNat)
/-- The line's four blocks through a cipher, each between two additions of its tweak. -/
def xts (f : List Nat → List Nat) (key : List Byte) (line : Nat) (bs : List Byte) : List Byte :=
  (tweaks key line).zipIdx.flatMap fun tj =>
    (addKey (f (addKey (((bs.drop (16 * tj.2)).take 16).map (·.toNat)) tj.1)) tj.1).map (BitVec.ofNat 8 ·)
/-- A 64-byte line stored at a physical line number under a key, and read under one. -/
def encLine (key : List Byte) (line : Nat) (bs : List Byte) : List Byte :=
  xts (encBlock (roundKeys ((keyBytes key).take 32))) key line bs
def decLine (key : List Byte) (line : Nat) (bs : List Byte) : List Byte :=
  xts (decBlock (roundKeys ((keyBytes key).take 32))) key line bs

end Sys2Proof.Aes
end

