-- ==== Sys2Proof/Config.lean ====
section
/-!
DEFINITION. What the manual leaves open (DESIGN CHOICE, log 2 and the entries named beside each constant): values with no body, so that
nothing can be proved of them, and readings of layouts and named standards that the manual does not give.
-/
namespace Sys2Proof

/-- Where a soft error strikes (R424, R425): a 64-bit word of hbm or of the L2, of a scratchpad, of an L1 line or of an operand
slot; an element of a tile; a register of a slot; the fields and state of an element; a token in a port's buffer. -/
inductive ErrorSite where
  | hbm (word : Nat)
  | l2 (word : Nat)
  | scratchpad (core word : Nat)
  | l1 (core line word : Nat)
  | operand (core slot word : Nat)
  | accumulator (core tile idx : Nat)
  | register (core slot reg : Nat)
  | element (core pos : Nat)
  | token (core pos port idx : Nat)
  deriving DecidableEq, Repr, Inhabited

/-- What becomes of a save (R403, R426). -/
inductive SaveOutcome where
  /-- the image is written -/
  | good
  /-- uncorrectable errors in state that can carry poison: written as poison -/
  | spoiled (sites : List ErrorSite)
  /-- a write error, or an uncorrectable error in state that cannot carry poison -/
  | lost
  deriving DecidableEq, Repr, Inhabited

/-- A choice of which agent moves next. `quiet` moves are the caches' and translation units' own (R214, R237, R253, R414):
a line leaves an L1 (its dirty bytes are written back), a handle-cache entry or metadata line is dropped, a translation is
dropped, a line leaves an L2 and its scope record with it. A soft error (R424) is a physical event. Of the last six, three are the
supervisor's bindings of the network and PCIe ports, one a damper's, one a Belfry's and one a device's interrupt. -/
inductive Move where
  /-- the sequencer of a core issues the running firing's next instruction -/
  | actor (core : Nat)
  /-- the element at a position of a core's page fires, if it can -/
  | element (core pos : Nat)
  /-- the configuration network of a core processes the next command of its stream -/
  | config (core : Nat)
  /-- a step of an engine, damper, scheduler or outside party: a row of the opcode table of its own -/
  | event (i : Instr)
  /-- a line leaves the L1 of a core -/
  | evictL1 (core line : Nat)
  /-- an entry leaves the handle cache of a core -/
  | evictHandle (core idx : Nat)
  /-- the metadata cache of a core drops a line -/
  | evictMeta (core line : Nat)
  /-- a translation leaves the translation unit of a die -/
  | evictTlb (die idx : Nat)
  /-- a line leaves the L2 -/
  | evictL2 (line : Nat)
  /-- a soft error: none for one that ECC corrects (R424) -/
  | softError (site : Option ErrorSite)
  /-- the supervisor binds a queue pair (R430) -/
  | bindPair (b : PairBind)
  /-- the supervisor sets the rate step of congestion control (R430) -/
  | setRate (step : Nat)
  /-- the damper of a die acts on a QUERY, SETTLE or OLDEST that has reached it (R184) -/
  | damper (die req : Nat)
  /-- the Belfry of a die goes on with the instruction at the head of its queue, by a token at most (R339, R351) -/
  | belfry (die : Nat)
  /-- the supervisor assigns a PCIe requester ID to a context (R431) -/
  | assignRequester (requester ctx : Nat)
  /-- a device sends an MSI-X message (R431) -/
  | msix (requester data : Nat)
  deriving DecidableEq, Repr, Inhabited

namespace Config

/-- Which agent moves at a step when nothing is laid down (R11, R27: times are no part of a result; DESIGN CHOICE, log 1). -/
opaque freeMove : Nat → Move
/-- Fabric cycles that pass in a step, beyond the first (R11, R407; DESIGN CHOICE, log 5). -/
opaque freeCycles : Nat → Nat
/-- The working registers at the start of a firing (R6, R29): register `i` of the firing that starts at step `t`. -/
opaque freeReg : (t i : Nat) → BitVec 64
/-- A lane whose value a poisoned input left unknown (R146 after a poisoned token). -/
opaque freeLane : (t : Nat) → Nat
/-- The worth that RSRC 3 gives at an operation without an input b (R54). -/
opaque freeWorth : (lane0 : Nat) → BitVec 16
/-- A byte of a save image as software reads it: the image's layout is the Q9's own (R404; DESIGN CHOICE, log 45). -/
opaque imageByte : (t addr : Nat) → BitVec 8
/-- Which line leaves an L1 that is full (R214 names no rule but for strm; DESIGN CHOICE, log 71). -/
opaque freeVictim : (t : Nat) → Nat
/-- A byte of a destination that the manual leaves undefined (R279). -/
opaque freeByte : (t addr : Nat) → BitVec 8
/-- The L2 slice, 0–31, of its die that homes a line (R15, R259 number slices; the mapping of lines to slices is open). -/
opaque sliceOf : (line : Nat) → Nat
/-- The device's signature of an attestation report (R433). -/
opaque deviceSign : (report : List (BitVec 8)) → List (BitVec 8)
/-- A pipe of a team image by its place in .pipe order (R97 gives their number, order and outputs, and no byte layout; log 28):
producer page set, page, position and port, consumer page set and page. -/
opaque imagePipe : (image : List (BitVec 8)) → (i : Nat) → Nat × Nat × Nat × Nat × Nat × Nat
/-- The page set and page of an actor of a team image by its symbol, none of another team's (R93 gives an actor's entry and size, and no
field for its page; log 28). -/
opaque imageActorPage : (image : List (BitVec 8)) → (sym : Nat) → Option (Nat × Nat)
/-- Size in bytes of the records of a job of a team image, by the job index (R97 gives no byte layout; log 28). -/
opaque imageJob : (image : List (BitVec 8)) → (job : Nat) → Option Nat
/-- Output windows of a team image as handle indices (the record of R97 names a symbol; the loader fixes the index). -/
opaque imageHandle : (image : List (BitVec 8)) → (sym : Nat) → Nat

/-- What a scrub finds at a line (R424; soft errors are physical events): 0 nothing, 1 an error that ECC corrects, 2 to 9 one that it
does not in word 0 to 7, anything else nothing. -/
opaque freeError : (t line : Nat) → Nat
/-- What becomes of a save (R426; errors are physical events). -/
opaque saveOutcome : (t : Nat) → SaveOutcome
/-- A word of a token image in a save area that software has written while the team was out (R404: it must not). -/
opaque imageWord : (t i : Nat) → BitVec 64
/-- Does a saved image fail the Q9's own checks (R404)? -/
opaque imageFails : (t : Nat) → Bool
/-- The team number that an admission returns (R429 names no rule for it). -/
opaque freeTeam : (t : Nat) → Nat
/-- The dies that host the shares of a resumed team, in share order (R404: a share may land on another die of the mask). -/
opaque freeDies : (t : Nat) → List Nat

end Config

end Sys2Proof
end

