-- ==== Sys2Proof/Machine/State.lean ====
section
/-!
DEFINITION. The state of a Q9 package: everything the manual gives the machine, as plain data, and the state at reset.
Sparse collections are lists of key and value pairs with keys strictly rising (`AMap`); an absent key stands for the
value at reset. The fields `agenda`, `tick`, `cur` and `nextId` are the model's own (DESIGN CHOICE, log 1, DESIGN CHOICE, log 2).
-/
namespace Sys2Proof.Machine

/-- A sparse map: keys strictly rising. -/
abbrev AMap (α : Type) := List (Nat × α)

/-! ### Tokens and ports (R19 to R26) -/

/-- Kinds of token (R19); kind 6 is never produced. -/
inductive TKind where
  | val | crd | ref | stop | done | eos | poison
  deriving DecidableEq, Repr, Inhabited

/-- A token: its header (R19) and payload (R20). -/
structure Token where
  /-- 0 32 bits, 1 64 bits, 2 512 bits -/
  width : Nat := 0
  worth : BitVec 16 := 0
  set   : BitVec 24 := 0
  lvl   : Nat := 0
  kind  : TKind := .val
  pay   : BitVec 512 := 0
  deriving DecidableEq, Repr, Inhabited

/-- A token in a buffer: its ordinal among the tokens that arrived at the port (R193), the mark sealed of R173, and
whether its set was looked up in the overflow range and found not quenched (R168). -/
structure Slotted where
  tok    : Token
  ord    : Nat := 0
  sealed : Bool := false
  looked : Bool := false
  deriving DecidableEq, Repr, Inhabited

/-- The eviction procedure of an `elastic` ranked input (R171). -/
structure Evict where
  /-- the set whose quench request is in flight, and its request; none while waiting for a free slot -/
  req : Option (Nat × BitVec 24) := none
  /-- is the token whose set is being quenched the arrival itself? -/
  own : Bool := false
  deriving DecidableEq, Repr, Inhabited

/-- Progress of a stream at a fibre port (R191 to R193): what came before, the last coordinate of the innermost fibre. -/
inductive Prev where
  | start | data
  /-- two data tokens or more since the start or the last stop -/
  | more
  | stop (k : Nat) | done
  deriving DecidableEq, Repr, Inhabited

/-- An input port: buffer, resident, landing register, open segment. -/
structure Port where
  /-- heads, oldest first (R24) -/
  q       : List Slotted := []
  /-- a resident token and the firings it still serves; none in the count for s = 15 (R26) -/
  res     : Option (Slotted × Option Nat) := none
  /-- tokens of the open segment of a `repro` ranked input, not yet heads (R175) -/
  seg     : List Slotted := []
  /-- data arrivals in the open segment (R174) -/
  segN    : Nat := 0
  /-- a segment waiting to close: its held tokens and closing control token (R444) -/
  closing : List (List Slotted × Option Slotted) := []
  /-- quench requests of the segment not yet answered, and quenched sets whose broadcast must be complete (R444) -/
  segReqs : List Nat := []
  segSets : List (BitVec 24) := []
  /-- the landing register (R171) and its procedure -/
  landing : Option Slotted := none
  /-- tokens on their way to a landing register that is taken: SEND never waits (R367) -/
  lane    : List Slotted := []
  evict   : Option Evict := none
  /-- tokens that have arrived in the launch (R193) -/
  seen    : Nat := 0
  /-- an armed element that has not swapped has consumed eos here (R391) -/
  ended   : Bool := false
  /-- stream progress of a fibre port -/
  prev    : Prev := .start
  lastCrd : Option Nat := none
  deriving DecidableEq, Repr, Inhabited

/-! ### Elements (R51, R130, R153, R211, R226) -/

/-- An effect parked at a commit point (R37, R167), performed in firing order. -/
inductive Eff where
  /-- outputs of the firing (R133) -/
  | emit (x y : Option Token)
  /-- OSQUENCH (R183): the token goes to x when the answer is SEALED, and is dropped when it is QUENCHED -/
  | pass (t : Slotted)
  /-- OSCOMMIT without FWD, and DPORT SEAL: nothing but the answer -/
  | nothing
  /-- ACC and REDUCE folds (R150, R205) -/
  | fold (t : Token)
  /-- a control token that ACC, REDUCE, FWRITE, a store, XREQ or MPORT handles in order -/
  | ctl (t : Slotted)
  /-- STA, STI: a store of a token at an element index (R226), under the handle entry as it stood at the firing (R231) -/
  | store (t : Slotted) (idx : Int) (ent : List Word)
  /-- ATOM (R245): index, operand, compare value, header of x, handle entry -/
  | atom (idx : Int) (opnd cmp : Nat) (hdr : Slotted) (ent : List Word)
  /-- XREQ (R299) -/
  | xreq (words : List Word) (hdr : Slotted)
  /-- MPORT (R328) -/
  | mport (w : Word) (hdr : Slotted)
  /-- FWRITE (R206) -/
  | fwrite (t : Slotted)
  deriving DecidableEq, Repr, Inhabited

/-- A parked effect: its set, the request that will answer it, and the answer once known (true for QUENCHED). -/
structure Parked where
  set : BitVec 24 := 0
  req : Option Nat := none
  ans : Option Bool := none
  eff : Eff
  deriving DecidableEq, Repr, Inhabited

/-- A command of a port that waits for its answer (R184), or a control token in its place. -/
structure DCmd where
  /-- requests at dampers that are still to be answered: one, or one for each share -/
  reqs : List Nat := []
  /-- SETTLE's operand; the lowest sequence that OLDEST has been given so far -/
  val  : Nat := 0
  low  : Option Nat := none
  ans  : Option Token := none
  deriving DecidableEq, Repr, Inhabited

/-- One element of a page. -/
structure Elem where
  /-- bank 0 (active) and bank 1 (shadow): 32 fields of up to 49 bits (R51, R390) -/
  b0     : AMap (BitVec 49) := []
  b1     : AMap (BitVec 49) := []
  armed  : Bool := false
  /-- input ports a, b, c; APORT's channels 0–7 stand in `chans` -/
  pa     : Port := {}
  pb     : Port := {}
  pc     : Port := {}
  chans  : AMap Port := []
  /-- state registers (R130), widened from their 49-bit initial values -/
  q0     : Word := 0
  q1     : Word := 0
  /-- sticky flags: invalid, overflow, underflow, inexact (R123) -/
  flags  : BitVec 4 := 0
  /-- DELAY's line, front first, and whether it has been filled (R149) -/
  line   : List Token := []
  filled : Bool := false
  /-- ACC and REDUCE: accumulator, whether it was started, folds applied since the last reset (R150, R205) -/
  acc    : BitVec 512 := 0
  accSet : Bool := false
  folds  : Nat := 0
  /-- LSCAN's carry: the last inclusive lane of the previous data token (R146) -/
  carry  : Option Nat := none
  /-- progress of the step, run or traversal in flight (R148, R197, R211, R226) -/
  prog   : Nat := 0
  /-- whether a step has begun: its quench check is made (R197) -/
  begun  : Bool := false
  /-- SCANC: the bounds of the fibre in flight; LOCATE has none (R199) -/
  lo     : Nat := 0
  hi     : Nat := 0
  /-- scans: `last`; CRDDROP: `seen` and `pend`; bitmap steps: j; FWRITE: p and f, off[0] written (R199 to R206) -/
  last   : Bool := false
  seenF  : Bool := false
  pend   : Option Token := none
  j      : Nat := 0
  p      : Nat := 0
  f      : Nat := 0
  /-- a source, or a scan with ROOT, has met its end: 0 running, 1 D sent, 2 eos sent (R147, R199, R392) -/
  fin    : Nat := 0
  /-- the last stop that LDA or a scan emitted (R392) -/
  lastStop : Option Nat := none
  /-- a field or state is poisoned: fault 0x23 at the next firing (R426) -/
  spoiled : Bool := false
  /-- a page end closes this source's stream (R392) -/
  ending : Bool := false
  /-- outputs of the firing in progress, one pair for each firing (R25, R197) -/
  outQ   : List (Option Token × Option Token) := []
  /-- the settle buffer (R167) and the last sealed set of the commit point -/
  settle : List Parked := []
  lastSealed : BitVec 24 := 0
  /-- store-acknowledge count: remote stores and copy requests not yet complete (R226, R299) -/
  acks   : Nat := 0
  /-- data heads consumed since the last trigger event, and events on their way to HEAD (R392) -/
  trig   : Nat := 0
  trigOut : Nat := 0
  /-- OSNEW: items stamped by declaration index (R160), a DECLARE in flight, and eos forwarded (R177) -/
  decls  : AMap Nat := []
  declReq : Option Nat := none
  osEos  : List Nat := []
  /-- eos taken while not armed (R402) -/
  holds  : Bool := false
  /-- a load in flight: whether a value is waited for, and one delivered by a fill or an acknowledgment, with the machine-check
  code of poison (R221, R226, R425) -/
  due    : Bool := false
  got    : Option (List Byte × Option Nat) := none
  /-- the handle entry that a traversal uses, as it stood at the start (R231) -/
  hver   : Option (List Word) := none
  /-- a translation fault record that the element's access waits on (R417), and the access: handle index and byte offset -/
  xwait  : Option Nat := none
  xat    : Nat × Nat := (0, 0)
  /-- GREQ: the batch of indices not yet passed to the gather units (R305), and values to be emitted in order -/
  batch  : List Token := []
  /-- BROUTE: the producer of each output, core, position and port (R396) -/
  routeX : Option (Nat × Nat × Nat) := none
  routeY : Option (Nat × Nat × Nat) := none
  /-- DPORT: commands waiting for answers (R184) -/
  cmds   : List DCmd := []
  /-- HEAD: trigger events since the last page end, completed page swaps, positions armed at the page end, sources ended
  (R389, R392, R394) -/
  events : Nat := 0
  swaps  : Nat := 0
  armedAt : List Nat := []
  swapped : List Nat := []
  /-- HEAD: a page end that is due while the page is stopped, acted on after resume (R392, R405) -/
  endHeld : Bool := false
  deriving DecidableEq, Repr, Inhabited

/-! ### Actor slots (R354, R361, R383) -/

/-- What a parked firing waits for (R361), or has been given. -/
inductive ParkKind where
  | fullEmpty | barrier | mwait | drain | copyQueue | seqQueue | belfryQueue | oclaim | busy | rcap | rdisp | rcomb | rrec
  | recv | peek | note | launchQueue | cfgw | translation | ramo | rsend | sysc | tlbi | bank | order | scope | matrix
  deriving DecidableEq, Repr, Inhabited

/-- Does a wait of this kind carry what the instruction has done so far? -/
def ParkKind.progress : ParkKind → Bool
  | .fullEmpty | .barrier | .mwait | .drain | .rcap | .rdisp | .rcomb | .rrec | .recv | .peek | .note | .cfgw | .ramo | .rsend
  | .sysc | .tlbi | .matrix | .scope => true
  | .copyQueue | .seqQueue | .belfryQueue | .oclaim | .busy | .launchQueue | .translation | .bank | .order => false

/-- The place of bytes named through a handle. -/
inductive Loc where
  /-- a core's scratchpad and a byte offset -/
  | sp (k off : Nat)
  /-- device virtual memory of a context: address, policy, interleaving -/
  | mem (x va pol : Nat) (il : Bool)
  /-- a window: space, index, byte offset -/
  | win (space idx ofs : Nat)
  deriving DecidableEq, Repr, Inhabited

/-- A row that RSEND sends, as its checks at issue found it (R271, R272): source, window, the far address of byte 0, the counter's, the
window's descriptor, set and length. -/
structure RowPlan where
  src   : Loc
  /-- handle and byte offset of the source, for the record of a fault -/
  shnd  : Nat
  sofs  : Nat
  space : Nat
  win   : Nat
  ofs   : Nat
  far   : Nat
  cnt   : Option Nat
  desc  : List Word
  set   : Nat
  wide  : Bool
  len   : Nat
  deriving DecidableEq, Repr, Inhabited

/-- A parked firing's wait. `done` says that what it waited for has been given; `val` and `flag` carry it. -/
structure Park where
  kind : ParkKind
  done : Bool := false
  val  : Word := 0
  flag : Bool := false
  /-- the request, fault record or object waited on -/
  on   : Nat := 0
  /-- translation: handle index and byte offset of the access that waits (R220) -/
  at_  : Nat × Nat := (0, 0)
  /-- RSEND's row, while its commit answer is awaited -/
  row  : Option RowPlan := none
  deriving DecidableEq, Repr, Inhabited

/-- What an actor's firing has issued that is still to come back, while the firing goes on (R218, R418, R437). -/
inductive Pend where
  /-- LD that waits on a translation fault record: its word, handle entry and byte offset as they stood at issue -/
  | load (word : Word) (ent : List Word) (ofs : Nat) (on : Nat)
  /-- ST likewise, with the value to be stored -/
  | store (word : Word) (ent : List Word) (ofs : Nat) (val : Word) (on : Nat)
  /-- OCLAIM, MCHK or MFIX in the sequencer's queue (R326, R437): the registers that its completion writes -/
  | matrix (regs : List Nat)
  deriving DecidableEq, Repr, Inhabited

/-- Status of a slot (R354); ready is judged from the channels (R359). -/
inductive SlotStatus where
  | absent | idle | firing | parked | finished
  deriving DecidableEq, Repr, Inhabited

/-- One actor slot. -/
structure Slot where
  status : SlotStatus := .absent
  /-- code image [entry, stop), byte offsets in the team's code section (R354) -/
  entry  : Nat := 0
  stop   : Nat := 0
  /-- w0–w23 and h0–h7 (R65) -/
  regs   : AMap Word := []
  pc     : Nat := 0
  /-- ordinal of the firing, so that a late error finds the firing that issued the work (R220, R329) -/
  serial : Nat := 0
  /-- instructions issued in the firing (R363) -/
  issued : Nat := 0
  /-- tokens taken and sent in the firing, by port 0–7 (R361) -/
  taken  : AMap Nat := []
  sent   : AMap Nat := []
  park   : Option Park := none
  /-- what the instruction had been waiting for or given when an access of it had to wait besides -/
  under  : Option Park := none
  /-- rounds passed over since the slot became a candidate (R360) -/
  passed : Nat := 0
  cand   : Bool := false
  /-- discards later tokens up to eos after finishing, by channel (R362); eos still to be sent, by channel -/
  drop   : List Nat := []
  eosDue : List Nat := []
  /-- poisoned registers (R424), and those among them that a save found (SRC 8, R426) -/
  poisoned : List Nat := []
  savedBad : List Nat := []
  /-- what the firing has issued and not had back, oldest first (R218, R437) -/
  pend   : List Pend := []
  deriving DecidableEq, Repr, Inhabited

/-! ### Copies, matrix, routing -/

/-- Source or destination of a copy (R287, R303, R304). -/
inductive CopyKind where
  | copy | fence | im2col | gather
  deriving DecidableEq, Repr, Inhabited

/-- Who issued a request, a matrix word or an access. -/
inductive Source where
  | actor (core slot serial : Nat)
  | elem (core pos : Nat)
  | engine (core : Nat)
  deriving DecidableEq, Repr, Inhabited

/-- Progress of a copy request (R289). -/
inductive CopyStage where
  | read | write | stamp | append | follow
  deriving DecidableEq, Repr, Inhabited

/-- An accepted copy request (R285 to R304). -/
structure CopyReq where
  id     : Nat := 0
  kind   : CopyKind := .copy
  /-- W0 to W3 of the packet, or its equivalent -/
  w0     : Word := 0
  w1     : Word := 0
  w2     : Word := 0
  w3     : Word := 0
  src    : Source := .engine 0
  /-- the places of source and destination, as the handles stood at acceptance (R231) -/
  from_  : Loc := .sp 0 0
  to_    : Loc := .sp 0 0
  /-- XIM2C: descriptor words, ox0, oy, n, g; GATH: n, element size, bytes of the source handle beyond its base reference, and the
  reference of the indices -/
  args   : List Word := []
  idx    : Loc := .sp 0 0
  /-- claim generations of the destination and of FCMD's slots and tiles at acceptance (R294, R327) -/
  gen    : Nat := 0
  fgens  : List (Nat × Nat) := []
  stage  : CopyStage := .read
  /-- bytes read so far, bytes written so far, and ranges of the payload that came from poisoned words, with the machine-check
  code that they carry -/
  taken  : List Byte := []
  pos    : Nat := 0
  bad    : List (Nat × Nat × Nat) := []
  /-- XIM2C: image elements read, by byte offset, with the machine check of poison met: each is read once (R303) -/
  seen   : AMap (List Byte × Option (Nat × Option Nat)) := []
  /-- a word or window read in flight, or a remote write whose acknowledgment is awaited; what it gave, and whether poisoned -/
  due    : Bool := false
  got    : Option (List Byte × Option Nat) := none
  /-- a translation fault record that the access waits on (R417), and the access: handle index and byte offset -/
  xwait  : Option Nat := none
  xat    : Nat × Nat := (0, 0)
  status : Nat := 0
  /-- fences that the request is behind in other queues, by id; for a fence, the requests ahead in its joined queues -/
  fences : List Nat := []
  ahead  : List Nat := []
  deriving DecidableEq, Repr, Inhabited

/-- An operand slot (R310, R313). -/
structure OpSlot where
  owner : Option Nat := none
  gen   : Nat := 0
  desc  : Word := 0
  mem   : List Host.Cell := []
  /-- poisoned words, and the machine-check codes of those that came from elsewhere (R425) -/
  poison : List Nat := []
  src    : AMap Nat := []
  releasing : Bool := false
  deriving DecidableEq, Repr, Inhabited

/-- An accumulator tile with its checksum state (R312). -/
structure Tile where
  owner : Option Nat := none
  gen   : Nat := 0
  releasing : Bool := false
  acc   : AMap (BitVec 32) := []
  refR  : AMap (BitVec 32) := []
  absR  : AMap (BitVec 32) := []
  resR  : AMap (BitVec 32) := []
  refC  : AMap (BitVec 32) := []
  absC  : AMap (BitVec 32) := []
  resC  : AMap (BitVec 32) := []
  cm    : Nat := 0
  cn    : Nat := 0
  ckv   : Bool := false
  /-- poisoned elements, by index 64i + j, and the machine-check codes of those that came from elsewhere (R425) -/
  poison : List Nat := []
  src    : AMap Nat := []
  deriving DecidableEq, Repr, Inhabited

/-- An operation in a core's sequencer queue (R326): a word or a release, who sent it, and for MCHK, MFIX and OCLAIM-like
words the registers read at issue. -/
structure MatOp where
  word   : Word := 0
  src    : Source := .engine 0
  a      : Word := 0
  b      : Word := 0
  /-- next K-chunk of the operation in flight (R330) -/
  chunk  : Nat := 0
  echo   : Option Token := none
  launch : Nat := 0
  /-- a word of the matrix port (R328) -/
  port   : Bool := false
  /-- MACCST: the place of the first row and the declared format, as the handle stood at issue (R231) -/
  to_    : Loc := .sp 0 0
  efmt   : Option Nat := none
  /-- a translation fault record that a MACCST waits on (R417) -/
  xwait  : Option Nat := none
  deriving DecidableEq, Repr, Inhabited

/-- One choice as RCAP judges it (R340): token, choice, weight, the entry's expert index, invalid, pruned. -/
structure Choice where
  g    : Nat
  c    : Nat
  w    : Nat
  e    : Nat
  inval : Bool
  pruned : Bool
  deriving DecidableEq, Repr, Inhabited

/-- An instruction in a Belfry's queue or in progress (R339, R340, R351): 0 RCAP, 1 RDISP, 2 RCOMB, 3 RREC. -/
structure BelfryOp where
  id     : Nat := 0
  /-- issued and not accepted yet: it keeps its place behind the queue (R339, R348) -/
  waiting : Bool := false
  kind   : Nat := 0
  core   : Nat := 0
  slot   : Nat := 0
  launch : Nat := 0
  share  : Nat := 0
  /-- the descriptor's address, its words 0–15 as accepted, and the addresses of its arrays CHO to Y (R335, R336) -/
  dva    : Nat := 0
  desc   : List Word := []
  arr    : List Nat := []
  /-- RCAP's epoch; RREC's SEL -/
  epoch  : Nat := 0
  /-- RCAP: published, with the share's choices; merged, with its result; the first invalid choice, as its place in CHO -/
  published : Bool := false
  choices : List Choice := []
  merged : Bool := false
  result : Word := 0
  bad48  : Option Nat := none
  /-- RCOMB: a poisoned element was met -/
  bad41  : Bool := false
  /-- RDISP, RCOMB: next global index, end; RREC: the two indices -/
  next   : Nat := 0
  last   : Nat := 0
  /-- answers of dampers by global index: RCAP's quenches, RDISP's commit of the token in hand -/
  asks   : List (Nat × Option Bool) := []
  /-- RCOMB: remote reads of the token in hand have been sent; what they gave by choice: bytes, and runs of them that came from poisoned
  words, with the machine-check code -/
  asked  : Bool := false
  got    : List (Nat × List Byte × List (Nat × Nat × Nat)) := []
  /-- a translation fault record that the access waits on (R417), and the access: handle index and byte offset -/
  xwait  : Option Nat := none
  xat    : Nat × Nat := (0, 0)
  deriving DecidableEq, Repr, Inhabited

/-- A candidate in a published run (R340, R341): weight, expert, global index, choice. -/
structure Cand where
  w : Nat
  e : Nat
  g : Nat
  c : Nat
  deriving DecidableEq, Repr, Inhabited

/-- What a share has published in a region of an exchange area (R341): its launch and context, the area's address, parity and share.
The bytes of the area are undefined to software (R6). -/
structure RunSet where
  launch : Nat
  ctx    : Nat
  at_    : Nat
  parity : Nat
  share  : Nat
  cands  : List Cand
  deriving DecidableEq, Repr, Inhabited

/-! ### Full/empty words (R221 to R224) -/

/-- Who waits at a full/empty word. -/
inductive Cont where
  | actor (core slot : Nat)
  | elem (core pos : Nat)
  | copy (core queue : Nat)
  /-- a copy request's append, which is not complete while it waits for a pool record (R292) -/
  | append (core queue : Nat)
  deriving DecidableEq, Repr, Inhabited

/-- A pool record (R221): a deferred reader (LDF or LDFE) or a parked writer. -/
structure Rec where
  word  : Nat
  write : Bool := false
  take  : Bool := false
  val   : Word := 0
  /-- a writer's value is poisoned: its machine-check code (R289) -/
  bad   : Option Nat := none
  cont  : Option Cont := none
  deriving DecidableEq, Repr, Inhabited

/-! ### Cores -/

/-- The page a core hosts (R30, R43, R395). -/
structure Owner where
  launch : Nat
  pset   : Nat
  inst   : Nat
  share  : Nat
  lpg    : Nat
  deriving DecidableEq, Repr, Inhabited

/-- A line of an L1 (R214) or of a metadata cache: its bytes, dirty bytes, and poisoned words with their machine-check codes (R425). -/
structure L1Line where
  /-- the key entry of the page the line lies in (R420) -/
  key    : Nat := 0
  bytes  : List Byte := []
  dirty  : List Nat := []
  poison : AMap Nat := []
  deriving DecidableEq, Repr, Inhabited

/-- A version of a handle entry in a handle cache (R231): the context and the four words. -/
structure HandleVer where
  ctx : Nat
  idx : Nat
  w0  : Word
  w1  : Word
  w2  : Word
  w3  : Word
  deriving DecidableEq, Repr, Inhabited

/-- A configuration stream in progress at a core's network (R45 to R50, R386): the open page and bank, where each field
was last written since PAGE, pending arms. -/
structure Stream where
  launch : Nat := 0
  pset   : Nat := 0
  inst   : Nat := 0
  share  : Nat := 0
  cmds   : List Cmd := []
  idx    : Nat := 0
  page   : Option Nat := none
  bank   : Nat := 0
  /-- index of the PAGE command, and the number of arms before it -/
  start  : Nat := 0
  armsAt : Nat := 0
  /-- the PREFIX in force: its index and HI -/
  pfx    : Option (Nat × BitVec 30) := none
  /-- (page, bank, element, field) ↦ index and word of the command that last wrote it -/
  wrote  : List (Nat × Nat × Nat × Nat × Nat × Cmd) := []
  /-- pages sealed, in order, with index and word of the SEAL command -/
  closed : List (Nat × Nat × Cmd) := []
  /-- ARM and DISARM commands: page, element, arm -/
  arms   : List (Nat × Nat × Bool) := []
  /-- the CFGW firing that waits; none for admission -/
  origin : Option (Nat × Nat) := none
  /-- the fault that stopped the stream: code, command index, command word, page, bank -/
  fault  : Option (Nat × Nat × Cmd × Nat × Nat) := none
  ended   : Bool := false
  deriving DecidableEq, Repr, Inhabited

/-- One core (R16). -/
structure Core where
  own    : Option Owner := none
  elems  : AMap Elem := []
  slots  : AMap Slot := []
  /-- the slot whose firing the sequencer runs (R354) -/
  running : Option Nat := none
  /-- the slot that each class last took (R360) -/
  rr     : AMap Nat := []
  /-- scratchpad ways (R228), bytes, FULL words, records rooted in words, waiting writers, records waiting for the pool,
  poisoned words -/
  nsp    : Nat := 4
  sp     : List Host.Cell := []
  full   : List Nat := []
  lists  : List Rec := []
  writers : List Rec := []
  poolQ  : List Rec := []
  spPoison : List Nat := []
  /-- machine-check codes of poisoned words that came from elsewhere (R425) -/
  spSrc  : AMap Nat := []
  fused  : Bool := false
  l1     : AMap L1Line := []
  handles : List HandleVer := []
  /-- lines of the metadata cache (R208), never dirty -/
  metaC  : AMap L1Line := []
  op     : AMap OpSlot := []
  tiles  : AMap Tile := []
  seq    : List MatOp := []
  /-- lines that MACCSTs completed since the last MFENCE have written (R325) -/
  stLines : List Nat := []
  queues : AMap (List CopyReq) := []
  filter : List (BitVec 24) := []
  /-- the overflow range of the quench filter (R168) -/
  range  : Option (BitVec 24 × BitVec 24) := none
  net    : Option Stream := none
  /-- sources let run (R388, R401, R403) -/
  srcRun : Bool := false
  deriving DecidableEq, Repr, Inhabited

/-! ### Dampers, reach, launches -/

/-- State of a set that holds an entry (R163, R164). SEALED and RETIRED sets hold none. -/
structure DEntry where
  launch : Nat
  share  : Nat
  set    : BitVec 24
  /-- share sequence s and sequence u (R160) -/
  s      : Nat
  u      : Nat
  quenched : Bool := false
  /-- notice fields (R180), once quenched -/
  cause  : Nat := 0
  worth  : BitVec 16 := 0
  pset   : Nat := 0
  lpg    : Nat := 0
  port   : Nat := 0
  elem   : Nat := 0
  time   : Nat := 0
  deriving DecidableEq, Repr, Inhabited

/-- A request to a damper. -/
inductive DKind where
  | declare | commit | quench
  /-- the damper port's other commands (R184) -/
  | query | settle | oldest
  deriving DecidableEq, Repr, Inhabited

/-- Who a damper answers. -/
inductive DFrom where
  /-- a settle buffer -/
  | settle (core pos : Nat)
  /-- an OSNEW's declaration -/
  | osnew (core pos : Nat)
  /-- a ranked input: core, position, port (8 + channel at APORT) -/
  | ranked (core pos port : Nat)
  /-- the damper port's command -/
  | dport (core : Nat)
  /-- an actor's RECV or RSEND -/
  | actor (core slot : Nat)
  /-- RCAP's per-token quench or RDISP's commit: die of the Belfry, instruction, global index -/
  | belfry (die id g : Nat)
  deriving DecidableEq, Repr, Inhabited

/-- A request in flight to the damper of a die (R36, R164). -/
structure DReq where
  die    : Nat
  launch : Nat
  kind   : DKind
  set    : BitVec 24 := 0
  /-- DECLARE's share sequence; SETTLE's operand -/
  s      : Nat := 0
  src    : DFrom
  cause  : Nat := 0
  worth  : BitVec 16 := 0
  pset   : Nat := 0
  lpg    : Nat := 0
  elem   : Nat := 0
  port   : Nat := 0
  deriving DecidableEq, Repr, Inhabited

/-- An answer in flight from the damper of a die: QUENCHED or SEALED, the state code after, and OLDEST's sequence (R184). -/
structure DAns where
  die    : Nat
  req    : Nat
  launch : Nat
  set    : BitVec 24
  kind   : DKind
  src    : DFrom
  quenched : Bool
  code   : Nat := 0
  low    : Option Nat := none
  deriving DecidableEq, Repr, Inhabited

/-- A quench on its way to a core (R170). -/
structure Broadcast where
  die    : Nat
  launch : Nat
  core   : Nat
  set    : BitVec 24
  deriving DecidableEq, Repr, Inhabited

/-- A released notice (R180). -/
structure Notice where
  w0 : Word
  w1 : Word
  w2 : Word
  deriving DecidableEq, Repr, Inhabited

/-- A reach access in flight (R269 to R280): who waits for what. -/
inductive ReachKind where
  | rst | ramo | load | store | copyRead | copyWrite | row | coll
  deriving DecidableEq, Repr, Inhabited

structure ReachReq where
  kind   : ReachKind
  die    : Nat := 0
  ctx    : Nat := 0
  launch : Option Nat := none
  src    : Source := .engine 0
  /-- window index and offset (R280) -/
  win    : Nat := 0
  ofs    : Nat := 0
  size   : Nat := 0
  /-- OS code; COLL: addresses of destination and completion word, and their interleaving -/
  os     : Nat := 0
  args   : List Word := []
  /-- COLL: this member's part -/
  part   : Option CollPart := none
  /-- the first two words of a record about it, but for code and class, as the agent stood at issue (R411) -/
  rec0   : Word := 0
  rec1   : Word := 0
  deriving DecidableEq, Repr, Inhabited

/-- A reassembly entry (R274): sender, source die and row tag; cells written so far; raised. -/
structure Reassembly where
  die  : Nat
  spkg : Nat
  sdie : Nat
  row  : Nat
  ncell : Nat
  cells : List Nat
  deriving DecidableEq, Repr, Inhabited

/-- What the package sends to outside parties. -/
inductive Msg where
  /-- a write or atomic through a rem window, by request -/
  | remote (req pkg ctx rkey addr size : Nat) (amo : Option Nat) (os : Nat) (val cmp : Word)
  /-- bytes written through a rem, net or pcie window, by request, with the runs that came from poisoned words (R289) -/
  | write (req space win addr : Nat) (data : List Byte) (bad : List (Nat × Nat))
  /-- bytes asked for through a window -/
  | read (req space win addr size : Nat)
  /-- a cell (R273) and the port it leaves on (R274) -/
  | cell (port : Nat) (c : Cell)
  /-- a collective's part of this member (R278) -/
  | coll (req : Nat) (part : CollPart)
  /-- the answer to an arriving rem access: tag, performed, old value, poisoned -/
  | ack (pkg tag : Nat) (old : Word) (poisoned : Bool)
  | refuse (pkg tag : Nat)
  /-- a checked access that the slice's checker refuses, with the level of the recorded scope (R253) -/
  | scopeRefuse (pkg tag lvl : Nat)
  /-- bytes read for an arriving rem access, with the runs that came from poisoned words -/
  | answer (pkg tag : Nat) (data : List Byte) (bad : List (Nat × Nat))
  /-- RoCEv2: acknowledgment, NAK (0 invalid request, 1 remote operational error, 2 remote access error), read response -/
  | rdmaAck (qp : Nat)
  | rdmaNak (qp why : Nat)
  | rdmaRead (qp : Nat) (data : List Byte)
  /-- PCIe: unsupported request -/
  | pcieUr (requester : Nat)
  /-- an MSI-X message delivered to the AIA (R431) -/
  | msi (requester data : Nat)
  /-- an interrupt of a context's guest (IID), or of the supervisor (0) -/
  | interrupt (ctx iid : Nat)
  /-- an attestation report and its signature (R433) -/
  | report (bytes sig : List Byte)
  deriving DecidableEq, Repr, Inhabited

/-- A binding (R250): object's physical address, region handle, offset, length. -/
structure Bind where
  obj : Nat
  hnd : Nat
  ofs : Nat
  len : Nat
  deriving DecidableEq, Repr, Inhabited

/-- A barrier instance (R256): level, instance, identifier; COUNT; parked arrivals (core, slot). -/
structure Barrier where
  lvl   : Nat
  inst  : Nat
  id    : Nat
  count : Nat
  arrived : List (Nat × Nat)
  deriving DecidableEq, Repr, Inhabited

/-- The place of a page (R395). -/
structure Place where
  pset  : Nat
  inst  : Nat
  share : Nat
  lpg   : Nat
  core  : Nat
  deriving DecidableEq, Repr, Inhabited

/-- A Lantern's dealing to one instance of one share (R376 to R378). -/
structure Deal where
  share : Nat
  inst  : Nat
  /-- `repro`: next record; `elastic`: records of the chunk in hand -/
  next  : Nat
  stop  : Nat
  eosSent : Bool := false
  deriving DecidableEq, Repr, Inhabited

/-- A page set of an image: pages and configuration stream (R97, R98). -/
structure PageSet where
  pages  : Nat
  stream : List Cmd
  deriving DecidableEq, Repr, Inhabited

/-- An actor of an image (R97): page set, page, slot, code image. -/
structure ActorRec where
  pset  : Nat
  lpg   : Nat
  slot  : Nat
  entry : Nat
  stop  : Nat
  deriving DecidableEq, Repr, Inhabited

/-- A pipe of an image (R88, R97): producer and the consumer page's boundary output 0–7. -/
structure Pipe where
  pset  : Nat
  lpg   : Nat
  pos   : Nat
  port  : Nat
  cpset : Nat
  clpg  : Nat
  bout  : Nat
  deriving DecidableEq, Repr, Inhabited

/-- An output window (R97). -/
structure OutWin where
  hnd : Nat
  ofs : Nat
  len : Nat
  deriving DecidableEq, Repr, Inhabited

/-- An output window as admission found it (R427): device virtual address, handle with its policy, offset in the handle, length, and
the address of the handle's layout record. -/
structure OutRange where
  va     : Nat
  hnd    : Nat
  pol    : Nat
  ofs    : Nat
  len    : Nat
  layout : Nat
  deriving DecidableEq, Repr, Inhabited

/-- An admitted team image (R97, R98, R101). -/
structure Image where
  ctx    : Nat := 0
  /-- 0 any, 1 `repro` only, 2 `elastic` only -/
  mode   : Nat := 0
  fuse   : Bool := false
  psets  : List PageSet := []
  code   : List Word := []
  actors : List ActorRec := []
  pipes  : List Pipe := []
  /-- record size of the job; none without .job -/
  job    : Option Nat := none
  wins   : List OutWin := []
  /-- declaration count N (R160) and whether any OSNEW exists -/
  ndecl  : Nat := 1
  osnew  : List Nat := []
  system : Bool := false
  meas   : List Byte := []
  deriving DecidableEq, Repr, Inhabited

/-- Phase of a launch. -/
inductive Phase where
  /-- its sources run or have run -/
  | running
  /-- pre-emption: stopped and draining (R403) -/
  | stopping
  /-- its drain budget has run out: elements and actors stop (R403) -/
  | halted
  /-- its image is saved (R404) -/
  | saved
  /-- stage 2 of R186 is done: notices are being delivered -/
  | retiring
  deriving DecidableEq, Repr, Inhabited

/-- What a pre-emption is for (R403): a time slice, a team swap, or a move of pages from
core to core. -/
inductive Preempt where
  | slice | swap
  | move (cores : List (Nat × Nat))
  deriving DecidableEq, Repr, Inhabited

/-- The page of a saved launch (R403): its place, the core's state, and the tokens of its channels and residents as their images in
memory (R64). -/
structure SavedPage where
  place : Place
  core  : Core
  toks  : List Word
  deriving DecidableEq, Repr, Inhabited

/-- A launch that has been admitted (R399 to R405). -/
structure Launch where
  ctx    : Nat := 0
  cq     : Nat := 0
  team   : Nat := 0
  /-- the packet: 32 words, the last 16 of them ARGS -/
  pkt    : List Word := []
  img    : Image := {}
  phase  : Phase := .running
  why    : Option Preempt := none
  /-- stopped by a fault: status and code -/
  failed : Option (Nat × Nat) := none
  dies   : List Nat := []
  places : List Place := []
  deals  : List Deal := []
  /-- `elastic` cursor nx of each share (R378) -/
  cursor : AMap Nat := []
  barriers : List Barrier := []
  binds  : List Bind := []
  /-- settled frontier that each share has reported (R177): every share sequence below it has settled; none when all have -/
  frontier : AMap (Option Nat) := []
  flue   : List Notice := []
  /-- ordinal of the next notice the flue writes, and of the next notice released -/
  wr     : Nat := 0
  released : Nat := 0
  /-- arrivals at barriers of a team that is not resident (R260) are kept in `barriers` -/
  saved  : List SavedPage := []
  savedEntries : List DEntry := []
  savedBelfry : List BelfryOp := []
  savedFilter : List (BitVec 24) := []
  savedRange : Option (BitVec 24 × BitVec 24) := none
  /-- device virtual addresses of the notice, damper and save areas and of the completion word, as admission found them -/
  note   : Nat := 0
  damp   : Nat := 0
  save   : Nat := 0
  done   : Nat := 0
  /-- output windows, in ascending order of addresses -/
  outs   : List OutRange := []
  /-- when readmission was asked for: a watchpoint of the swap fired, or the time slice returned (R381, R382) -/
  readmit : Option Nat := none
  deriving DecidableEq, Repr, Inhabited

/-! ### Contexts, translation, package -/

/-- A completion word that waits to be written: its address, and the translation fault record it waits on, if any (R417, R423). -/
structure EndWord where
  va : Nat
  on : Option Nat := none
  deriving DecidableEq, Repr, Inhabited

/-- A tenant context (R42, R407, R429). -/
structure Ctx where
  ctl    : Word := 0
  ptb    : Word := 0
  htb    : Word := 0
  /-- PTB and HTB as accesses see them: a new value reaches them after TLBI or HINV (R408) -/
  ptbUse : Nat := 0
  htbUse : Nat := 0
  wtb    : Word := 0
  grp    : Word := 0
  rnkt   : Word := 0
  teamwait : Word := 20
  slice  : Word := 0
  rtmo   : Word := 1000
  caps   : Word := 0
  keys   : Word := 0
  trapr  : Word := 0
  /-- TRAPWR and LOST -/
  trapwr : Word := 0
  traprd : Word := 0
  akl    : Word := 0
  /-- eight command queues: packets of 32 words, and append counts (R398, R400) -/
  queues : AMap (List (List Word)) := []
  counts : AMap Nat := []
  /-- the launch of each queue that has not ended (R398) -/
  active : AMap Nat := []
  /-- what a read of the ADMIT register gives (R429) -/
  admitR : Word := 0
  /-- this member's parts of the COLLs issued, by tag, in order (R278) -/
  colls  : AMap (List CollPart) := []
  /-- trap records whose place does not translate, oldest first: words 0 to 6; and the fault record that they wait on (R417, R418) -/
  trapQ  : List (List Word) := []
  trapX  : Option Nat := none
  /-- completion words of status 8 whose place does not translate (R417, R423) -/
  endWords : List EndWord := []
  deriving DecidableEq, Repr, Inhabited

/-- A translation in a translation unit (R414, R419). -/
structure Xlat where
  die  : Nat
  ctx  : Nat
  /-- leaf level 0–2, device virtual page base, the leaf entry -/
  lvl  : Nat
  base : Nat
  pte  : Word
  deriving DecidableEq, Repr, Inhabited

/-- An outstanding translation fault record (R417). -/
structure XFault where
  ord   : Nat
  ctx   : Nat
  /-- the page: level of its leaf and number (R414) -/
  lvl   : Nat := 0
  page  : Nat
  cause : Nat
  /-- the record's words 0 to 2; held back while the ring is full -/
  w0    : Word := 0
  w1    : Word := 0
  w2    : Word := 0
  held  : Bool := false
  deriving DecidableEq, Repr, Inhabited

/-- An access of a unit outside the cores that waits on a translation fault record: the event that presents it, the record, and
whether the supervisor has answered that it fails (R417). -/
structure UnitWait where
  ev     : Instr
  on     : Nat
  failed : Bool := false
  deriving DecidableEq, Repr

/-- A registered MWAIT waiter (R257): the firing, the word's place (physical address, or core and scratchpad offset),
size and bound. -/
structure Waiter where
  core  : Nat
  slot  : Nat
  sp    : Option Nat := none
  addr  : Nat
  size  : Nat
  bound : Nat
  deriving DecidableEq, Repr, Inhabited

/-- A registered watchpoint (R258, R259), or an internal one of a swapped team (R380). -/
structure Watch where
  ctx   : Nat
  die   : Nat
  slice : Nat
  entry : Nat
  addr  : Nat
  len   : Nat
  cq    : Nat := 0
  mask  : Word := 0
  value : Word := 0
  packet : Word := 0
  /-- the launch whose swap registered it; none for WATCH -/
  team  : Option Nat := none
  deriving DecidableEq, Repr, Inhabited

/-- The scope record of a line (R253): level, instance, launch that set it. -/
structure ScopeRec where
  lvl    : Nat
  inst   : Nat
  /-- a pod group: its identifier and its members' packages (R268) -/
  gid    : Option Nat := none
  pkgs   : List Nat := []
  launch : Option Nat := none
  deriving DecidableEq, Repr, Inhabited

/-- A queue pair's binding (R430): Ethernet port, context, queue, LAUNCH bit, path MTU; rate lowered by steps. -/
structure QPair where
  port   : Nat
  ctx    : Nat
  queue  : Nat
  launch : Bool
  mtu    : Nat
  lowered : Nat := 0
  deriving DecidableEq, Repr, Inhabited

/-- Whether the package runs. -/
inductive Power where
  /-- before bring-up -/
  | off
  /-- the security block's ROM keeps the Serson complex in reset (R432) -/
  | heldInReset
  | on
  /-- a thermal trip has halted the package (R434) -/
  | tripped
  deriving DecidableEq, Repr, Inhabited

/-- Whose step is being made. -/
inductive Agent where
  | none
  | actor (core slot : Nat)
  | elem (core pos : Nat)
  | net (core : Nat)
  deriving DecidableEq, Repr, Inhabited

/-- The state of a Q9 package. -/
structure State where
  /-- the model's own fields (DESIGN CHOICE, log 1, DESIGN CHOICE, log 2) -/
  agenda : List Move := []
  tick   : Nat := 0
  cur    : Agent := .none
  nextId : Nat := 0
  power  : Power := .off
  /-- HBM (R13, R43): bytes by physical address; an unlisted byte reads zero (R422) -/
  hbm    : List Host.Cell := []
  /-- poisoned 64-bit words, by physical address ÷ 8 (R424), and the machine-check codes of those that an error in HBM did not
  poison (R425) -/
  poison : List Nat := []
  poisonSrc : AMap Nat := []
  /-- lines not marked zero: the key entry and the load of that entry they were written under (R420, R422) -/
  lineKey : AMap (Nat × Nat) := []
  /-- ranges of lines that hold save images and nothing written since: their bytes are the Q9's own (R404) -/
  veils  : List (Nat × Nat) := []
  /-- owner tags of 64 KiB pages (R421) -/
  owners : AMap Nat := []
  /-- placed pages (R43): first 64 KiB frame, the frame after the last, stack; the earliest placement of a frame holds -/
  placed : List (Nat × Nat × Nat) := []
  scopes : AMap ScopeRec := []
  waiters : List Waiter := []
  watches : List Watch := []
  /-- appends held by a full queue: context, queue, packet (R259); the empty packet is one that could not be read (R429) -/
  heldAppends : List (Nat × Nat × List Word) := []
  tlb    : List Xlat := []
  xfaults : List XFault := []
  /-- accesses of units outside the cores that wait on a record (R417) -/
  unitWait : List UnitWait := []
  cores  : AMap Core := []
  /-- Belfries: queue and instruction in progress, cached descriptors (context, reference, words) -/
  belfry : AMap (List BelfryOp) := []
  belfryCache : List (Nat × Nat × Word × List Word) := []
  /-- dampers: entries, requests, answers, broadcasts in flight -/
  entries : List (Nat × DEntry) := []
  dreqs  : AMap DReq := []
  dans   : AMap DAns := []
  casts  : AMap Broadcast := []
  exchange : List RunSet := []
  /-- reach units: rail counter and next row tag by die, accesses in flight, reassembly, link errors -/
  rail   : AMap Nat := []
  rowTag : AMap Nat := []
  reach  : AMap ReachReq := []
  reasm  : List Reassembly := []
  linkErrors : Nat := 0
  sent   : List Msg := []
  ctxs   : AMap Ctx := []
  images : AMap Image := []
  launches : AMap Launch := []
  /-- the context that the rotation of R410 pre-empted or served last; none before the first pre-emption -/
  turn   : Option Nat := none
  /-- package registers 0x80 to 0x8A (R407) -/
  poda   : Word := 0
  podaFixed : Bool := false
  cycle  : Word := 0
  fltr   : Word := 0
  fltwr  : Word := 0
  mcr    : Word := 0
  mcwr   : Word := 0
  pzaddr : Word := 0
  /-- a reassignment in progress (BUSY): its first page and the accepted write of register 0x88 -/
  pzBusy : Option (Nat × Word) := none
  plim   : Word := 2600
  refr   : Word := 0
  /-- steps of 1/16 by which the compute clock is slowed (R434) -/
  throttle : Nat := 0
  /-- AES-256-XTS key table: the keys loaded into each entry, the one in force first (R420) -/
  keyTab : AMap (List (List Byte)) := []
  /-- corrected errors (R424) -/
  corrected : Nat := 0
  /-- the fused hash of the firmware's key, and whether firmware has entered HS-mode with a verified supervisor (R432) -/
  fuse   : List Byte := []
  hsMode : Bool := false
  /-- measurements (R432), keys of system actors (R41) -/
  fwMeas : List Byte := []
  svMeas : List Byte := []
  sysKeys : List (List Byte) := []
  qpairs : AMap QPair := []
  /-- rate step set by the supervisor (R430) -/
  rateStep : Nat := 0
  /-- PCIe requester IDs assigned to contexts (R431) -/
  requesters : AMap Nat := []
  deriving DecidableEq, Repr, Inhabited

/-- Why a step stops. Each is safe: the machine of the manual does nothing more either. -/
inductive Fault where
  /-- raised by `step` after a thermal trip: the package is halted and no state survives it (R434). Safe. -/
  | thermalTrip
  /-- raised by `step` after a failed firmware check: the Serson complex stays in reset (R432). Safe. -/
  | heldInReset
  deriving DecidableEq, Repr

/-- Why a step is refused. -/
inductive Refusal where
  /-- raised by the arm of an instruction that has no meaning yet. Safe: nothing is proved of it. -/
  | notModelled (mnemonic : String)
  deriving DecidableEq, Repr

/-- `n` bytes of a number, most significant first. -/
def bytesBE (n v : Nat) : List Byte := (leBytes n v).reverse
/-- What the security block finds at the bring-up of the reset state: an empty firmware and supervisor, no loaded key, and a firmware
signature that verifies under the key of RFC 8032's first example (DESIGN CHOICE, log 1). -/
def State.plainBringUp : BringUp :=
  { firmware := [], fwKey := bytesBE 32 0xd75a980182b10ab7d54bfed3c964073a0ee172f3daa62325af021a68f707511a
    fwSig := bytesBE 64 (0xe5564300c360ac729086e2cc806e828a84877f1eb8e5d974d873e06522490155 * 2 ^ 256
      + 0x5fb8821590a33bacc61e39701cf9b46bd25bf5f0595bbe24655141438e7a100b)
    supervisor := [], svOk := true, pod := 0, keys := [], systemKeys := [], qpairs := [], rateStep := 0, requesters := [] }
/-- The fused hash of the key that the bring-up of the reset state presents (DESIGN CHOICE, log 1). -/
def State.plainFuse : List Byte :=
  bytesBE 64 (0x0e02a50225b4baaa18a0470ed9bfc7dc032f1724e819e47a23c4f2c32f750609 * 2 ^ 256
    + 0x4709688293c479c0534defd3a98b4302187806511b83f12ab575d4144770a9c3)

/-- The package right after reset: power is applied and bring-up comes first (R432); every register at the value R407
gives; memory marked zero (R422); no page placed or owned. -/
def State.reset : State := { agenda := [.event (.bringUp State.plainBringUp)], fuse := State.plainFuse }

end Sys2Proof.Machine
end

