-- ==== Sys2Proof/Machine/Maps.lean ====
section
/-!
DEFINITION. Sparse maps and byte memories (the canonical form: keys strictly rising and, in a byte memory, no byte equal
to the zero that an unlisted address reads as; R43, R422).
-/
namespace Sys2Proof.Machine

/-- The entry of a key. -/
def mget {α : Type} : AMap α → Nat → Option α
  | [], _ => none
  | (k', v) :: m, k => if k' = k then some v else mget m k

/-- Enter a key, keeping the keys in order. -/
def mset {α : Type} : AMap α → Nat → α → AMap α
  | [], k, v => [(k, v)]
  | (k', v') :: m, k, v =>
    if k < k' then (k, v) :: (k', v') :: m
    else if k' = k then (k, v) :: m
    else (k', v') :: mset m k v

/-- Remove a key. -/
def mdel {α : Type} : AMap α → Nat → AMap α
  | [], _ => []
  | (k', v) :: m, k => if k' = k then mdel m k else (k', v) :: mdel m k

/-- The entry of a key, or a default. -/
def mgetD {α : Type} (m : AMap α) (k : Nat) (d : α) : α := (mget m k).getD d

/-- The keys strictly rise. -/
def mrising {α : Type} : AMap α → Bool
  | [] => true
  | [_] => true
  | (k, _) :: (k', v) :: m => k < k' && mrising ((k', v) :: m)

/-- The byte at an address. -/
def bget (m : List Host.Cell) (a : Nat) : Byte := mgetD m a 0

/-- Write a byte: writing zero removes the entry. -/
def bset (m : List Host.Cell) (a : Nat) (b : Byte) : List Host.Cell :=
  if b = 0 then mdel m a else mset m a b

/-- Write consecutive bytes from an address upward. -/
def bsetN (m : List Host.Cell) : Nat → List Byte → List Host.Cell
  | _, [] => m
  | a, b :: bs => bsetN (bset m a b) (a + 1) bs

/-- Read consecutive bytes. -/
def bgetN (m : List Host.Cell) (a n : Nat) : List Byte := (upTo n).map fun i => bget m (a + i)

/-- The canonical form of a byte memory. -/
def bwf (m : List Host.Cell) : Bool := mrising m && m.all fun c => c.2 != 0

/-- Insert into a list kept without repeats. -/
def ladd (l : List Nat) (x : Nat) : List Nat := if l.contains x then l else x :: l

/-- Remove every occurrence. -/
def ldel (l : List Nat) (x : Nat) : List Nat := l.filter (· != x)

/-- Replace the first member that satisfies a test. -/
def lreplace {α : Type} (p : α → Bool) (f : α → α) : List α → List α
  | [] => []
  | x :: xs => if p x then f x :: xs else x :: lreplace p f xs

/-- Remove the first member that satisfies a test. -/
def lremove {α : Type} (p : α → Bool) : List α → List α
  | [] => []
  | x :: xs => if p x then xs else x :: lremove p xs

end Sys2Proof.Machine
end

