-- ==== Sys2Proof/Machine/Ops.lean ====
section
/-!
DEFINITION. The named operations over the state: accessors, registers, memory at its homes, translation, records and
rings, taking a trap and the end of a firing. Every meaning is written over these.
-/
namespace Sys2Proof.Machine

/-- The outcome of a step of this machine. -/
abbrev Out := Host.Outcome State Fault Refusal

/-! ### Accessors -/

/-- A core; a core nothing has touched is at reset. -/
def State.core (s : State) (c : Nat) : Core := mgetD s.cores c {}
def State.setCore (s : State) (c : Nat) (k : Core) : State := { s with cores := mset s.cores c k }
def State.modCore (s : State) (c : Nat) (f : Core → Core) : State := s.setCore c (f (s.core c))
def Core.elem (k : Core) (p : Nat) : Elem := mgetD k.elems p {}
def Core.setElem (k : Core) (p : Nat) (e : Elem) : Core := { k with elems := mset k.elems p e }
def Core.slot (k : Core) (n : Nat) : Slot := mgetD k.slots n {}
def Core.setSlot (k : Core) (n : Nat) (x : Slot) : Core := { k with slots := mset k.slots n x }
def State.elem (s : State) (c p : Nat) : Elem := (s.core c).elem p
def State.modElem (s : State) (c p : Nat) (f : Elem → Elem) : State :=
  s.modCore c fun k => k.setElem p (f (k.elem p))
def State.slot (s : State) (c n : Nat) : Slot := (s.core c).slot n
def State.modSlot (s : State) (c n : Nat) (f : Slot → Slot) : State :=
  s.modCore c fun k => k.setSlot n (f (k.slot n))
def State.ctx (s : State) (x : Nat) : Ctx := mgetD s.ctxs x {}
def State.modCtx (s : State) (x : Nat) (f : Ctx → Ctx) : State := { s with ctxs := mset s.ctxs x (f (s.ctx x)) }
def State.launch (s : State) (l : Nat) : Launch := mgetD s.launches l {}
def State.modLaunch (s : State) (l : Nat) (f : Launch → Launch) : State :=
  match mget s.launches l with
  | some k => { s with launches := mset s.launches l (f k) }
  | none => s
/-- Add a message to an outside party. -/
def State.send (s : State) (m : Msg) : State := { s with sent := s.sent ++ [m] }
/-- The page a core hosts. -/
def State.own (s : State) (c : Nat) : Owner :=
  ((s.core c).own).getD { launch := 0, pset := 0, inst := 0, share := 0, lpg := 0 }
/-- The tenant context that a core's page runs in. -/
def State.ctxOf (s : State) (c : Nat) : Nat := (s.launch (s.own c).launch).ctx
/-- Die of a core (R15). -/
def dieOf (c : Nat) : Nat := c / 64
/-- Quad of a core (R15). -/
def quadOf (c : Nat) : Nat := c / 4

/-- A field of an element's active bank (R51). -/
def Elem.fld (e : Elem) (f : Nat) : Nat := (mgetD e.b0 f 0).toNat
/-- A field of the shadow bank. -/
def Elem.fld1 (e : Elem) (f : Nat) : Nat := (mgetD e.b1 f 0).toNat
/-- The opcode, [18:11] of field 0. -/
def Elem.op (e : Elem) : Nat := bits (e.fld 0) 11 8
/-- MODE, [18:4] of field 14 (R55). -/
def Elem.mode (e : Elem) : Nat := bits (e.fld 14) 4 15
/-- SUB, [7:4] of field 0. -/
def Elem.sub (e : Elem) : Nat := bits (e.fld 0) 4 4

/-! ### Registers of a firing (R65) -/

def Slot.reg (x : Slot) (r : Nat) : Word := mgetD x.regs r 0
/-- A write of a register; it clears a poison mark (R424). -/
def Slot.setReg (x : Slot) (r : Nat) (v : Word) : Slot := { x with regs := mset x.regs r v, poisoned := ldel x.poisoned r }
/-- The instruction has issued: the PC advances and the firing has issued one more (R69, R363). -/
def Slot.retire (x : Slot) : Slot := { x with pc := x.pc + 8, issued := x.issued + 1, park := none, under := none }
/-- A register of the slot whose instruction it is. -/
def State.reg (s : State) (c n : Nat) (r : Reg) : Word := (s.slot c n).reg r.toNat

/-! ### Flags (R122, R123) -/

/-- FMSK of an element, field 10 [5:2]; a NOP's fields are ignored (R58). -/
def Elem.fmsk (e : Elem) : BitVec 4 := if e.op == 0 then 0 else BitVec.ofNat 4 (bits (e.fld 10) 2 4)
/-- Record flags at an element under its mask. -/
def Elem.record (e : Elem) (fl : BitVec 4) : Elem := { e with flags := e.flags ||| (fl &&& ~~~ e.fmsk) }
def State.record (s : State) (c p : Nat) (fl : BitVec 4) : State := s.modElem c p fun e => e.record fl
/-- The matrix array records at position 61, whatever it holds (R123). -/
def State.record61 (s : State) (c : Nat) (fl : BitVec 4) : State :=
  s.modElem c 61 fun e => { e with flags := e.flags ||| fl }
def flInvalid : BitVec 4 := 1
def flOverflow : BitVec 4 := 2
def flUnderflow : BitVec 4 := 4
def flInexact : BitVec 4 := 8

/-! ### Memory at its homes (R236, R420, R422, R424) -/

/-- Ranges of lines with the lines [lo, hi) taken out. -/
def cutLines (vs : List (Nat × Nat)) (lo hi : Nat) : List (Nat × Nat) :=
  vs.flatMap fun v => [(v.1, min v.2 lo), (max v.1 hi, v.2)].filter fun r => r.1 < r.2
/-- Does a line hold a save image still (R404)? -/
def State.veiled (s : State) (line : Nat) : Bool := s.veils.any fun v => v.1 ≤ line && line < v.2
/-- How often a key entry has been loaded, and its key as of the n-th load; the empty key before the first (R420). -/
def State.keyLoads (s : State) (key : Nat) : Nat := (mgetD s.keyTab key []).length
def State.keyAt (s : State) (key n : Nat) : List Byte :=
  if n == 0 then [] else (mgetD s.keyTab key []).getD (s.keyLoads key - n) []
/-- Is a line readable under a key entry: written under the load of it that is in force (R420)? The bytes of a save image are the
Q9's own and readable under none. -/
def State.keyed (s : State) (line key : Nat) : Option Bool :=
  if s.veiled line then some false
  else (mget s.lineKey line).map fun kl => kl.1 == key && kl.2 == s.keyLoads key
/-- The 64 bytes that a line stored under one key gives under another: AES-256-XTS over the line, its number as the tweak (R420). -/
def State.deciphered (s : State) (line key : Nat) : List Byte :=
  match mget s.lineKey line with
  | some kl =>
    Aes.decLine (s.keyAt key (s.keyLoads key)) line (Aes.encLine (s.keyAt kl.1 kl.2) line (bgetN s.hbm (64 * line) 64))
  | none => []
/-- A byte at its home, read under a key entry. A line marked zero reads zero. -/
def State.homeByte (s : State) (key a : Nat) : Byte :=
  match s.keyed (a / 64) key with
  | none => 0
  | some true => bget s.hbm a
  | some false => if s.veiled (a / 64) then Config.imageByte s.tick a else (s.deciphered (a / 64) key).getD (a % 64) 0
def State.readHome (s : State) (a n key : Nat) : List Byte := (upTo n).map fun i => s.homeByte key (a + i)
/-- The poisoned word that a range of bytes touches, if any (R424); a line marked zero reads with no poison (R422). -/
def State.poisonedWord (s : State) (a n : Nat) : Option Nat :=
  s.poison.find? fun w => a < 8 * w + 8 && 8 * w < a + n && (mget s.lineKey (w / 8)).isSome
def State.poisoned (s : State) (a n : Nat) : Bool := (s.poisonedWord a n).isSome

/-- The lines that bytes [a, a + n) lie in. -/
def linesOf (a n : Nat) : List Nat := if n == 0 then [] else (upTo ((a + n - 1) / 64 + 1 - a / 64)).map (· + a / 64)
/-- The 8-byte words that bytes [a, a + n) cover whole. -/
def wordsWithin (a n : Nat) : List Nat :=
  (upTo ((a + n) / 8 - cdiv a 8)).map (· + cdiv a 8)
/-- The 8-byte words that bytes [a, a + n) touch. -/
def wordsTouched (a n : Nat) : List Nat := if n == 0 then [] else (upTo ((a + n - 1) / 8 + 1 - a / 8)).map (· + a / 8)

/-- A line is about to be written under a key entry: it is encrypted under it, and its zero mark is cleared (R422). A line
written under another key keeps what a read under the new key gives (R420). -/
def State.rekey (s : State) (key line : Nat) : State :=
  let load := s.keyLoads key
  match s.keyed line key with
  | some true => s
  | none => { s with lineKey := mset s.lineKey line (key, load) }
  | some false =>
    { s with hbm := bsetN s.hbm (64 * line) (s.readHome (64 * line) 64 key)
             lineKey := mset s.lineKey line (key, load)
             veils := cutLines s.veils line (line + 1) }

/-- Put bytes at their homes under a key entry: no more than the bytes, the zero marks and the poison marks. A write of all
eight bytes of a word clears its poison mark (R424). -/
def State.putHome (s : State) (a : Nat) (bs : List Byte) (key : Nat) : State :=
  let s := (linesOf a bs.length).foldl (fun s l => s.rekey key l) s
  { s with hbm := bsetN s.hbm a bs
           poison := s.poison.filter fun w => !(wordsWithin a bs.length).contains w }

/-! ### Translation (R414 to R416, R112) -/

/-- A legal pair of format and geometry codes (R112). -/
def fmtGeoOk (fmt geo : Nat) : Bool :=
  if fmt == 3 || fmt == 4 || fmt == 5 then geo ≤ 2
  else if fmt == 6 then 3 ≤ geo && geo ≤ 5
  else fmt ≤ 11 && geo == 0

/-- Fields of a page table entry (R415). -/
def pteV (w : Word) : Bool := fld w 0 1 == 1
def pteW (w : Word) : Bool := fld w 1 1 == 1
def pteLeaf (w : Word) : Bool := fld w 2 1 == 1
def ptePA (w : Word) : Nat := fld w 8 38 * 256
def pteC (w : Word) : Bool := fld w 46 1 == 1
def pteOwner (w : Word) : Nat := fld w 47 4
def pteKey (w : Word) : Nat := fld w 51 6
def pteGeo (w : Word) : Nat := fld w 57 3
def pteFmt (w : Word) : Nat := fld w 60 4

/-- Address bits below a leaf of a level (R414). -/
def lvlShift (lvl : Nat) : Nat := if lvl == 0 then 16 else if lvl == 1 then 21 else if lvl == 2 then 30 else 41
/-- Entries of a table of a level. -/
def lvlBits (lvl : Nat) : Nat := if lvl == 0 then 5 else if lvl == 1 then 9 else 11

/-- Is an entry well formed at its level (cause 3 otherwise)? -/
def pteOk (lvl : Nat) (w : Word) : Bool :=
  fld w 3 5 == 0 &&
  (if pteLeaf w then
    lvl < 3 && ptePA w % 2 ^ lvlShift lvl == 0 && fmtGeoOk (pteFmt w) (pteGeo w)
  else
    0 < lvl && fld w 46 18 == 0 && fld w 1 1 == 0 && ptePA w % 2 ^ (lvlBits (lvl - 1) + 3) == 0)

/-- What a walk finds: a leaf of a level, or the cause of a translation fault. -/
def walkAt (s : State) (x va : Nat) (table : Nat) : Nat → Except Nat (Nat × Word)
  | 0 => entry 0
  | lvl + 1 =>
    match entry (lvl + 1) with
    | .error c => .error c
    | .ok (l, w) => if pteLeaf w then .ok (l, w) else walkAt s x va (ptePA w) lvl
where
  /-- The entry of a table for the address, read as one 8-byte read (R416). -/
  entry (lvl : Nat) : Except Nat (Nat × Word) :=
    let a := table + 8 * bits va (lvlShift lvl) (lvlBits lvl)
    let w := word (leVal (s.readHome a 8 0))
    if !pteV w then .error 1
    else if !pteOk lvl w then .error 3
    else .ok (lvl, w)

/-- The physical address that a leaf gives. -/
def leafPA (lvl : Nat) (w : Word) (va : Nat) : Nat := ptePA w + va % 2 ^ lvlShift lvl

/-- Checks of a leaf against the context (R416): owner and owner tag, key, write permission. -/
def leafCheck (s : State) (x va : Nat) (write : Bool) (lvl : Nat) (w : Word) : Option Nat :=
  if write && !pteW w then some 2
  else if pteOwner w != x || mget s.owners (leafPA lvl w va / 65536) != some (pteOwner w) then some 4
  else if fld (s.ctx x).keys (pteKey w) 1 == 0 then some 5
  else none

/-- The root table and the handle table that a context's accesses use (R408, R412). -/
def State.root (s : State) (x : Nat) : Nat := (s.ctx x).ptbUse
def State.htab (s : State) (x : Nat) : Nat := (s.ctx x).htbUse
/-- A walk from the root (R416). -/
def walk (s : State) (x va : Nat) (write : Bool) : Except Nat (Nat × Word) :=
  match walkAt s x va (s.root x) 3 with
  | .error c => .error c
  | .ok (lvl, w) => match leafCheck s x va write lvl w with
    | some c => .error c
    | none => .ok (lvl, w)

/-- The pieces of a range of device virtual addresses, cut at 64 KiB boundaries. -/
def piecesN : Nat → Nat → Nat → List (Nat × Nat)
  | 0, _, _ => []
  | fuel + 1, a, n =>
    if n == 0 then []
    else let k := min n (65536 - a % 65536)
      (a, k) :: piecesN fuel (a + k) (n - k)
def pieces (a n : Nat) : List (Nat × Nat) := piecesN (n / 65536 + 2) a n

/-- A read on behalf of a context through the I/O die (guest, trap rings, queues): no translation unit is used. -/
def State.ctxRead (s : State) (x va n : Nat) : Option (List Byte) :=
  (pieces va n).foldl (fun acc p => acc.bind fun bs =>
    match walk s x p.1 false with
    | .ok (lvl, w) => some (bs ++ s.readHome (leafPA lvl w p.1) p.2 (pteKey w))
    | .error _ => none) (some [])

/-! ### Watchpoints, waiters and queues (R257, R259, R398) -/

/-- Append a packet to a command queue that has room; a full queue leaves the append held (R259). -/
def State.appendPacket (s : State) (x q : Nat) (pkt : List Word) : State :=
  let c := s.ctx x
  if (mgetD c.queues q []).length < 64 then
    s.modCtx x fun c => { c with queues := mset c.queues q (mgetD c.queues q [] ++ [pkt])
                                 counts := mset c.counts q (mgetD c.counts q 0 + 1) }
  else { s with heldAppends := s.heldAppends ++ [(x, q, pkt)] }

/-- Words from bytes. -/
def wordsOf : Nat → List Byte → List Word
  | 0, _ => []
  | n + 1, bs => word (leVal (bs.take 8)) :: wordsOf n (bs.drop 8)
/-- Bytes from words. -/
def bytesOf (ws : List Word) : List Byte := ws.flatMap fun w => leBytes 8 w.toNat

/-- A handle entry read from the tenant's table (R212). -/
def State.handleMem (s : State) (x i : Nat) : Option (List Word) :=
  (s.ctxRead x (s.htab x + 32 * i) 32).map (wordsOf 4)

/-- SPACE, BASE, SIZE of a handle entry. -/
def hSpace (e : List Word) : Nat := fld (e.getD 0 0) 52 4
def hBase (e : List Word) : Nat := fld (e.getD 0 0) 0 52
def hSize (e : List Word) : Nat := fld (e.getD 1 0) 0 52

/-- Device virtual address of a side reference (R207) to `n` bytes in hbm, as the I/O die resolves it. -/
def State.sideVA (s : State) (x : Nat) (r : Word) (n : Nat) : Option Nat :=
  match s.handleMem x (fld r 52 12) with
  | some e =>
    if hSpace e == 1 && fld (e.getD 3 0) 63 1 == 0 && fld r 0 52 + n ≤ hSize e then some (hBase e + fld r 0 52) else none
  | none => none

/-- Wake the MWAIT waiters that a write of [a, a + n) at an hbm home (`sp` none) or in a core's scratchpad satisfies; the
word is read again (R257). A poisoned word ends the wait with error 0x41. -/
def wakeWaiters (s : State) (sp : Option Nat) (a n : Nat) (rd : State → Nat → Nat → Nat) (bad : State → Nat → Nat → Bool) : State :=
  s.waiters.foldl (fun s w =>
    if w.sp == sp && w.addr < a + n && a < w.addr + w.size then
      let v := rd s w.addr w.size
      let poison := bad s w.addr w.size
      if poison || w.bound ≤ v then
        let s := { s with waiters := s.waiters.filter (· != w) }
        s.modSlot w.core w.slot fun x => { x with park := some { kind := .mwait, done := true, val := word v, flag := poison } }
      else s
    else s) s

/-- Fire the watchpoints that a write of [a, a + n) at an hbm home satisfies (R259, R380). -/
def fireWatches (s : State) (a n : Nat) : State :=
  s.watches.foldl (fun s w =>
    let first := 8 * cdiv w.addr 8
    if w.addr < a + n && a < w.addr + w.len
       && word (leVal (bgetN s.hbm first 8)) &&& w.mask == w.value &&& w.mask then
      let s := { s with watches := s.watches.filter (· != w) }
      match w.team with
      | some l => s.modLaunch l fun k => { k with readmit := k.readmit.or (some s.tick) }
      | none =>
        match (s.sideVA w.ctx w.packet 256).bind fun va => s.ctxRead w.ctx va 256 with
        | some bs => s.appendPacket w.ctx w.cq (wordsOf 32 bs)
        -- a packet that cannot be read is dropped with a record, as a guest's append is (R429): `execWatchAppend` writes it
        | none => { s with heldAppends := s.heldAppends ++ [(w.ctx, w.cq, [])] }
    else s) s

/-- The number that bytes at an hbm home hold, as their line is keyed. -/
def State.homeVal (s : State) (a n : Nat) : Nat := leVal (bgetN s.hbm a n)

/-- A write placed in the write order of its words (R237): the bytes, then the waiters and watchpoints. -/
def State.writeHome (s : State) (a : Nat) (bs : List Byte) (key : Nat) : State :=
  let s := s.putHome a bs key
  let s := wakeWaiters s none a bs.length (fun s a n => s.homeVal a n) (fun s a n => s.poisoned a n)
  fireWatches s a bs.length

/-- Mark words of hbm poisoned by an error there. -/
def State.addPoison (s : State) (ws : List Nat) : State :=
  { s with poison := ws.foldl ladd s.poison, poisonSrc := ws.foldl mdel s.poisonSrc }
/-- Mark words of hbm poisoned by data that carries a machine-check code (R425). -/
def State.addPoisonFrom (s : State) (code : Nat) (ws : List Nat) : State :=
  { s with poison := ws.foldl ladd s.poison, poisonSrc := ws.foldl (fun m w => mset m w code) s.poisonSrc }

/-- The stack of a physical address, once its page is placed. -/
def State.stackOf (s : State) (pa : Nat) : Option Nat :=
  (s.placed.find? fun r => r.1 ≤ pa / 65536 && pa / 65536 < r.2.1).map (·.2.2)
/-- A page of memory is placed whole when it is first written (R43): `die` none for the I/O die, `il` for interleaved handles. -/
def State.placePage (s : State) (die : Option Nat) (il : Bool) (lvl va pa : Nat) : State :=
  if (s.stackOf pa).isSome then s
  else
    let k := va / 2 ^ lvlShift lvl
    let stack := match die, il with
      | some d, false => 2 * d + k % 2
      | _, _ => k % 8
    let n := 2 ^ (lvlShift lvl - 16)
    let first := pa / 65536 / n * n
    { s with placed := s.placed ++ [(first, first + n, stack)] }

/-- A write on behalf of a context through the I/O die. -/
def State.ctxWrite (s : State) (x va : Nat) (bs : List Byte) : Option State :=
  let ps := pieces va bs.length
  if ps.all fun p => (walk s x p.1 true).toBool then
    some (ps.foldl (fun s p =>
      match walk s x p.1 true with
      | .ok (lvl, w) =>
        let pa := leafPA lvl w p.1
        (s.placePage none false lvl p.1 pa).writeHome pa ((bs.drop (p.1 - va)).take p.2) (pteKey w)
      | .error _ => s) s)
  else none

/-- A physical write by the supervisor's hardware (rings of P addresses) under key entry 0 (R420). -/
def State.physWrite (s : State) (a : Nat) (ws : List Word) : State := s.writeHome a (bytesOf ws) 0

/-! ### Records (R411, R412, R417, R425) -/

/-- TRAPWR and LOST of a context's ring. -/
def trapWr (w : Word) : Nat := fld w 0 48
def trapLost (w : Word) : Nat := fld w 48 16
/-- One record more is lost, saturating. -/
def lostMore (w : Word) : Word := word (trapWr w + min (trapLost w + 1) 0xFFFF * 2 ^ 48)
/-- One record more is written. -/
def wroteMore (w : Word) : Word := word ((trapWr w + 1) % 2 ^ 48 + trapLost w * 2 ^ 48)
/-- Does a context's ring exist, and has it room beside the records that wait to be written (R412)? -/
def State.ringBase (s : State) (x : Nat) : Nat := fld (s.ctx x).trapr 0 52
def State.ringRoom (s : State) (x : Nat) : Bool :=
  let c := s.ctx x
  (trapWr c.trapwr + c.trapQ.length + 2 ^ 48 - fld c.traprd 0 48) % 2 ^ 48 < 2 ^ fld c.trapr 56 4

/-- Is a translation fault record of this context, page and cause outstanding (R417)? -/
def State.xjoin (s : State) (x va cause : Nat) : Option Nat :=
  (s.xfaults.find? fun f => f.ctx == x && f.page == va / 2 ^ lvlShift f.lvl && f.cause == cause).map (·.ord)

/-- The oldest outstanding record bounds the ring's room (R417; DEDUCED, log 11). -/
def State.xroom (s : State) : Bool :=
  let written := (s.xfaults.filter fun f => !f.held).length
  written < 2 ^ fld s.fltr 56 4

/-- Write a fault record's four words at its place in the ring. -/
def State.xwrite (s : State) (f : XFault) (n : Nat) : State :=
  s.physWrite (fld s.fltr 0 52 + 32 * (n % 2 ^ fld s.fltr 56 4)) [f.w0, f.w1, f.w2, word n]

/-- The level of the page that an address lies in: of its leaf, and 64 KiB where the walk finds none (R414; DEDUCED, log 88). -/
def State.pageLvl (s : State) (x va : Nat) : Nat :=
  match walkAt s x va (s.root x) 3 with
  | .ok (lvl, _) => lvl
  | .error _ => 0

/-- Report a translation fault (R417): the record's ordinal, joined to an outstanding one where there is one. -/
def State.xreport (s : State) (die pcore x va cause : Nat) (write : Bool) : State × Nat :=
  match s.xjoin x va cause with
  | some n => (s, n)
  | none =>
    let held := !s.xroom
    let n := fld s.fltwr 0 48 + (s.xfaults.filter (·.held)).length
    let lvl := s.pageLvl x va
    let f : XFault :=
      { ord := n, ctx := x, lvl := lvl, page := va / 2 ^ lvlShift lvl, cause := cause, held := held
        w0 := word (va % 2 ^ 52 + x * 2 ^ 52 + cause * 2 ^ 56 + b2n write * 2 ^ 60)
        w1 := word (die * 2 ^ 8 + pcore % 256), w2 := s.cycle }
    let s := { s with xfaults := s.xfaults ++ [f] }
    if held then (s, n)
    else ({ s.xwrite f n with fltwr := word ((n + 1) % 2 ^ 48) }.send (.interrupt 0 0), n)

/-- PCORE of a fault record by an engine, or by the I/O die, which also gives die 0 (R417; DEDUCED, log 88). -/
def engineCore : Nat := 0xFF

/-- Does a physical address lie in a reassignment in progress (R421)? -/
def State.busyPage (s : State) (pa : Nat) : Bool :=
  match s.pzBusy with
  | none => false
  | some v => v.1 ≤ pa / 65536 && pa / 65536 < v.1 + fld v.2 0 32

/-- Does a range of a context's addresses lie, in part, in a reassignment in progress (R421)? -/
def State.ctxBusy (s : State) (x va n : Nat) : Bool := (pieces va n).any fun p =>
  match walkAt s x p.1 (s.root x) 3 with
  | .ok (lvl, w) => s.busyPage (leafPA lvl w p.1)
  | .error _ => false

/-- Count a trap record lost (R412). -/
def State.loseTrap (s : State) (x : Nat) : State := s.modCtx x fun c => { c with trapwr := lostMore c.trapwr }
/-- The address of the record that has the next ordinal. -/
def State.trapPlace (s : State) (x : Nat) : Nat :=
  s.ringBase x + 64 * (trapWr (s.ctx x).trapwr % 2 ^ fld (s.ctx x).trapr 56 4)
/-- Can the place of the next record be written now: the cause of a translation fault, if not, or none for a reassignment (R421)? -/
def State.trapHeld (s : State) (x : Nat) : Option (Option Nat) :=
  if s.ctxBusy x (s.trapPlace x) 64 then some none
  else match walk s x (s.trapPlace x) true with
    | .error cause => some (some cause)
    | .ok _ => none
/-- Write a record, words 0 to 6, at the place of the next ordinal, which advances; the interrupt follows (R412). -/
def State.putTrap (s : State) (x : Nat) (ws : List Word) : State :=
  match s.ctxWrite x (s.trapPlace x) (bytesOf (ws ++ [word (trapWr (s.ctx x).trapwr)])) with
  | none => s
  | some s =>
    let s := s.modCtx x fun c => { c with trapwr := wroteMore c.trapwr }
    let iid := fld (s.ctx x).ctl 8 6
    if iid == 0 then s else s.send (.interrupt x iid)
/-- Records whose place does not translate wait, as every faulting access does (R417, R418), and are written in order. -/
def State.drainTraps : Nat → State → Nat → State
  | 0, s, _ => s
  | fuel + 1, s, x =>
    match (s.ctx x).trapQ with
    | [] => s.modCtx x fun c => { c with trapX := none }
    | ws :: rest =>
      if s.ringBase x == 0 then drainTraps fuel ((s.loseTrap x).modCtx x fun c => { c with trapQ := rest }) x
      else
        match s.trapHeld x with
        | none => drainTraps fuel ((s.putTrap x ws).modCtx x fun c => { c with trapQ := rest }) x
        | some none => s.modCtx x fun c => { c with trapX := none }
        | some (some cause) =>
          let r := s.xreport 0 engineCore x (s.trapPlace x) cause true
          r.1.modCtx x fun c => { c with trapX := some r.2 }
/-- Write the records of a context that wait, as far as they can be (R418). -/
def State.settleTraps (s : State) (x : Nat) : State := drainTraps ((s.ctx x).trapQ.length + 1) s x
/-- May SYSC go on: there is no ring (R413), or one with room whose earlier records are written and whose pages are not reassigned? -/
def State.sysGoes (s : State) (x : Nat) : Bool :=
  s.ringBase x == 0 || (s.ringRoom x && (s.ctx x).trapQ.isEmpty && s.trapHeld x != some none)
/-- Write a trap record, words 0 to 5, or count it lost (R412). -/
def State.trapRecord (s : State) (x : Nat) (ws : List Word) : State :=
  if s.ringBase x == 0 || !s.ringRoom x then s.loseTrap x
  else
    let first := (s.ctx x).trapQ.isEmpty
    let s := s.modCtx x fun c => { c with trapQ := c.trapQ ++ [ws ++ [s.cycle]] }
    if first then s.settleTraps x else s

/-- Word 0 of a trap record (R411). -/
def recWord0 (code cls cq lpg elem slot agt share pcore pset : Nat) : Word :=
  word (code % 256 + cls * 2 ^ 8 + cq * 2 ^ 12 + lpg * 2 ^ 16 + elem * 2 ^ 20 + slot * 2 ^ 26 + agt * 2 ^ 30 + share * 2 ^ 32
    + pcore * 2 ^ 34 + pset * 2 ^ 56)

/-- A CLASS 6 record: an append was dropped (R411, R429). -/
def State.dropRecord (s : State) (x q reason : Nat) (w0 w7 : Word) : State :=
  s.trapRecord x [recWord0 reason 6 q 0 0 0 3 0 0 0, 0, w0, w7, word reason, 0]

/-- Word 0 of a record about an agent of a core. -/
def State.coreWord0 (s : State) (c code cls elem slot agt : Nat) : Word :=
  let o := s.own c
  recWord0 code cls (s.launch o.launch).cq o.lpg elem slot agt o.share c o.pset

/-- A record about an agent of a core, with words 2 to 5. -/
def State.coreRecord (s : State) (c code cls elem slot agt : Nat) (w2 w3 w4 w5 : Word) : State :=
  s.trapRecord (s.ctxOf c)
    [s.coreWord0 c code cls elem slot agt, word (s.launch (s.own c).launch).team, w2, w3, w4, w5]

/-- A machine-check record (R425): code, context, physical address if known. -/
def State.machineCheck (s : State) (code x : Nat) (pa : Option Nat) : State :=
  let n := trapWr s.mcwr
  -- MCR has no read ordinal of its own: the ring is full only when it has no room for a first record (DEDUCED, log 12)
  if fld s.mcr 0 52 == 0 then { s with mcwr := lostMore s.mcwr }
  else
    let s := s.physWrite (fld s.mcr 0 52 + 32 * (n % 2 ^ fld s.mcr 56 4))
      [word (code % 2 ^ 16 + x * 2 ^ 16 + b2n pa.isSome * 2 ^ 20), word (pa.getD 0), s.cycle, word n]
    { s with mcwr := wroteMore s.mcwr }.send (.interrupt 0 0)

/-- Machine-check code of HBM (SRC 1): the stack that holds the word (R43, R425). -/
def State.hbmCheck (s : State) (a : Nat) : Nat := 1 * 2 ^ 12 + (s.stackOf a).getD 0
/-- The code that a poisoned word of hbm carries: of the place where the error struck (R425). -/
def State.poisonCode (s : State) (w : Nat) : Nat := mgetD s.poisonSrc w (s.hbmCheck (8 * w))

/-! ### Teams stop; firings end (R72, R135, R220, R362, R363, R374) -/

/-- A team is stopped with a status and code; the first fault decides (R399, R402). -/
def State.stopTeam (s : State) (l status code : Nat) : State :=
  s.modLaunch l fun k => { k with failed := k.failed.or (some (status, code)) }

/-- Is a launch stopped by a pre-emption (R403)? -/
def Launch.stopped (k : Launch) : Bool := k.phase == .stopping || k.phase == .halted

/-- Binding entry `n` of the actor port (R355, R356): entries 0–7 inputs, 8–15 outputs. -/
def Elem.binding (e : Elem) (n : Nat) : Nat := bits (e.fld (4 + n / 3)) (16 * (n % 3)) 16
def bindV (b : Nat) : Bool := bits b 15 1 == 1
def bindSlot (b : Nat) : Nat := bits b 11 4
def bindPort (b : Nat) : Nat := bits b 8 3
def bindRate (b : Nat) : Nat := bits b 0 5 + 1
/-- The input channels bound to a slot, and the output channels. -/
def Elem.inChans (e : Elem) (k : Nat) : List Nat := (upTo 8).filter fun n => bindV (e.binding n) && bindSlot (e.binding n) == k
def Elem.outChans (e : Elem) (k : Nat) : List Nat :=
  (upTo 8).filter fun n => bindV (e.binding (8 + n)) && bindSlot (e.binding (8 + n)) == k
/-- The channel bound to a slot's port. -/
def Elem.inChan (e : Elem) (k port : Nat) : Option Nat := (e.inChans k).find? fun n => bindPort (e.binding n) == port
def Elem.outChan (e : Elem) (k port : Nat) : Option Nat := (e.outChans k).find? fun n => bindPort (e.binding (8 + n)) == port
/-- The class of a slot, field 9 [17 + 2s : 16 + 2s] (R355). -/
def Elem.cls (e : Elem) (k : Nat) : Nat := bits (e.fld 9) (16 + 2 * k) 2

/-- Drop a channel's tokens up to and including its eos; was the eos there (R362)? -/
def dropToEos : List Slotted → List Slotted × Bool
  | [] => ([], false)
  | t :: ts => if t.tok.kind == .eos then (ts, true) else dropToEos ts

/-- Drop what a port holds up to and including its eos: heads, then a segment that closes, the open segment, the landing register (R174). -/
def Port.toEos (p : Port) : Port × Bool :=
  let q := dropToEos p.q
  if q.2 then ({ p with q := q.1, res := none }, true)
  else if p.closing.any fun c => c.2.any (·.tok.kind == .eos) then ({ p with q := [], res := none, closing := [] }, true)
  else ({ p with q := [], res := none, closing := [], seg := [], segN := 0, landing := none, lane := [], evict := none }
        , p.landing.any (·.tok.kind == .eos))

/-- A slot becomes finished (R362): its inputs are emptied up to their eos, and eos is due on its outputs. -/
def State.finishSlot (s : State) (c n : Nat) : State :=
  let e := s.elem c 60
  let ins := e.inChans n
  let left := ins.filter fun i => !(mgetD e.chans i {}).toEos.2
  let s := s.modElem c 60 fun e =>
    { e with chans := ins.foldl (fun m i =>
        let p := (mgetD m i {}).toEos
        mset m i { p.1 with ended := p.1.ended || (e.armed && p.2) }) e.chans }
  s.modCore c fun k =>
    let x := k.slot n
    { k with running := if k.running == some n then none else k.running }.setSlot n
      { x with status := .finished, park := none, under := none, cand := false, passed := 0, drop := left, eosDue := e.outChans n }

/-- What a firing that ends leaves behind: stores that it has issued are still performed (R220). -/
def Slot.leaves (x : Slot) : List Pend := x.pend.filter fun p => match p with | .store .. => true | _ => false
/-- An instruction that waits in a Belfry's queue or is in progress there goes with its firing (R349, R351). -/
def State.leaveBelfry (s : State) (c n : Nat) : State :=
  { s with belfry := s.belfry.map fun (d : Nat × List BelfryOp) => (d.1, d.2.filter fun o => !(o.core == c && o.slot == n)) }
/-- A slot whose firing has ended (R374). -/
def Core.endSlot (k : Core) (n : Nat) : Core :=
  let x := k.slot n
  { k with running := if k.running == some n then none else k.running }.setSlot n
    { x with status := .idle, park := none, under := none, cand := false, passed := 0, pend := x.leaves }
/-- A firing ends and its slot returns to idle (R374). -/
def State.endFiring (s : State) (c n : Nat) : State := (s.leaveBelfry c n).modCore c fun k => k.endSlot n
/-- After a trap the slot is finished (R363) as it stands: the token that a trap names stays at its channel (R365), and since the
team is stopped no eos is sent. -/
def State.haltSlot (s : State) (c n : Nat) : State :=
  (s.leaveBelfry c n).modCore c fun k =>
    let x := k.slot n
    { k with running := if k.running == some n then none else k.running }.setSlot n
      { x with status := .finished, park := none, under := none, cand := false, passed := 0, pend := x.leaves }

/-- The word at a slot's program counter. -/
def State.fetchWord (s : State) (c n : Nat) : Word :=
  (s.launch (s.own c).launch).img.code.getD ((s.slot c n).pc / 8) 0

/-- TAKING A PRECISE TRAP (R72, R363, R411): the record of CLASS 1 holds the code, the instruction word and its offset from
the actor's entry; the firing ends, its slot is finished, and the team is stopped. Nothing else of the instruction happens. -/
def State.takeTrap (s : State) (c n code : Nat) (w4 w5 : Word) : State :=
  let x := s.slot c n
  let s := s.coreRecord c code 1 0 n 1 (s.fetchWord c n) (word (x.pc - x.entry)) w4 w5
  (s.haltSlot c n).stopTeam (s.own c).launch 6 code

/-- An element fault (R135, R411): the record of CLASS 2; the team is stopped and the firing does not take place. -/
def State.elemFault (s : State) (c p code : Nat) (slot : Nat) (hdr : Word) (op pos port hnd : Nat) (w5 : Word) : State :=
  let s := s.coreRecord c code 2 p slot 0 (word (hdr.toNat % 2 ^ 48 + op % 256 * 2 ^ 48)) (word pos)
    (word (port % 4 + hnd % 4096 * 16)) w5
  s.stopTeam (s.own c).launch 6 code

/-- Word 2 of a CLASS 3 record. -/
def asyncWord2 (hnd fmt geo cause : Nat) : Word := word (hnd % 4096 + fmt * 2 ^ 12 + geo * 2 ^ 16 + cause * 2 ^ 20)

/-- An asynchronous error at an actor (R220): the record of CLASS 3, and the firing ends. -/
def State.asyncActor (s : State) (c n code hnd fmt geo cause : Nat) (ofs : Word) : State :=
  let s := s.coreRecord c code 3 0 n 1 (asyncWord2 hnd fmt geo cause) ofs (s.fetchWord c n) 0
  s.endFiring c n

/-- An asynchronous error at an element (R220): the record of CLASS 3, and the team is stopped. -/
def State.asyncElem (s : State) (c p code hnd fmt geo cause : Nat) (ofs : Word) : State :=
  let s := s.coreRecord c code 3 p 0 0 (asyncWord2 hnd fmt geo cause) ofs 0 0
  s.stopTeam (s.own c).launch 6 code

/-- Is a firing still in progress? -/
def Slot.inFiring (x : Slot) (serial : Nat) : Bool := x.serial == serial && (x.status == .firing || x.status == .parked)
/-- An asynchronous error found later about work that a firing issued (R220, R329), with the page's format and geometry: the firing
ends if it is still in progress. -/
def State.asyncLate (s : State) (src : Source) (code hnd : Nat) (pg : Nat × Nat) (cause : Nat) (ofs w4 : Word) : State :=
  match src with
  | .actor c n serial =>
    let s := s.coreRecord c code 3 0 n 1 (asyncWord2 hnd pg.1 pg.2 cause) ofs w4 0
    if (s.slot c n).inFiring serial then s.endFiring c n else s
  | .elem c p => s.asyncElem c p code hnd pg.1 pg.2 cause ofs
  | .engine c => s.coreRecord c code 3 0 0 2 (asyncWord2 hnd pg.1 pg.2 cause) ofs w4 0

/-! ### Ways an operation stops short -/

/-- What keeps an instruction or a firing from completing. Nothing of it has then taken effect. -/
inductive Stop where
  /-- a precise trap with words 4 and 5 of its record -/
  | trap (code : Nat) (w4 w5 : Word)
  /-- an element fault: code, port, handle, word 5, head header, stream position -/
  | fault (code port hnd : Nat) (w5 hdr : Word) (pos : Nat)
  /-- an asynchronous error: code, handle, format, geometry, reach cause, byte offset, machine check if any -/
  | async (code hnd fmt geo cause : Nat) (ofs : Word) (mc : Option (Nat × Option Nat))
  /-- a translation fault: context, address, cause, write; handle index and byte offset of the access (R220) -/
  | xfault (ctx va cause : Nat) (write : Bool) (at_ : Nat × Nat)
  /-- a wait: the firing parks, or the element stalls -/
  | wait (p : Park)
  deriving DecidableEq, Repr, Inhabited

/-- An operation that reads and changes the state, or stops short. -/
abbrev M (α : Type) := StateT State (Except Stop) α

/-- Stop short. -/
def stop {α : Type} (x : Stop) : M α := fun _ => .error x
/-- Trap with the fields that do not apply zero. -/
def trap {α : Type} (code : Nat) : M α := stop (.trap code 0 0)
/-- Trap about a handle and byte offset (R411). -/
def trapAt {α : Type} (code hnd ofs : Nat) : M α := stop (.trap code (word hnd) (word ofs))
/-- Park for a kind of event; the instruction is made again when the firing resumes. -/
def parkFor {α : Type} (k : ParkKind) : M α := stop (.wait { kind := k })
/-- The handle index and byte offset that a translation fault is about, where an inner access has not named them. -/
def about {α : Type} (hnd ofs : Nat) (m : M α) : M α := fun s =>
  match m s with
  | .error (.xfault x va cause write (0, 0)) => .error (.xfault x va cause write (hnd, ofs))
  | r => r
/-- Go on in a state. -/
def setState (s : State) : M Unit := fun _ => .ok ((), s)
def guard (b : Bool) (x : Stop) : M Unit := if b then pure () else stop x

/-- Run an actor instruction that may stop short. What stops it short leaves the state as it was but for the trap, error or
wait itself. -/
def State.runActor (s : State) (c n : Nat) (m : M Unit) : Out :=
  match m s with
  | .ok (_, s') => .next s'
  | .error (.trap code w4 w5) => .next (s.takeTrap c n code w4 w5)
  | .error (.fault code port hnd w5 hdr pos) =>
    .next ((s.haltSlot c n).elemFault c 60 code n hdr n pos port hnd w5)
  | .error (.async code hnd fmt geo cause ofs mc) =>
    let s := match mc with
      | some (k, pa) => s.machineCheck k (s.ctxOf c) pa
      | none => s
    .next (s.asyncActor c n code hnd fmt geo cause ofs)
  | .error (.xfault x va cause write at_) =>
    let (s, o) := s.xreport (dieOf c) c x va cause write
    .next (hold s c n { kind := .translation, on := o, at_ := at_ })
  | .error (.wait p) => .next (hold s c n p)
where
  /-- The firing parks (R361) and frees the sequencer. -/
  park (s : State) (c n : Nat) (p : Park) : State :=
    s.modCore c fun k =>
      { k with running := if k.running == some n then none else k.running }.setSlot n
        { k.slot n with status := .parked, park := some p, under := none, cand := false, passed := 0 }
  /-- The firing parks because an access must wait; what the instruction had been given stays known. -/
  hold (s : State) (c n : Nat) (p : Park) : State :=
    let x := s.slot c n
    let given := match x.park with
      | some q => if q.kind.progress then some q else x.under
      | none => none
    (park s c n p).modSlot c n fun x => { x with under := given }

/-- Run an element's firing that may stop short. A wait leaves everything as it was. -/
def State.runElem (s : State) (c p : Nat) (m : M Unit) : State :=
  match m s with
  | .ok (_, s') => s'
  | .error (.trap code _ w5) => s.elemFault c p code 0 0 (s.elem c p).op 0 0 0 w5
  | .error (.fault code port hnd w5 hdr pos) => s.elemFault c p code 0 hdr (s.elem c p).op pos port hnd w5
  | .error (.async code hnd fmt geo cause ofs mc) =>
    let s := match mc with
      | some (k, pa) => s.machineCheck k (s.ctxOf c) pa
      | none => s
    s.asyncElem c p code hnd fmt geo cause ofs
  | .error (.xfault x va cause write at_) =>
    let (s, o) := s.xreport (dieOf c) c x va cause write
    s.modElem c p fun e => { e with xwait := some o, xat := at_ }
  | .error (.wait _) => s

end Sys2Proof.Machine
end

