-- ==== Sys2Proof/Machine/Access.lean ====
section
/-!
DEFINITION. Memory as the agents of a core reach it: handles and their caches (R207, R208, R212, R213, R231), translation
units (R414, R416 to R419, R421), the L1 and its policies (R214, R236, R237, R247), scratchpads (R221 to R223, R228),
windows (R264 to R266), scopes (R246 to R254), and elements of pages (R113 to R115, R215, R226).
-/
namespace Sys2Proof.Machine

/-! ### Who fails how (R219, R227, R264, R266, R267) -/

/-- Whose use of a handle it is, and so which stop a bad one takes. -/
inductive Who where
  | actor
  | elem
  /-- an operand whose every defect takes one stop -/
  | fixed (x : Stop)
  /-- a place of an expert table entry (R337): a bad reference is trap code 0x48 to the Belfry, and error 0x48 to software -/
  | route
  deriving DecidableEq, Repr

/-- An element fault about a handle and byte offset. -/
def hFault (code hnd ofs : Nat) : Stop := .fault code 0 hnd (word ofs) 0 0
def Who.handle (w : Who) (h o : Nat) : Stop :=
  match w with
  | .actor => .trap 0x10 (word h) (word o)
  | .elem => hFault 0x39 h o
  | .fixed x => x
  | .route => .trap 0x48 0 0
def Who.bounds (w : Who) (h o : Nat) : Stop :=
  match w with
  | .actor => .trap 0x11 (word h) (word o)
  | .elem => hFault 0x38 h o
  | .fixed x => x
  | .route => .trap 0x48 0 0
def Who.format (w : Who) (h o : Nat) : Stop :=
  match w with
  | .actor | .route => .trap 0x13 (word h) (word o)
  | .elem => hFault 0x3A h o
  | .fixed x => x
def Who.readOnly (w : Who) (h o : Nat) : Stop :=
  match w with
  | .actor | .route => .trap 0x1F (word h) (word o)
  | .elem => hFault 0x39 h o
  | .fixed x => x
/-- An asynchronous error about a handle (R220). -/
def asyncErr (code h fmt geo o : Nat) (mc : Option (Nat × Option Nat)) : Stop := .async code h fmt geo 0 (word o) mc

/-- Record poison met by a read (R226). -/
def noteCheck (c : Nat) (mc : Option (Nat × Option Nat)) : M Unit := modify fun s => match mc with
  | some k => s.machineCheck k.1 (s.ctxOf c) k.2
  | none => s

/-! ### Handles (R212, R213, R231) -/

def hIL (e : List Word) : Bool := fld (e.getD 0 0) 58 1 == 1
def hPol (e : List Word) : Nat := fld (e.getD 0 0) 56 2
def hEFV (e : List Word) : Bool := fld (e.getD 1 0) 56 1 == 1
def hEFMT (e : List Word) : Nat := fld (e.getD 1 0) 52 4
def hLayout (e : List Word) : Nat := fld (e.getD 2 0) 0 52
def hLocal (e : List Word) : Bool := fld (e.getD 3 0) 4 1 == 1
def hLpg (e : List Word) : Nat := fld (e.getD 3 0) 0 4
def hBusy (e : List Word) : Bool := fld (e.getD 3 0) 63 1 == 1

/-- Pages of the page set that a core's page belongs to. -/
def State.pageCount (s : State) (c : Nat) : Nat :=
  ((s.launch (s.own c).launch).img.psets[(s.own c).pset]?.map (·.pages)).getD 0

/-- Is an entry valid for an agent of a core (R213)? -/
def State.handleOk (s : State) (c : Nat) (e : List Word) : Bool :=
  let sp := hSpace e == 2
  let w0 := e.getD 0 0
  let w1 := e.getD 1 0
  let w2 := e.getD 2 0
  let w3 := e.getD 3 0
  1 ≤ hSpace e && hSpace e ≤ 5 && fld w0 59 5 == 0 && fld w1 57 7 == 0 && fld w2 52 12 == 0 && fld w3 5 58 == 0
    && fld w2 0 3 == 0 && (!hEFV e || hEFMT e ≤ 11) && (hSpace e < 3 || hPol e == 3) && (!hIL e || hSpace e == 1)
    && (sp || (!hLocal e && hLpg e == 0)) && (!sp || ((hLocal e || hLpg e < s.pageCount c) && !hEFV e))

/-- Enter a version in a handle cache of 64 entries, the oldest leaving first. -/
def State.cacheHandle (s : State) (c x i : Nat) (e : List Word) : State :=
  s.modCore c fun k =>
    { k with handles := (if k.handles.length < 64 then k.handles else k.handles.drop 1)
                ++ [{ ctx := x, idx := i, w0 := e.getD 0 0, w1 := e.getD 1 0, w2 := e.getD 2 0, w3 := e.getD 3 0 }] }

/-- The version of a handle entry that an agent of a core uses (R231): the cached one, or one read from the table; a miss
that finds BUSY set waits. -/
def handle (w : Who) (c i o : Nat) : M (List Word) := do
  let s ← get
  let x := s.ctxOf c
  match (s.core c).handles.find? fun v => v.ctx == x && v.idx == i with
  | some v =>
    let e := [v.w0, v.w1, v.w2, v.w3]
    if s.handleOk c e then pure e else stop (w.handle i o)
  | none =>
    if s.ctxBusy x (s.htab x + 32 * i) 32 then parkFor .busy
    else match s.handleMem x i with
    | none => stop (w.handle i o)
    | some e =>
      if hBusy e then stop (.wait { kind := .busy, on := i + 1 })
      else if s.handleOk c e then do set (s.cacheHandle c x i e); pure e
      else stop (w.handle i o)

/-! ### Translation (R414, R416, R419, R421) -/

def State.addTlb (s : State) (t : Xlat) : State := { s with tlb := s.tlb ++ [t] }

/-- The translation of an address that a die's translation unit holds. -/
def State.tlbHit (s : State) (d x va : Nat) : Option Xlat :=
  s.tlb.find? fun t => t.die == d && t.ctx == x && va / 2 ^ lvlShift t.lvl == t.base
/-- Translate for an agent or engine of a core: the die's translation unit, else a walk. The leaf's level, entry and the
physical address. Every 64 KiB page that a leaf maps has its own owner tag, which each access meets (R416, R421). -/
def xlate (c x va : Nat) (write : Bool) : M (Nat × Word × Nat) := do
  let s ← get
  let d := dieOf c
  let r ← match s.tlbHit d x va with
    | some t =>
      if write && !pteW t.pte then stop (.xfault x va 2 write (0, 0))
      else if mget s.owners (leafPA t.lvl t.pte va / 65536) != some (pteOwner t.pte) && !s.busyPage (leafPA t.lvl t.pte va) then
        stop (.xfault x va 4 write (0, 0))
      else pure (t.lvl, t.pte)
    | none =>
      match walk s x va write with
      | .error k => stop (.xfault x va k write (0, 0))
      | .ok (lvl, p) => do
        set (s.addTlb { die := d, ctx := x, lvl := lvl, base := va / 2 ^ lvlShift lvl, pte := p })
        pure (lvl, p)
  let pa := leafPA r.1 r.2 va
  if s.busyPage pa then parkFor .busy else pure (r.1, r.2, pa)

/-! ### The L1 (R17, R214, R230, R236, R237) -/

/-- The core whose L1 holds a line for a core: its own, or the slice of a fused quad. -/
def State.l1Core (s : State) (c line : Nat) : Nat := if (s.core c).fused then 4 * (c / 4) + line % 4 else c
/-- The cores whose L1s an agent of a core uses. -/
def State.l1Cores (s : State) (c : Nat) : List Nat := if (s.core c).fused then (upTo 4).map (4 * (c / 4) + ·) else [c]
def State.l1Line (s : State) (k line : Nat) : Option L1Line := mget (s.core k).l1 line
def State.setL1 (s : State) (k line : Nat) (x : L1Line) : State :=
  s.modCore k fun q => { q with l1 := mset q.l1 line x }
def State.dropL1 (s : State) (k line : Nat) : State := s.modCore k fun q => { q with l1 := mdel q.l1 line }

/-- Runs of consecutive members of a rising list: start and length. -/
def runsOf : List Nat → List (Nat × Nat)
  | [] => []
  | a :: r =>
    match runsOf r with
    | [] => [(a, 1)]
    | (b, n) :: t => if a + 1 == b then (a, n + 1) :: t else (a, 1) :: (b, n) :: t

/-- Write back the dirty bytes of a line, and only those (R237). -/
def State.writeBack (s : State) (k line : Nat) : State :=
  match s.l1Line k line with
  | none => s
  | some l =>
    if l.dirty.isEmpty then s
    else
      let s := s.setL1 k line { l with dirty := [] }
      let s := (runsOf ((upTo 64).filter l.dirty.contains)).foldl
        (fun s r => s.writeHome (64 * line + r.1) ((l.bytes.drop r.1).take r.2) l.key) s
      -- a word that an error struck in the L1 stays poisoned at its home (R424)
      (l.poison.filter fun w => l.dirty.any fun b => b / 8 == w.1).foldl (fun s w => s.addPoisonFrom w.2 [8 * line + w.1]) s
/-- Write back a line and invalidate it. -/
def State.evictLine (s : State) (k line : Nat) : State := (s.writeBack k line).dropL1 k line
/-- The poisoned words of a line at its home, 0–7, with their machine-check codes. -/
def State.linePoison (s : State) (line : Nat) : AMap Nat :=
  ((upTo 8).filter fun i => s.poisoned (64 * line + 8 * i) 8).map fun i => (i, s.poisonCode (8 * line + i))
/-- The lines that an L1 holds: the SRAM's ways that are not the scratchpad's, 32 KiB each (R16). -/
def Core.l1Lines (k : Core) : Nat := (24 - k.nsp) * 512
/-- A full L1 gives a line up (R16; DESIGN CHOICE, log 71). -/
def State.roomL1 (s : State) (k : Nat) : State :=
  let l := (s.core k).l1
  if l.length < (s.core k).l1Lines then s
  else match l[Config.freeVictim s.tick % l.length]? with
    | some v => s.evictLine k v.1
    | none => s
/-- Allocate a line and fill it. -/
def State.fillL1 (s : State) (k line key : Nat) : State :=
  if (s.l1Line k line).isSome then s
  else
    let s := s.roomL1 k
    s.setL1 k line { key := key, bytes := s.readHome (64 * line) 64 key, poison := s.linePoison line }
/-- Prepare the L1 for an access of a policy: uc leaves no line, l2 no dirty bytes, wb and strm a filled line. -/
def State.l1Ready (s : State) (c line key pol : Nat) : State :=
  let k := s.l1Core c line
  if pol == 3 then s.evictLine k line
  else if pol == 1 then s.writeBack k line
  else s.fillL1 k line key

/-- Pieces of a range of physical addresses, cut at lines: address and length. -/
def linePieces (a n : Nat) : List (Nat × Nat) :=
  (linesOf a n).map fun l => (max a (64 * l), min (a + n) (64 * l + 64) - max a (64 * l))

/-- The code of a poisoned word that bytes at an hbm home touch, with the word's address (R425). -/
def State.memPoison (s : State) (a n : Nat) : Option (Nat × Option Nat) :=
  (s.poisonedWord a n).map fun w => (s.poisonCode w, some (8 * w))
/-- The same of a line in an L1. -/
def L1Line.met (l : L1Line) (a n : Nat) : Option (Nat × Option Nat) :=
  (l.poison.find? fun w => a % 64 < 8 * w.1 + 8 && 8 * w.1 < a % 64 + n).map fun w => (w.2, some (a / 64 * 64 + 8 * w.1))
/-- Read bytes of one line as a core's agent: the state, the bytes, and the machine check of a poisoned word. -/
def State.lineRead (s : State) (c key pol a n : Nat) : State × List Byte × Option (Nat × Option Nat) :=
  let line := a / 64
  let s := s.l1Ready c line key pol
  let k := s.l1Core c line
  match s.l1Line k line with
  | some l =>
    if pol == 1 then
      -- an l2 access reads the L2 and leaves the line updated in place
      let l := { l with bytes := s.readHome (64 * line) 64 key, poison := s.linePoison line }
      (s.setL1 k line l, (l.bytes.drop (a % 64)).take n, l.met a n)
    else (s, (l.bytes.drop (a % 64)).take n, l.met a n)
  | none => (s, s.readHome a n key, s.memPoison a n)

/-- Overwrite part of a list from an index. -/
def patch (l : List Byte) (i : Nat) (bs : List Byte) : List Byte := l.take i ++ bs ++ l.drop (i + bs.length)

/-- Write bytes of one line as a core's agent. -/
def State.lineWrite (s : State) (c key pol a : Nat) (bs : List Byte) : State :=
  let line := a / 64
  let s := s.l1Ready c line key pol
  let k := s.l1Core c line
  let upd (l : L1Line) : L1Line :=
    { l with bytes := patch l.bytes (a % 64) bs
             poison := l.poison.filter fun w => !(wordsWithin (a % 64) bs.length).contains w.1 }
  let s := match s.l1Line k line with
    | some l =>
      s.setL1 k line (if pol == 1 then upd l
        else { upd l with dirty := (upTo bs.length).foldl (fun d i => ladd d (a % 64 + i)) l.dirty })
    | none => s
  if pol == 1 || pol == 3 then s.writeHome a bs key else s

/-- Read physical bytes through a core's L1 controller: bytes and the machine check of poison met. -/
def physRead (c key pol a n : Nat) : M (List Byte × Option (Nat × Option Nat)) := fun s =>
  .ok ((linePieces a n).foldl (fun (acc : (List Byte × Option (Nat × Option Nat)) × State) p =>
    let r := acc.2.lineRead c key pol p.1 p.2
    ((acc.1.1 ++ r.2.1, acc.1.2.or r.2.2), r.1)) (([], none), s))
/-- Write physical bytes through a core's L1 controller. -/
def physStore (c key pol a : Nat) (bs : List Byte) : M Unit := modify fun s =>
  (linePieces a bs.length).foldl (fun s p => s.lineWrite c key pol p.1 ((bs.drop (p.1 - a)).take p.2)) s

/-- The policy in force at a page: C clear makes every access uc (R415). -/
def polAt (pol : Nat) (pte : Word) : Nat := if pteC pte then pol else 3

/-- The bytes of device virtual memory that an access of a firing still waits for (R418). -/
def Pend.range : Pend → Option (Nat × Nat)
  | .load _ e o _ | .store _ e o _ _ => some (hBase e + o, 8)
  | .matrix _ => none
/-- An access of a firing to bytes that an earlier one of it still waits for keeps behind it: one agent's accesses to one address
are performed in program order (R234, R418). -/
def inOrder (va n : Nat) : M Unit := do
  let s ← get
  match s.cur with
  | .actor c k =>
    guard (!(s.slot c k).pend.any fun p => match p.range with | some r => va < r.1 + r.2 && r.1 < va + n | none => false)
      (.wait { kind := .order })
  | _ => pure ()

/-- Read bytes of device virtual memory as an agent of a core: bytes, and the machine check of poison met. -/
def memRead (c x va n pol : Nat) : M (List Byte × Option (Nat × Option Nat)) := do
  inOrder va n
  (pieces va n).foldlM (fun acc p => do
    let t ← xlate c x p.1 false
    let r ← physRead c (pteKey t.2.1) (polAt pol t.2.1) t.2.2 p.2
    pure (acc.1 ++ r.1, acc.2.or r.2)) ([], none)
/-- Write bytes of device virtual memory as an agent of a core; the first write of a page places it (R43). -/
def memWrite (c x va pol : Nat) (il : Bool) (bs : List Byte) : M Unit := do
  inOrder va bs.length
  (pieces va bs.length).forM fun p => do
    let t ← xlate c x p.1 true
    modify fun s => s.placePage (some (dieOf c)) il t.1 p.1 t.2.2
    physStore c (pteKey t.2.1) (polAt pol t.2.1) t.2.2 ((bs.drop (p.1 - va)).take p.2)

/-! ### Scratchpads (R221 to R223, R228) -/

/-- Is a deferred-read list rooted in a word? -/
def Core.waiting (k : Core) (w : Nat) : Bool := k.lists.any (·.word == w)
/-- Read scratchpad bytes as a plain read does: a word that holds a list root reads 0. -/
def State.spRead (s : State) (k off n : Nat) : List Byte :=
  (upTo n).map fun i => if (s.core k).waiting ((off + i) / 8) then 0 else bget (s.core k).sp (off + i)
def State.spPoisoned (s : State) (k off n : Nat) : Bool :=
  (wordsTouched off n).any fun w => (s.core k).spPoison.contains w
/-- A machine-check code of a scratchpad or an L1 (R425). -/
def spCode (k : Nat) : Nat := 3 * 2 ^ 12 + k
/-- The machine check of a poisoned word that scratchpad bytes touch (R425). -/
def State.spPoison (s : State) (k off n : Nat) : Option (Nat × Option Nat) :=
  ((wordsTouched off n).find? (s.core k).spPoison.contains).map fun w => (mgetD (s.core k).spSrc w (spCode k), none)
/-- Mark scratchpad words poisoned by data that carries a machine-check code. -/
def State.addSpPoison (s : State) (k code : Nat) (ws : List Nat) : State := s.modCore k fun q =>
  { q with spPoison := ws.foldl ladd q.spPoison, spSrc := ws.foldl (fun m w => mset m w code) q.spSrc }
/-- Store bytes and clear the poison of words written whole, with the waiters of R257. -/
def State.spPut (s : State) (k off : Nat) (bs : List Byte) : State :=
  let s := s.modCore k fun q =>
    { q with sp := bsetN q.sp off bs, spPoison := q.spPoison.filter fun w => !(wordsWithin off bs.length).contains w
             spSrc := q.spSrc.filter fun w => !(wordsWithin off bs.length).contains w.1 }
  wakeWaiters s (some k) off bs.length (fun s a n => leVal (s.spRead k a n)) (fun s a n => s.spPoisoned k a n)

/-- Hand a value, with the machine-check code of poison, to the party that a pool record names (R221). -/
def State.deliver (s : State) (ct : Option Cont) (v : Word) (bad : Option Nat) : State :=
  match ct with
  | none | some (.append _ _) => s
  | some (.actor c n) =>
    s.modSlot c n fun x =>
      { x with park := some { kind := .fullEmpty, done := true, val := v, flag := bad.isSome, on := bad.getD 0 } }
  | some (.elem c p) => s.modElem c p fun e => { e with got := some (leBytes 8 v.toNat, bad), due := false }
  | some (.copy c q) =>
    s.modCore c fun q' => { q' with queues := mset q'.queues q (match mgetD q'.queues q [] with
      | [] => []
      | r :: rs => { r with got := some (leBytes 8 v.toNat, bad), due := false } :: rs) }

/-- fill(W, v): the value goes to the records of the list, oldest first, until one takes it; later ones stay rooted (R221). A
value that is poisoned reaches them as poison (R289). -/
def feFill (s : State) (k w : Nat) (v : Word) (bad : Option Nat) : State :=
  let recs := (s.core k).lists.filter (·.word == w)
  let n := ((recs.findIdx? (·.take)).map (· + 1)).getD recs.length
  let taken := (recs.take n).any (·.take)
  let s := s.modCore k fun q =>
    { q with full := if taken then ldel q.full w else ladd q.full w
             lists := q.lists.filter (·.word != w) ++ recs.drop n }
  let s := (recs.take n).foldl (fun s r => s.deliver r.cont v bad) s
  let s := s.spPut k (8 * w) (leBytes 8 v.toNat)
  match bad with
  | some code => s.addSpPoison k code [w]
  | none => s

/-- Has the pool of a core a free record (R222)? -/
def Core.poolRoom (k : Core) : Bool := k.lists.length + k.writers.length < 256

/-- A full/empty request at its bank (R221): served, joined to a list or writer queue, or waiting for a record. -/
def feRequest (s : State) (k : Nat) (r : Rec) : State :=
  let q := s.core k
  let v := word (leVal (bgetN q.sp (8 * r.word) 8))
  let wait (s : State) : State := s.modCore k fun q => { q with poolQ := q.poolQ ++ [r] }
  if q.full.contains r.word then
    if r.write then (if q.poolRoom then s.modCore k fun q => { q with writers := q.writers ++ [r] } else wait s)
    else
      let bad := (s.spPoison k (8 * r.word) 8).map (·.1)
      let s := s.deliver r.cont v bad
      -- an actor's read that meets poison is abandoned (R220); a copy's and an element's take the word (R226, R295)
      if !r.take || (bad.isSome && match r.cont with | some (.actor _ _) => true | _ => false) then s
      else
        let s := s.modCore k fun q => { q with full := ldel q.full r.word }
        match q.writers.find? (·.word == r.word) with
        | none => s
        | some w =>
          -- retry_writers: the oldest parked STEF performs its fill
          let s := s.modCore k fun q => { q with writers := lremove (· == w) q.writers }
          feFill (s.deliver w.cont 0 none) k w.word w.val w.bad
  else if r.write then feFill (s.deliver r.cont 0 none) k r.word r.val r.bad
  else if q.poolRoom then s.modCore k fun q => { q with lists := q.lists ++ [r] }
  else wait s

/-- Requests that wait for a record take the records that have been freed, in order (R222). -/
def feDrain : Nat → State → Nat → State
  | 0, s, _ => s
  | fuel + 1, s, k =>
    match (s.core k).poolQ with
    | [] => s
    | r :: rs =>
      if (s.core k).poolRoom then feDrain fuel (feRequest (s.modCore k fun q => { q with poolQ := rs }) k r) k else s

/-- A full/empty request and what it lets in. -/
def feArrive (s : State) (k : Nat) (r : Rec) : State :=
  let s := feRequest s k r
  feDrain (s.core k).poolQ.length s k

/-- Write scratchpad bytes as a plain write does: a word that holds a list root is filled with the value written (R223); `bad`
gives the machine-check code of a written word that is poisoned (R289). -/
def State.spWriteMarked (s : State) (k off : Nat) (bs : List Byte) (bad : Nat → Option Nat) : State :=
  (wordsTouched off bs.length).foldl (fun s w =>
    let a := max off (8 * w)
    let part := (bs.drop (a - off)).take (8 * w + 8 - a)
    if (s.core k).waiting w then
      let s := feFill s k w (word (leVal (patch (s.spRead k (8 * w) 8) (a - 8 * w) part))) (bad w)
      feDrain (s.core k).poolQ.length s k
    else
      let s := s.spPut k a part
      match bad w with
      | some code => s.addSpPoison k code [w]
      | none => s) s
def State.spWrite (s : State) (k off : Nat) (bs : List Byte) : State := s.spWriteMarked k off bs fun _ => none

/-! ### Windows (R264 to R266) -/

/-- A descriptor of a context's window table, read at P with key entry 0. -/
def State.window (s : State) (x i : Nat) : List Word :=
  wordsOf 4 (s.readHome (fld (s.ctx x).wtb 0 52 + 32 * i) 32 0)
def wKind (w : List Word) : Nat := fld (w.getD 1 0) 52 4
def wSize (w : List Word) : Nat := fld (w.getD 1 0) 0 52
def wRkey (w : List Word) : Nat := fld (w.getD 2 0) 32 32
def wTgt (w : List Word) : Nat := fld (w.getD 2 0) 0 24
def wIn (w : List Word) : Bool := fld (w.getD 3 0) 1 1 == 1
def wRdonly (w : List Word) : Bool := fld (w.getD 3 0) 0 1 == 1
/-- Reserved bits of a descriptor are zero (R265). -/
def wClean (w : List Word) : Bool :=
  fld (w.getD 1 0) 56 8 == 0 && fld (w.getD 2 0) 26 6 == 0 && fld (w.getD 3 0) 2 62 == 0
    && (wKind w != 3 || fld (w.getD 2 0) 13 11 == 0) && (wKind w != 5 || wTgt w == 0)

/-! ### Where a handle's bytes lie -/

/-- The core whose scratchpad an sp handle names (R212). -/
def State.spCore (s : State) (c : Nat) (e : List Word) : Nat :=
  if hLocal e then c
  else
    let o := s.own c
    match (s.launch o.launch).places.find? fun p => p.pset == o.pset && p.inst == o.inst && p.share == o.share && p.lpg == hLpg e with
    | some p => p.core
    | none => c

/-- Locate bytes [o, o + n) of a handle for an agent of a core, with the checks of bounds and windows (R215, R219, R264,
R266, R267). -/
def locate (w : Who) (c i : Nat) (e : List Word) (o n : Nat) (write : Bool) : M Loc := do
  let s ← get
  if hSize e < o + n then stop (w.bounds i o)
  else if hSpace e == 2 then
    let k := s.spCore c e
    if (s.core k).nsp * 32768 < hBase e + o + n then stop (w.bounds i o) else pure (.sp k (hBase e + o))
  else if hSpace e == 1 then pure (.mem (s.ctxOf c) (hBase e + o) (hPol e) (hIL e))
  else
    let x := s.ctxOf c
    let d := s.window x (bits (hBase e) 46 6)
    let ofs := bits (hBase e) 0 46 + o
    if wKind d != hSpace e || wIn d || !wClean d then stop (w.handle i o)
    else if wSize d < ofs + n then stop (w.bounds i o)
    else if write && wRdonly d then stop (w.readOnly i o)
    else if hEFV e && hEFMT e != 0 then stop (w.format i o)
    else pure (.win (hSpace e) (bits (hBase e) 46 6) ofs)

/-- Read bytes at a place of sp or hbm: bytes, and the machine check of poison met. -/
def readLoc (c : Nat) (l : Loc) (n : Nat) : M (List Byte × Option (Nat × Option Nat)) := do
  let s ← get
  match l with
  | .sp k off => pure (s.spRead k off n, s.spPoison k off n)
  | .mem x va pol _ => memRead c x va n pol
  | .win .. => pure (List.replicate n 0, none)
/-- Write bytes at a place of sp or hbm. -/
def writeLoc (c : Nat) (l : Loc) (bs : List Byte) : M Unit :=
  match l with
  | .sp k off => modify fun s => s.spWrite k off bs
  | .mem x va pol il => memWrite c x va pol il bs
  | .win .. => pure ()

/-- Resolve `n` bytes `d` bytes beyond a side reference (R207) for an agent of a core: every defect takes one stop. -/
def sideRefAt (x : Stop) (c : Nat) (r : Word) (d n : Nat) (spaces : List Nat) (write : Bool) : M Loc := do
  let i := fld r 52 12
  let o := fld r 0 52 + d
  let e ← handle (.fixed x) c i o
  if spaces.contains (hSpace e) then locate (.fixed x) c i e o n write else stop x
def sideRef (x : Stop) (c : Nat) (r : Word) (n : Nat) (spaces : List Nat) (write : Bool) : M Loc :=
  sideRefAt x c r 0 n spaces write

/-! ### Scopes (R246, R249, R253, R254, R268) -/

/-- The scope that an OS code names, 1–5, and whether it is a release or an acquire (R67). -/
def osLvl (os : Nat) : Nat := if os == 0 then 0 else (os - 1) % 5 + 1
def osRel (os : Nat) : Bool := 6 ≤ os
def osAcq (os : Nat) : Bool := (1 ≤ os && os ≤ 5) || 11 ≤ os

/-- GV, GSIZE, GID of a context's group register (R268). -/
def Ctx.gv (x : Ctx) : Bool := fld x.grp 35 1 == 1
def Ctx.gsize (x : Ctx) : Nat := fld x.grp 25 10
def Ctx.rank (x : Ctx) : Nat := fld x.grp 16 9
def Ctx.gid (x : Ctx) : Nat := fld x.grp 0 16
/-- The packages of a context's group, by the rank table. -/
def State.groupPkgs (s : State) (x : Nat) : List Nat :=
  (upTo (s.ctx x).gsize).map fun r => leVal (s.readHome (fld (s.ctx x).rnkt 0 52 + 4 * r) 4 0) % 512
/-- The package's own pod address. -/
def State.pod (s : State) : Nat := fld s.poda 0 9

/-- The instance of a scope that an agent of a core uses (R246). -/
def State.scopeOf (s : State) (c lvl : Nat) : ScopeRec :=
  let x := s.ctx (s.ctxOf c)
  { lvl := lvl
    inst := if lvl == 1 then c else if lvl == 2 then quadOf c else if lvl == 3 then dieOf c else s.pod
    gid := if lvl == 5 && x.gv then some x.gid else none
    pkgs := if lvl == 5 && x.gv then s.groupPkgs (s.ctxOf c) else []
    launch := some (s.own c).launch }

/-- The packages whose cores a `.pkg` or `.pod` instance holds (R268); a smaller instance lies in this package. -/
def ScopeRec.span (pod : Nat) (r : ScopeRec) : List Nat :=
  if r.lvl ≤ 3 then [pod] else match r.gid with | none => [r.inst] | some _ => r.pkgs
/-- Does instance `a` include instance `b`, as sets of cores (R246, R268)? A group whose members are not known includes and is
included in itself alone. -/
def scopeIncludes (pod : Nat) (a b : ScopeRec) : Bool :=
  match a.lvl with
  | 1 => b.lvl == 1 && b.inst == a.inst
  | 2 => (b.lvl == 2 && b.inst == a.inst) || (b.lvl == 1 && b.inst / 4 == a.inst)
  | 3 => (b.lvl == 3 && b.inst == a.inst) || (b.lvl == 2 && b.inst / 16 == a.inst) || (b.lvl == 1 && b.inst / 64 == a.inst)
  | _ => (a.gid.isSome && a.gid == b.gid) || (!(b.span pod).isEmpty && (b.span pod).all (a.span pod).contains)

/-- The scope checker at the slice of a line (R253): refuse a scope that does not include the recorded one, else record. -/
def State.scopeCheck (s : State) (pa : Nat) (new : ScopeRec) : Except ScopeRec State :=
  match mget s.scopes (pa / 64) with
  | some old => if scopeIncludes s.pod new old then .ok { s with scopes := mset s.scopes (pa / 64) new } else .error old
  | none => .ok { s with scopes := mset s.scopes (pa / 64) new }

/-- A release at `.pkg` scope leaves its scope record at the word's line (R247, R253). -/
def State.pkgRelease (s : State) (x va : Nat) : State :=
  match walk s x va true with
  | .ok (lvl, w) =>
    match s.scopeCheck (leafPA lvl w va) { lvl := 4, inst := s.pod } with
    | .ok s => s
    | .error _ => s
  | .error _ => s

/-- Word 4 of a scope trap: handle, recorded scope, scope used (R411). -/
def scopeWord (h rec used : Nat) : Word := word (h + rec * 2 ^ 12 + used * 2 ^ 16)

/-- Check an access with an order and scope (R253, R254): at the slice of an hbm line, or at a scratchpad's owner. -/
def scopeAt (elem : Bool) (c h o os : Nat) (l : Loc) : M Unit := do
  if os == 0 then pure ()
  else
    let s ← get
    let lvl := osLvl os
    match l with
    | .sp k _ =>
      let ok := (lvl == 1 && k == c) || (lvl == 2 && quadOf k == quadOf c) || (lvl == 3 && dieOf k == dieOf c) || 4 ≤ lvl
      if ok then pure ()
      else if elem then stop (hFault 0x3F h o) else stop (.trap 0x19 (scopeWord h 0 lvl) (word o))
    | .mem x va _ _ => do
      let t ← xlate c x va (osRel os)
      let s ← get
      match s.scopeCheck t.2.2 (s.scopeOf c lvl) with
      | .ok s => set s
      | .error r => if elem then stop (hFault 0x3E h o) else stop (.trap 0x18 (scopeWord h r.lvl lvl) (word o))
    | .win .. => set s

/-- Write back the dirty lines of a cover in the L1s that a core uses (R249). -/
def State.flushL1 (s : State) (c : Nat) (cover : Nat → Bool) : State :=
  (s.l1Cores c).foldl (fun s k => (s.core k).l1.foldl (fun s l => if cover l.1 then s.writeBack k l.1 else s) s) s
/-- Write back and invalidate the lines of a cover. -/
def State.purgeL1 (s : State) (c : Nat) (cover : Nat → Bool) : State :=
  (s.l1Cores c).foldl (fun s k => (s.core k).l1.foldl (fun s l => if cover l.1 then s.evictLine k l.1 else s) s) s
/-- Every line. -/
def everyLine : Nat → Bool := fun _ => true

/-- Has an agent remote accesses whose acknowledgment a release awaits (R249, R269)? -/
def State.remotePending (s : State) (src : Source) : Bool :=
  s.reach.any fun r =>
    (match r.2.src, src with
     | .actor c n _, .actor c' n' _ => c == c' && n == n'
     | a, b => a == b)
    && (r.2.kind == .rst || r.2.kind == .ramo || r.2.kind == .store || r.2.kind == .row)

/-- Has an actor's firing loads or stores that have not been performed (R418)? -/
def State.accessPending (s : State) (src : Source) : Bool :=
  match src with
  | .actor c n _ => (s.slot c n).pend.any fun p => p.range.isSome
  | _ => false
/-- What a release waits for and does before its access (R249, R418). At `.core` too the dirty bytes go home, so that a copy that
follows an acquire of it reads them (R439). -/
def releaseAt (c : Nat) (src : Source) (lvl : Nat) (cover : Nat → Bool) : M Unit := do
  let s ← get
  if lvl == 0 then pure ()
  else if s.accessPending src || (2 ≤ lvl && s.remotePending src) then stop (.wait { kind := .order, on := b2n (2 ≤ lvl) })
  else set (s.flushL1 c cover)
/-- What an acquire does after its read (R249). -/
def acquireAt (c lvl : Nat) (cover : Nat → Bool) : M Unit := modify fun s =>
  if lvl ≤ 1 || (lvl == 2 && (s.core c).fused) then s else s.purgeL1 c cover

/-- The agent of the running firing, as a source. -/
def State.actorSrc (s : State) (c n : Nat) : Source := .actor c n (s.slot c n).serial

/-! ### Homes (R236) -/

/-- Bring a place to its home: the core's L1 writes back and invalidates the line of an hbm word. Physical address and key;
a scratchpad is its own home. -/
def atHome (c x va : Nat) (il write : Bool) : M (Nat × Nat) := do
  inOrder va 8
  let t ← xlate c x va write
  modify fun s =>
    let line := t.2.2 / 64
    let s := s.evictLine (s.l1Core c line) line
    if write then s.placePage (some (dieOf c)) il t.1 va t.2.2 else s
  pure (t.2.2, pteKey t.2.1)

/-- Read `n` bytes at the home of a place: the number they hold and the machine check of poison. -/
def homeRead (c : Nat) (l : Loc) (n : Nat) (write : Bool) : M (Nat × Option (Nat × Option Nat)) :=
  match l with
  | .sp k off => do
    let s ← get
    pure (leVal (s.spRead k off n), s.spPoison k off n)
  | .mem x va _ il => do
    let h ← atHome c x va il write
    let s ← get
    pure (leVal (s.readHome h.1 n h.2), s.memPoison h.1 n)
  | .win .. => pure (0, none)
/-- Write `n` bytes at the home of a place. -/
def homeWrite (c : Nat) (l : Loc) (n v : Nat) : M Unit :=
  match l with
  | .sp k off => modify fun s => s.spWrite k off (leBytes n v)
  | .mem x va _ il => do
    let h ← atHome c x va il true
    modify fun s => s.writeHome h.1 (leBytes n v) h.2
  | .win .. => pure ()

/-- Format and geometry codes of the page at a place; scratchpads and windows are RAW (R213, R267). -/
def pageFmt (c : Nat) (l : Loc) (write : Bool) : M (Nat × Nat) :=
  match l with
  | .mem x va _ _ => do
    let t ← xlate c x va write
    pure (pteFmt t.2.1, pteGeo t.2.1)
  | _ => pure (0, 0)

/-! ### Layout records and scales (R111, R207, R208) -/

/-- A 64-byte line of the metadata cache's view of memory. -/
def metaLine (c x va : Nat) : M (Nat × L1Line) := do
  let t ← xlate c x va false
  let s ← get
  let line := t.2.2 / 64
  match mget (s.core c).metaC line with
  | some b => pure (t.2.2, b)
  | none =>
    let b : L1Line := { key := pteKey t.2.1, bytes := s.readHome (64 * line) 64 (pteKey t.2.1), poison := s.linePoison line }
    set (s.modCore c fun k =>
      { k with metaC := mset (if k.metaC.length < 128 then k.metaC else k.metaC.drop 1) line b })
    pure (t.2.2, b)
/-- Bytes of one line read through the metadata cache, and the machine check of poison met. -/
def metaRead (c x va n : Nat) : M (List Byte × Option (Nat × Option Nat)) := do
  let b ← metaLine c x va
  pure ((b.2.bytes.drop (va % 64)).take n, b.2.met b.1 n)

/-- The words of a handle's layout record, none where it is absent or malformed (R207), and the machine check of poison met. -/
def layout (c x : Nat) (e : List Word) : M (Option (List Word) × Option (Nat × Option Nat)) := do
  if hLayout e == 0 then pure (none, none)
  else
    let b ← (upTo 8).foldlM (fun acc i => do
      let b ← metaRead c x (hLayout e + 8 * i) 8
      pure (acc.1 ++ b.1, acc.2.or b.2)) ([], none)
    let ws := wordsOf 8 b.1
    let flags := fld (ws.getD 5 0) 0 32
    if flags / 8 != 0 || fld (ws.getD 5 0) 32 32 != 0 || (ws.getD 6 0) != 0 || (ws.getD 7 0) != 0
       || (ws.getD 2 0).toNat < (ws.getD 3 0).toNat then pure (none, b.2)
    else pure (some ws, b.2)

/-- Bytes of a block: 32 elements (R106). -/
def blockBytes (fmt : Nat) : Nat := if fmt == 5 then 16 else 32
/-- Where a TAIL chunk's scale bytes begin (R111). -/
def tailScales (fmt : Nat) : Nat := if fmt == 5 then 960 else 992
/-- Do bytes [va, va + n) touch a TAIL chunk's scale or reserved bytes (R113)? -/
def touchesTail (fmt geo va n : Nat) : Bool := geo == 1 && fmtNarrow fmt && tailScales fmt < va % 1024 + n

/-- The scale byte of the block that holds byte `o` of a handle, in E8M0 (R111), and the machine check of poison met. -/
def blockScale (c i : Nat) (e : List Word) (va o fmt geo : Nat) : M (Nat × Option (Nat × Option Nat)) := do
  let s ← get
  let x := s.ctxOf c
  let blk := blockBytes fmt
  let bad := asyncErr 0x40 i fmt geo o none
  if geo == 0 then pure (127, none)
  else if geo == 1 then
    let r ← memRead c x (va / 1024 * 1024 + tailScales fmt + va % 1024 / blk) 1 (hPol e)
    pure (leVal r.1, r.2)
  else
    if hBase e % blk != 0 then stop bad
    else
      match ← layout c x e with
      | (_, some mc) => pure (127, some mc)
      | (none, none) => stop bad
      | (some ws, none) =>
        if fld (ws.getD 5 0) 0 1 == 0 then stop bad
        else
          let l ← sideRefAt bad c (ws.getD 0 0) (o / blk) 1 [1, 2] false
          let b ← readLoc c l 1
          pure (leVal b.1, b.2)

/-- The group header of an INT4G element (R108, R111), and the machine check of poison met. -/
def groupHeader (c i : Nat) (e : List Word) (elt geo : Nat) : M (Nat × Option (Nat × Option Nat)) := do
  let s ← get
  let x := s.ctxOf c
  let bad := asyncErr 0x40 i 6 geo (elt / 2) none
  if hBase e * 2 % geoGroup geo != 0 then stop bad
  else
    match ← layout c x e with
    | (_, some mc) => pure (0, some mc)
    | (none, none) => stop bad
    | (some ws, none) =>
      if fld (ws.getD 5 0) 0 1 == 0 then stop bad
      else
        let l ← sideRefAt bad c (ws.getD 0 0) (4 * (elt / geoGroup geo)) 4 [1, 2] false
        let b ← readLoc c l 4
        pure (leVal b.1, b.2)

/-! ### Elements of pages (R113 to R115, R215, R226) -/

/-- The first byte of element `e`, counted from BASE, and for nibbles the nibble (R215). -/
def elemByte (fmt geo ty e : Nat) : Nat × Nat :=
  if fmt == 0 then (tyW ty / 8 * e, 0)
  else if fmt == 5 && geo == 1 then (e / 1920 * 1024 + e % 1920 / 2, e % 2)
  else if fmt == 5 || fmt == 6 then (e / 2, e % 2)
  else if (fmt == 3 || fmt == 4) && geo == 1 then (e / 992 * 1024 + e % 992, 0)
  else (fmtBytes fmt * e, 0)
/-- Bytes that one element occupies. -/
def elemBytes (fmt ty : Nat) : Nat := if fmt == 0 then tyW ty / 8 else if fmt == 5 || fmt == 6 then 1 else fmtBytes fmt

/-- The leaf that maps an address for an agent of a core, as its translation unit or the table has it; nothing is performed. -/
def State.leafAt (s : State) (c x va : Nat) : Option Word :=
  match s.tlbHit (dieOf c) x va with
  | some t => some t.pte
  | none => match walkAt s x va (s.root x) 3 with
    | .ok (_, w) => some w
    | .error _ => none
/-- Legal pairs of format and geometry codes (R112). -/
def formatPairs : List (Nat × Nat) :=
  (upTo 12).flatMap fun f => ((upTo 6).filter fun g => fmtGeoOk f g).map fun g => (f, g)
/-- Format and geometry of the page that holds element `n` of a handle (R215): the pair under which the element's bytes lie on a
page of that pair. A declared format is tried first, then the format at BASE, then the others in the order of their codes; where
none fits, the first of these stands, and the access meets its page (DEDUCED, log 89). -/
def State.elemFmt (s : State) (c : Nat) (e : List Word) (ty n : Nat) : Nat × Nat :=
  if hSpace e != 1 then (0, 0)
  else
    let x := s.ctxOf c
    let leaf (va : Nat) : Option (Nat × Nat) := (s.leafAt c x va).map fun w => (pteFmt w, pteGeo w)
    let declared := if hEFV e then formatPairs.filter (·.1 == hEFMT e) else []
    let cands := declared ++ (leaf (hBase e)).toList ++ formatPairs
    (cands.find? fun p => leaf (hBase e + (elemByte p.1 p.2 ty n).1) == some p).getD (cands.headD (0, 0))

/-- Where an element of a handle lies, with the checks that are made at issue (R113, R219, R227): format, geometry, first byte and
nibble counted from BASE, and the place of its bytes. -/
def elemSpot (c i : Nat) (e : List Word) (ty : Nat) (idx : Int) (write : Bool) (ok : Nat → Nat → Bool) :
    M (Nat × Nat × Nat × Nat × Loc) := do
  if hEFV e && !ok (hEFMT e) 0 then stop (hFault 0x3A i 0)
  else if idx < 0 then stop (hFault 0x38 i 0)
  else
    let s ← get
    let pg := s.elemFmt c e ty idx.toNat
    let b := elemByte pg.1 pg.2 ty idx.toNat
    let sz := elemBytes pg.1 ty
    if hSpace e ≤ 2 && hBase e % sz != 0 then stop (hFault 0x38 i b.1)
    else do
      let l ← locate .elem c i e b.1 sz write
      pure (pg.1, pg.2, b.1, b.2, l)
/-- The same, with the checks of the page that are made at execution (R113). -/
def elemPlace (c i : Nat) (e : List Word) (ty : Nat) (idx : Int) (write : Bool) (ok : Nat → Nat → Bool) :
    M (Nat × Nat × Nat × Nat × Loc) := do
  let (fmt, geo, o, nib, l) ← elemSpot c i e ty idx write ok
  let here ← about i o (pageFmt c l write)
  if (hEFV e && hEFMT e != here.1) || here != (fmt, geo) || !ok fmt geo || touchesTail fmt geo (hBase e + o) (elemBytes fmt ty) then
    stop (asyncErr 0x40 i here.1 here.2 o none)
  else pure (fmt, geo, o, nib, l)

/-- One element of type TY loaded through a handle: its code, flags, and the machine check of poison met, in its bytes or in its
scale or header. -/
def loadElem (c i : Nat) (e : List Word) (ty : Nat) (idx : Int) : M (Nat × Flags × Option (Nat × Option Nat)) := do
  let (fmt, geo, ofs, nib, l) ← elemPlace c i e ty idx false fun f _ => tyPageOk f ty
  let va := hBase e + ofs
  about i ofs do
    if fmt == 5 then
      -- the whole block is read, since an outlier gives slots up; it starts at a multiple of its size (R106)
      let s ← get
      let r ← memRead c (s.ctxOf c) (va / 16 * 16) 16 (hPol e)
      let sc ← blockScale c i e va ofs fmt geo
      let k := 2 * (va % 16) + nib
      let v := decodeScaled (tyFmt ty) sc.1 ((q4eValues ((upTo 32).map (nibOf r.1))).getD k (.fin false 0 0, noFlags))
      pure (v.1, v.2, r.2.or sc.2)
    else if fmt == 6 then
      let r ← readLoc c l 1
      let h ← groupHeader c i e idx.toNat geo
      let v := int4gBf16 h.1 (nibOf r.1 nib)
      let q := (tyFmt ty).round 0 (bf16.decode v.1)
      pure (q.1, v.2, r.2.or h.2)
    else
      let sc ← if fmtNarrow fmt then blockScale c i e va ofs fmt geo else pure (127, none)
      let r ← readLoc c l (elemBytes fmt ty)
      let v := laneLoad fmt ty sc.1 (leVal r.1)
      pure (v.1, v.2, r.2.or sc.2)

/-- Is a page written by whole blocks only (R115)? -/
def blockPage (fmt geo : Nat) : Bool := (fmt == 3 || fmt == 4 || fmt == 5) && geo != 0

/-- One element of type TY stored through a handle to a page that is not written by blocks: the flags. -/
def storeElem (c i : Nat) (e : List Word) (ty : Nat) (idx : Int) (v : Nat) : M Flags := do
  let (fmt, _, ofs, nib, l) ← elemPlace c i e ty idx true fun f g => tyPageOk f ty && f != 6 && !blockPage f g
  about i ofs do
    let r := laneStore fmt ty v
    if fmt == 5 then
      let old ← readLoc c l 1
      let byte := if nib == 0 then leVal old.1 / 16 * 16 + r.1 % 16 else leVal old.1 % 16 + r.1 % 16 * 16
      writeLoc c l (leBytes 1 byte)
      pure r.2
    else
      writeLoc c l (leBytes (elemBytes fmt ty) r.1)
      pure r.2

/-- The block that starts at element `first` of a handle on a TAIL or SIDE page stored with its scale (R115 to R118): 32 values. A
place that is not a block's takes the fates of R113. -/
def storeBlock (c i : Nat) (e : List Word) (fmt geo first : Nat) (vs : List Num) : M Flags := do
  let s ← get
  let b := (elemByte fmt geo 4 first).1
  let va := hBase e + b
  let bad := asyncErr 0x40 i fmt geo b none
  let blk := blockBytes fmt
  let r := if fmt == 5 then storeQ4e vs else storeBlock8 fmt vs
  let bytes := if fmt == 5 then packNibs r.2.1 else r.2.1.map fun v => BitVec.ofNat 8 v
  let l ← locate .elem c i e b blk true
  about i b do
    let here ← pageFmt c l true
    if here != (fmt, geo) || va % blk != 0 || touchesTail fmt geo va blk || (geo != 1 && hBase e % blk != 0) then stop bad
    else if geo == 1 then
      writeLoc c l bytes
      writeLoc c (.mem (s.ctxOf c) (va / 1024 * 1024 + tailScales fmt + va % 1024 / blk) (hPol e) (hIL e)) (leBytes 1 r.1)
      pure r.2.2
    else
      match ← layout c (s.ctxOf c) e with
      | (_, some mc) => stop (asyncErr 0x41 i fmt geo b (some mc))
      | (none, none) => stop bad
      | (some ws, none) =>
        if fld (ws.getD 5 0) 0 1 == 0 then stop bad
        else
          let l2 ← sideRefAt bad c (ws.getD 0 0) (b / blk) 1 [1, 2] true
          writeLoc c l bytes
          writeLoc c l2 (leBytes 1 r.1)
          pure r.2.2

end Sys2Proof.Machine
end

