-- ==== Sys2Proof/Machine/Scalar.lean ====
section
/-!
DEFINITION. Scalar instructions of actors: integer and float arithmetic, conversion, control flow and NOP (14 R370 to
R374, R126 to R128, R69, R73). Each reads registers of the slot whose firing runs, writes at most one, records flags at
position 60, and advances the program counter.
-/
namespace Sys2Proof.Machine

/-- The core, and the slot or position, of the agent whose step is being made. -/
def State.here (s : State) : Nat × Nat :=
  match s.cur with
  | .actor c n => (c, n)
  | .elem c p => (c, p)
  | .net c => (c, 0)
  | .none => (0, 0)
/-- A register of the running firing, as a number. -/
def State.rd (s : State) (r : Reg) : Nat := (s.reg s.here.1 s.here.2 r).toNat
/-- Record flags at position 60, where any were raised (R123, R370). -/
def State.flag60 (s : State) (c : Nat) (fl : BitVec 4) : State := if fl = 0 then s else s.record c 60 fl
/-- Write a register of the running firing and advance. -/
def State.put (s : State) (dst : Reg) (v : Word) : State :=
  s.modSlot s.here.1 s.here.2 fun x => (x.setReg dst.toNat v).retire
/-- The result of a scalar instruction: DST, the flags, the next instruction. -/
def State.result (s : State) (dst : Reg) (v : Word) (fl : BitVec 4) : Out := .next ((s.put dst v).flag60 s.here.1 fl)
/-- An integer or float result of TY. -/
def State.resultTy (s : State) (dst : Reg) (ty : Nat) (r : Nat × Flags) : Out := s.result dst (wrReg ty r.1) r.2
/-- Advance the program counter of the running firing and do nothing else. -/
def State.advance (s : State) : State := s.modSlot s.here.1 s.here.2 Slot.retire

/-! ### Integer R-format (R370) -/

def execAdd (f : RForm) (s : State) : Out :=
  s.resultTy f.dst f.ty.toNat (iAdd f.ty.toNat (f.sat == 1) (s.rd f.sa) (s.rd f.sb))
def execSub (f : RForm) (s : State) : Out :=
  s.resultTy f.dst f.ty.toNat (iSub f.ty.toNat (f.sat == 1) (s.rd f.sa) (s.rd f.sb))
def execMul (f : RForm) (s : State) : Out :=
  s.resultTy f.dst f.ty.toNat (iMul f.ty.toNat (f.sat == 1) (s.rd f.sa) (s.rd f.sb))
def execMulh (f : RForm) (s : State) : Out :=
  s.resultTy f.dst f.ty.toNat (iMulh f.ty.toNat (s.rd f.sa) (s.rd f.sb), noFlags)
def execDiv (f : RForm) (s : State) : Out := s.resultTy f.dst f.ty.toNat (iDiv f.ty.toNat (s.rd f.sa) (s.rd f.sb))
def execRem (f : RForm) (s : State) : Out := s.resultTy f.dst f.ty.toNat (iRem f.ty.toNat (s.rd f.sa) (s.rd f.sb))
def execAnd (f : RForm) (s : State) : Out :=
  s.resultTy f.dst f.ty.toNat (bAnd f.ty.toNat (s.rd f.sa) (s.rd f.sb), noFlags)
def execOr (f : RForm) (s : State) : Out :=
  s.resultTy f.dst f.ty.toNat (bOr f.ty.toNat (s.rd f.sa) (s.rd f.sb), noFlags)
def execXor (f : RForm) (s : State) : Out :=
  s.resultTy f.dst f.ty.toNat (bXor f.ty.toNat (s.rd f.sa) (s.rd f.sb), noFlags)
def execShl (f : RForm) (s : State) : Out :=
  s.resultTy f.dst f.ty.toNat (shlN f.ty.toNat (s.rd f.sa) (s.rd f.sb), noFlags)
def execShr (f : RForm) (s : State) : Out :=
  s.resultTy f.dst f.ty.toNat (shrN f.ty.toNat (s.rd f.sa) (s.rd f.sb), noFlags)
def execSar (f : RForm) (s : State) : Out :=
  s.resultTy f.dst f.ty.toNat (sarN f.ty.toNat (s.rd f.sa) (s.rd f.sb), noFlags)
def execMin (f : RForm) (s : State) : Out :=
  s.resultTy f.dst f.ty.toNat (iMin f.ty.toNat (s.rd f.sa) (s.rd f.sb), noFlags)
def execMax (f : RForm) (s : State) : Out :=
  s.resultTy f.dst f.ty.toNat (iMax f.ty.toNat (s.rd f.sa) (s.rd f.sb), noFlags)
def execSlt (f : RForm) (s : State) : Out :=
  s.resultTy f.dst f.ty.toNat (iCmp f.ty.toNat 2 (s.rd f.sa) (s.rd f.sb), noFlags)
def execSel (f : RForm) (s : State) : Out :=
  s.resultTy f.dst f.ty.toNat
    (if s.rd f.sc % 2 ^ tyW f.ty.toNat != 0 then s.rd f.sa else s.rd f.sb, noFlags)
def execPopc (f : RForm) (s : State) : Out :=
  s.resultTy f.dst f.ty.toNat (ones (tyW f.ty.toNat) (s.rd f.sa), noFlags)
def execClz (f : RForm) (s : State) : Out := s.resultTy f.dst f.ty.toNat (iClz f.ty.toNat (s.rd f.sa), noFlags)
def execMov (f : RForm) (s : State) : Out := s.resultTy f.dst f.ty.toNat (s.rd f.sa, noFlags)

/-! ### Immediates (R371) -/

/-- IMM sign-extended to 64 bits. -/
def IForm.simm (f : IForm) : Nat := sext 32 64 f.imm.toNat

def execAddi (f : IForm) (s : State) : Out :=
  s.resultTy f.dst f.ty.toNat (iAdd f.ty.toNat false (s.rd f.sa) (IForm.simm f))
def execAndi (f : IForm) (s : State) : Out :=
  s.resultTy f.dst f.ty.toNat (bAnd f.ty.toNat (s.rd f.sa) (IForm.simm f), noFlags)
def execOri (f : IForm) (s : State) : Out :=
  s.resultTy f.dst f.ty.toNat (bOr f.ty.toNat (s.rd f.sa) (IForm.simm f), noFlags)
def execXori (f : IForm) (s : State) : Out :=
  s.resultTy f.dst f.ty.toNat (bXor f.ty.toNat (s.rd f.sa) (IForm.simm f), noFlags)
def execShli (f : IForm) (s : State) : Out :=
  s.resultTy f.dst f.ty.toNat (shlN f.ty.toNat (s.rd f.sa) (ctlF f.imm 0 6), noFlags)
def execShri (f : IForm) (s : State) : Out :=
  s.resultTy f.dst f.ty.toNat (shrN f.ty.toNat (s.rd f.sa) (ctlF f.imm 0 6), noFlags)
def execSari (f : IForm) (s : State) : Out :=
  s.resultTy f.dst f.ty.toNat (sarN f.ty.toNat (s.rd f.sa) (ctlF f.imm 0 6), noFlags)
def execSlti (f : IForm) (s : State) : Out :=
  s.resultTy f.dst f.ty.toNat (iCmp f.ty.toNat 2 (s.rd f.sa) (IForm.simm f), noFlags)
def execMovi (f : IForm) (s : State) : Out := s.result f.dst (word (IForm.simm f)) noFlags
def execMovhi (f : IForm) (s : State) : Out :=
  s.result f.dst (word (f.imm.toNat * 2 ^ 32 + s.rd f.dst % 2 ^ 32)) noFlags

/-! ### Float R-format and CVT (R372, R127) -/

def execFadd (f : RForm) (s : State) : Out :=
  s.resultTy f.dst f.ty.toNat (fAdd f.ty.toNat f.rnd.toNat (s.rd f.sa) (s.rd f.sb))
def execFsub (f : RForm) (s : State) : Out :=
  s.resultTy f.dst f.ty.toNat (fSub f.ty.toNat f.rnd.toNat (s.rd f.sa) (s.rd f.sb))
def execFmul (f : RForm) (s : State) : Out :=
  s.resultTy f.dst f.ty.toNat (fMul f.ty.toNat f.rnd.toNat (s.rd f.sa) (s.rd f.sb))
def execFfma (f : RForm) (s : State) : Out :=
  s.resultTy f.dst f.ty.toNat (fFma f.ty.toNat f.rnd.toNat (s.rd f.sa) (s.rd f.sb) (s.rd f.sc))
def execFmin (f : RForm) (s : State) : Out :=
  s.resultTy f.dst f.ty.toNat (fMin f.ty.toNat (s.rd f.sa) (s.rd f.sb), noFlags)
def execFmax (f : RForm) (s : State) : Out :=
  s.resultTy f.dst f.ty.toNat (fMax f.ty.toNat (s.rd f.sa) (s.rd f.sb), noFlags)
def execFcmp (f : RForm) (s : State) : Out :=
  s.resultTy f.dst f.ty.toNat (fCmpMask f.ty.toNat (s.rd f.sa) (s.rd f.sb))
def execFclass (f : RForm) (s : State) : Out :=
  s.resultTy f.dst f.ty.toNat (fClass f.ty.toNat (s.rd f.sa), noFlags)
/-- CVT: SF in CTL[21:18], DF in [17:14], USC in [13], SAT in [12], RND in XM[3:2]. -/
def execCvt (f : XForm) (s : State) : Out :=
  let df := ctlF f.ctl 14 4
  let r := convert (ctlF f.ctl 18 4) df (bits f.xm.toNat 2 2) (ctlF f.ctl 12 1 == 1)
    (if ctlF f.ctl 13 1 == 1 then some (s.rd f.sb % 256) else none) (s.rd f.sa)
  s.result f.dst (wrFmt df r.1) r.2

/-! ### Control flow (R373, R73) -/

/-- The target PC + 8 × sext(IMM, 32). -/
def branchTarget (pc : Nat) (imm : BitVec 32) : Int := pc + 8 * sgn 32 imm.toNat
/-- Does a target lie in the slot's code image? -/
def inImage (x : Slot) (t : Int) : Bool := (x.entry : Int) ≤ t && t < x.stop
/-- Go on at a target. -/
def Slot.jump (x : Slot) (t : Int) : Slot := { x.retire with pc := t.toNat }
/-- A branch goes on at its target when taken and at the next word when not. Trap 0x07 where that lies outside the image,
with nothing of the instruction done (R72, R73). -/
def State.branch (s : State) (imm : BitVec 32) (taken : Bool) (f : Slot → Slot) : Out :=
  let c := s.here.1
  let n := s.here.2
  let t := if taken then branchTarget (s.slot c n).pc imm else (s.slot c n).pc + 8
  if inImage (s.slot c n) t then .next (s.modSlot c n fun x => (f x).jump t)
  else .next (s.takeTrap c n 0x07 0 0)
/-- A condition code CC on 64 bits (R67, R373). -/
def condCC (cc a b : Nat) : Bool :=
  match cc with
  | 0 => a == b
  | 1 => a != b
  | 2 => sgn 64 a < sgn 64 b
  | 3 => sgn 64 b ≤ sgn 64 a
  | 4 => a < b
  | _ => b ≤ a

def execBr (f : BForm) (s : State) : Out := s.branch f.imm true id
def execBcc (f : BForm) (s : State) : Out := s.branch f.imm (condCC f.cc.toNat (s.rd f.sa) (s.rd f.sb)) id
def execLoop (f : BForm) (s : State) : Out :=
  let v := s.reg s.here.1 s.here.2 f.dst - 1
  s.branch f.imm (v != 0) fun x => x.setReg f.dst.toNat v

/-- NOP (R69). -/
def execNop (s : State) : Out := .next s.advance

/-- A word whose major opcode is unassigned: decode trap 0x01 (R73). -/
def execUnassignedMajorOpcode (_w : Word) (s : State) : Out := .next (s.takeTrap s.here.1 s.here.2 0x01 0 0)

/-- A firing that has issued 65,536 instructions raises trap 0x28 in place of its next instruction (R363). -/
def execWatchdog (s : State) : Out := .next (s.takeTrap s.here.1 s.here.2 0x28 0 0)

end Sys2Proof.Machine
end

