-- ==== Sys2Proof/Machine/Memory.lean ====
section
/-!
DEFINITION. Memory instructions of actors: LD, ST, LDF, LDFE, STEF, WAYS, HINV (08 R216 to R224, R228 to R232).
-/
namespace Sys2Proof.Machine

/-- The byte offset that an M-format instruction names within its handle (R67, R215): an exact sum (R7), in which SA is read
unsigned, since no rule calls it signed (R2; DEDUCED, log 91). A sum below zero lies outside every handle, and stands here as the
64 bits that its record shows. -/
def State.mOfs (s : State) (f : MForm) : Nat :=
  let o : Int := 8 * sgn 20 f.ofs.toNat + (if f.ix == 1 then (s.rd f.sa : Int) else 0)
  if o < 0 then ofInt 64 o else o.toNat

/-- Write DST of the running firing and advance, with flags at position 60. -/
def finish (c n : Nat) (dst : Reg) (v : Word) (fl : BitVec 4) : M Unit :=
  modify fun s => (s.modSlot c n fun x => (x.setReg dst.toNat v).retire).flag60 c fl
/-- Advance the running firing. -/
def finishNone (c n : Nat) (fl : BitVec 4) : M Unit := modify fun s => (s.modSlot c n Slot.retire).flag60 c fl
/-- Park the running firing, keeping what the instruction has done so far. -/
def parkNow (c n : Nat) (p : Park) : M Unit := modify fun s => State.runActor.park s c n p
/-- What the running firing's instruction has been given, if it waited for an event of a kind. -/
def State.given (s : State) (c n : Nat) (k : ParkKind) : Option Park :=
  let it (p : Option Park) : Option Park := p.filter fun q => q.kind == k
  (it (s.slot c n).park).or (it (s.slot c n).under)

/-- Resolve the place of an actor's access of 2^sz bytes to sp or hbm, with the checks of R219 in the order of their
codes; `ok` says which page formats and geometries the access takes, `rawOnly` fixes the alignment to 2^sz. -/
def actorPlace (f : MForm) (c o : Nat) (e : List Word) (write rawOnly : Bool) (ok : Nat → Nat → Bool) : M (Loc × Nat × Nat) := do
  let h := f.hnd.toNat
  let sz := f.sz.toNat
  let bytesOf (fmt : Nat) : Nat := if rawOnly then 2 ^ sz else accBytes fmt sz
  -- Q4E and INT4G have no alignment (R216)
  let alignOf (fmt : Nat) : Nat := if !rawOnly && (fmt == 5 || fmt == 6) then 1 else bytesOf fmt
  if 3 ≤ hSpace e then stop (Who.actor.handle h o)
  else
    let sp := hSpace e == 2
    let known := sp || hEFV e || rawOnly
    let n0 := if sp || rawOnly then 2 ^ sz else if hEFV e then bytesOf (hEFMT e) else 1
    let l ← locate .actor c h e o n0 write
    if known && (hBase e + o) % (if hEFV e then alignOf (hEFMT e) else n0) != 0 then trapAt 0x12 h o
    else if hEFV e && !ok (hEFMT e) 0 then stop (Who.actor.format h o)
    else
      let pg ← about h o (pageFmt c l write)
      let l ← if known then pure l else locate .actor c h e o (bytesOf pg.1) write
      if !known && (hBase e + o) % alignOf pg.1 != 0 then trapAt 0x12 h o
      else if (hEFV e && hEFMT e != pg.1) || !ok pg.1 pg.2 || touchesTail pg.1 pg.2 (hBase e + o) (bytesOf pg.1) then
        stop (asyncErr 0x40 h pg.1 pg.2 o none)
      else pure (l, pg)

/-- An asynchronous error that leaves what the instruction has done so far: a checked access that is not refused has replaced its
line's scope record before it meets poison (R220, R253). -/
def failNow (c n code h : Nat) (pg : Nat × Nat) (o : Nat) (mc : Option (Nat × Option Nat)) : M Unit := modify fun s =>
  let s := match mc with
    | some (k, pa) => s.machineCheck k (s.ctxOf c) pa
    | none => s
  s.asyncActor c n code h pg.1 pg.2 0 (word o)

/-- May an LD or ST that meets a translation fault stay behind while its firing goes on (R218, R418)? It must be plain, and every
check that its issue makes must have been made. -/
def mayWait (f : MForm) (e : List Word) (o : Nat) : Bool := f.os == 0 && hSpace e == 1 && (hEFV e || (hBase e + o) % 8 == 0)
/-- An access that meets a translation fault stays behind its firing, which goes on (R418). -/
def orStay (c n : Nat) (may : Bool) (p : Nat → Pend) (m : M Unit) : M Unit := fun s =>
  match m s with
  | .error (.xfault x va cause write at_) =>
    if may then
      let r := s.xreport (dieOf c) c x va cause write
      .ok ((), r.1.modSlot c n fun y => { y.retire with pend := y.pend ++ [p r.2] })
    else .error (.xfault x va cause write at_)
  | r => r

/-- What an LD reads through an entry (R216, R217): the page, the value, its flags, and the machine check of poison met. -/
def ldDo (f : MForm) (c : Nat) (e : List Word) (o : Nat) : M ((Nat × Nat) × Word × Flags × Option (Nat × Option Nat)) := do
  let h := f.hnd.toNat
  let pl ← actorPlace f c o e false false fun fmt _ => ldOk fmt f.sz.toNat
  about h o do
    scopeAt false c h o f.os.toNat pl.1
    let sc ← if fmtNarrow pl.2.1 then blockScale c h e (hBase e + o) o pl.2.1 pl.2.2 else pure (127, none)
    let r ← readLoc c pl.1 (accBytes pl.2.1 f.sz.toNat)
    let v := ldValue pl.2.1 f.sz.toNat sc.1 (leVal r.1)
    pure (pl.2, v.1, v.2, r.2.or sc.2)
/-- LD (R216 to R218). -/
def opLd (f : MForm) (c n : Nat) : M Unit := do
  let s ← get
  let o := s.mOfs f
  let os := f.os.toNat
  let e ← handle .actor c f.hnd.toNat o
  orStay c n (mayWait f e o) (.load (s.fetchWord c n) e o) do
    let r ← ldDo f c e o
    match r.2.2.2 with
    | some mc => failNow c n 0x41 f.hnd.toNat r.1 o (some mc)
    | none =>
      if osAcq os then acquireAt c (osLvl os) everyLine
      finish c n f.dst r.2.1 r.2.2.1

/-- What an ST stores through an entry (R216, R217): its flags. -/
def stDo (f : MForm) (c : Nat) (src : Source) (e : List Word) (o : Nat) (val : Word) : M Flags := do
  let h := f.hnd.toNat
  let os := f.os.toNat
  let pl ← actorPlace f c o e true false fun fmt geo => stOk fmt geo f.sz.toNat
  about h o do
    if osRel os then releaseAt c src (osLvl os) everyLine
    scopeAt false c h o os pl.1
    let v := stValue pl.2.1 f.sz.toNat val.toNat
    writeLoc c pl.1 (leBytes (accBytes pl.2.1 f.sz.toNat) v.1)
    -- a releasing store enters the word's write order before the firing goes on (R237, R249)
    if osRel os && 2 ≤ osLvl os then modify fun s => s.flushL1 c everyLine
    pure v.2
/-- ST (R216 to R218). -/
def opSt (f : MForm) (c n : Nat) : M Unit := do
  let s ← get
  let o := s.mOfs f
  let e ← handle .actor c f.hnd.toNat o
  let v := s.reg c n f.sb
  orStay c n (mayWait f e o) (.store (s.fetchWord c n) e o v) do
    let fl ← stDo f c (s.actorSrc c n) e o v
    finishNone c n fl

/-! ### Accesses that waited on a translation fault (R418) -/

/-- The fault record that a waiting access is about. -/
def Pend.fault : Pend → Option Nat
  | .load _ _ _ on | .store _ _ _ _ on => some on
  | .matrix _ => none
def Pend.word : Pend → Word
  | .load w _ _ _ | .store w _ _ _ _ => w
  | .matrix _ => 0
/-- Wait on another record. -/
def Pend.on (p : Pend) (n : Nat) : Pend :=
  match p with
  | .load w e o _ => .load w e o n
  | .store w e o v _ => .store w e o v n
  | .matrix r => .matrix r
/-- Its byte offset in its handle. -/
def Pend.offset : Pend → Nat
  | .load _ _ o _ | .store _ _ o _ _ => o
  | .matrix _ => 0
/-- The registers that are still to be written. -/
def Pend.dsts : Pend → List Nat
  | .load w _ _ _ => [fld w 49 5]
  | .store .. => []
  | .matrix r => r
/-- The instruction of a waiting access. -/
def Pend.form (p : Pend) : MForm :=
  match decodeWord true true p.word with
  | .ok (.ld f) | .ok (.st f) => f
  | _ => ⟨0, 0, 0, 0, 0, 0, 0, 0⟩
/-- Make a waiting access again: what it does for its firing. -/
def redo (p : Pend) (c n : Nat) : M Unit := do
  match p with
  | .load _ e o _ =>
    let r ← ldDo p.form c e o
    match r.2.2.2 with
    | some mc => stop (asyncErr 0x41 p.form.hnd.toNat r.1.1 r.1.2 o (some mc))
    | none => modify fun s => (s.modSlot c n fun x => x.setReg p.form.dst.toNat r.2.1).flag60 c r.2.2.1
  | .store _ e o v _ =>
    let s ← get
    let fl ← stDo p.form c (s.actorSrc c n) e o v
    modify fun s => s.flag60 c fl
  | .matrix _ => pure ()
/-- An error of a waiting access ends the firing that issued it (R220); what else that firing has issued goes on. -/
def State.failPend (s : State) (c n : Nat) (p : Pend) (code : Nat) (pg : Nat × Nat) (o : Word) : State :=
  (s.coreRecord c code 3 0 n 1 (asyncWord2 p.form.hnd.toNat pg.1 pg.2 0) o p.word 0).endFiring c n
/-- Make a waiting access of a slot again. -/
def State.redoPend (s : State) (c n : Nat) (p : Pend) : State :=
  let drop (s : State) : State := s.modSlot c n fun x => { x with pend := lremove (· == p) x.pend }
  match redo p c n { drop s with cur := .actor c n } with
  | .ok (_, t) => { t with cur := s.cur }
  | .error (.xfault x va cause write _) =>
    let r := s.xreport (dieOf c) c x va cause write
    r.1.modSlot c n fun x => { x with pend := lreplace (· == p) (·.on r.2) x.pend }
  | .error (.async code _ fmt geo _ ofs mc) =>
    let s := match mc with
      | some (k, pa) => s.machineCheck k (s.ctxOf c) pa
      | none => s
    (drop s).failPend c n p code (fmt, geo) ofs
  | .error _ => s
/-- Make the waiting accesses of a slot again whose records have been answered, oldest first (R417, R418). -/
def State.redoAll (s : State) (c n : Nat) (ps : List Pend) : State :=
  ps.foldl (fun s p => if p.fault.any fun o => !s.xfaults.any (·.ord == o) then s.redoPend c n p else s) s
/-- The same over every slot of the package. -/
def State.redoEvery (s : State) : State :=
  s.cores.foldl (fun s ck => ck.2.slots.foldl (fun s xn => s.redoAll ck.1 xn.1 xn.2.pend) s) s

/-- The word that a full/empty instruction names (R221): the scratchpad's core and the word's index. -/
def feWord (f : MForm) (c o : Nat) (write : Bool) : M (Nat × Nat) := do
  let h := f.hnd.toNat
  let e ← handle .actor c h o
  if hSpace e != 2 then trapAt 0x14 h o
  else
    match ← locate .actor c h e o 8 write with
    | .sp k off => if off % 8 != 0 then trapAt 0x12 h o else pure (k, off / 8)
    | _ => trapAt 0x14 h o

/-- LDF and LDFE (R221 to R223). -/
def opLoadFull (take : Bool) (f : MForm) (c n : Nat) : M Unit := do
  let s ← get
  let o := s.mOfs f
  match s.given c n .fullEmpty with
  | some p => answer p
  | none =>
    let w ← feWord f c o false
    modify fun s => feArrive s w.1 { word := w.2, take := take, cont := some (.actor c n) }
    let s ← get
    match s.given c n .fullEmpty with
    | some p => answer p
    | none => parkNow c n { kind := .fullEmpty }
where
  /-- A value has been delivered, or the wait goes on. -/
  answer (p : Park) : M Unit := do
    let s ← get
    if !p.done then parkNow c n p
    else if p.flag then stop (asyncErr 0x41 f.hnd.toNat 0 0 (s.mOfs f) (some (p.on, none)))
    else finish c n f.dst p.val 0

/-- STEF (R221 to R223). -/
def opStef (f : MForm) (c n : Nat) : M Unit := do
  let s ← get
  let o := s.mOfs f
  match s.given c n .fullEmpty with
  | some p => if p.done then finishNone c n 0 else parkNow c n p
  | none =>
    let w ← feWord f c o true
    modify fun s => feArrive s w.1 { word := w.2, write := true, val := word (s.rd f.sb), cont := some (.actor c n) }
    let s ← get
    match s.given c n .fullEmpty with
    | some _ => finishNone c n 0
    | none => parkNow c n { kind := .fullEmpty }

/-- Have the agents of a core accesses that are not complete: remote ones not acknowledged, loads and stores that wait on a
translation fault, and full/empty requests that wait for a pool record at a word from `w` on (R222, R229)? -/
def State.coreWaits (s : State) (c w : Nat) : Bool :=
  let at_ : Source → Bool := fun src => match src with | .actor k _ _ | .elem k _ | .engine k => k == c
  s.reach.any (fun r => at_ r.2.src) || (s.core c).slots.any (fun x => x.2.pend.any fun p => p.range.isSome)
    || (s.core c).poolQ.any fun r => w ≤ r.word

/-- WAYS (R229, R230): the accesses of the core's agents are complete, the boundary moves, ways that join the scratchpad are zeroed,
ways that leave it are discarded. The lines of the changing ways are not told apart: every line of the L1 is written back and
invalidated (DESIGN CHOICE, log 20). -/
def opWays (f : IForm) (c n : Nat) : M Unit := do
  let s ← get
  let k := s.core c
  let m := f.imm.toNat % 32
  let leaves (r : Rec) : Bool := m * 4096 ≤ r.word
  if k.fused || (m < k.nsp && (k.lists.any leaves || k.writers.any leaves)) then trap 0x15
  else if s.coreWaits c (m * 4096) then stop (.wait { kind := .order, flag := true, on := m * 4096 })
  else
    modify fun s => (s.purgeL1 c everyLine).modCore c fun k =>
      let cut := min k.nsp m * 32768
      { k with nsp := m
               sp := k.sp.filter (·.1 < cut)
               full := k.full.filter (8 * · < cut)
               spPoison := k.spPoison.filter (8 * · < cut)
               spSrc := k.spSrc.filter (8 * ·.1 < cut) }
    finishNone c n 0

/-- Drop one handle entry or all of a context from every handle cache, with the metadata caches of the tenant's cores and its
cached routing descriptors (R232). A new HTB reaches accesses from here on (R408). -/
def State.dropHandles (s : State) (x : Nat) (i : Option Nat) : State :=
  let s := s.modCtx x fun c => { c with htbUse := fld c.htb 0 52 }
  { s with
    cores := s.cores.map fun ck =>
      let k := ck.2
      (ck.1, { k with
        handles := k.handles.filter fun v => !(v.ctx == x && (i.isNone || i == some v.idx))
        metaC := if k.own.isSome && s.ctxOf ck.1 == x then [] else k.metaC })
    belfryCache := s.belfryCache.filter fun b => b.2.1 != x }

/-- HINV (R232). -/
def opHinv (f : IForm) (c n : Nat) : M Unit := do
  let s ← get
  releaseAt c (s.actorSrc c n) 4 everyLine
  modify fun s => s.dropHandles (s.ctxOf c) (if ctlF f.imm 12 1 == 1 then none else some (ctlF f.imm 0 12))
  finishNone c n 0

def execLd (f : MForm) (s : State) : Out := s.runActor s.here.1 s.here.2 (opLd f s.here.1 s.here.2)
def execSt (f : MForm) (s : State) : Out := s.runActor s.here.1 s.here.2 (opSt f s.here.1 s.here.2)
def execLdf (f : MForm) (s : State) : Out := s.runActor s.here.1 s.here.2 (opLoadFull false f s.here.1 s.here.2)
def execLdfe (f : MForm) (s : State) : Out := s.runActor s.here.1 s.here.2 (opLoadFull true f s.here.1 s.here.2)
def execStef (f : MForm) (s : State) : Out := s.runActor s.here.1 s.here.2 (opStef f s.here.1 s.here.2)
def execWays (f : IForm) (s : State) : Out := s.runActor s.here.1 s.here.2 (opWays f s.here.1 s.here.2)
def execHinv (f : IForm) (s : State) : Out := s.runActor s.here.1 s.here.2 (opHinv f s.here.1 s.here.2)

end Sys2Proof.Machine
end

