-- ==== Sys2Proof/Machine/Atomic.lean ====
section
/-!
DEFINITION. Atomics and synchronisation of actors (09): AADD to CAS, DCAS, AMOVE, BIND, ACQ, REL, BAR, MWAIT, WATCH, and
the held append of a watchpoint.
-/
namespace Sys2Proof.Machine

/-! ### Single-word atomics (R236 to R240) -/

/-- The new value of a word of 2^sz bytes under the operations 0 add, 1 and, 2 or, 3 xor, 4 min, 5 max, 6 xchg, 7 fadd,
8 cas (R238, R270). -/
def amoNew (op sz old b cmp : Nat) : Nat × Flags :=
  let w := 8 * 2 ^ sz
  match op with
  | 0 => ((old + b) % 2 ^ w, noFlags)
  | 1 => (Nat.land old b % 2 ^ w, noFlags)
  | 2 => (Nat.lor old b % 2 ^ w, noFlags)
  | 3 => (Nat.xor old b % 2 ^ w, noFlags)
  | 4 => ((if sgn w b < sgn w old then b else old) % 2 ^ w, noFlags)
  | 5 => ((if sgn w old < sgn w b then b else old) % 2 ^ w, noFlags)
  | 6 => (b % 2 ^ w, noFlags)
  | 7 => fAdd (if sz == 1 then 5 else 4) 0 old b
  | _ => ((if old % 2 ^ w == cmp % 2 ^ w then b else old) % 2 ^ w, noFlags)

/-- What DST receives: sign-extended for SZ 2 and 3, zero-extended for a float (R239). -/
def amoDst (op sz old : Nat) : Word := if op == 7 then word old else word (sext (8 * 2 ^ sz) 64 old)

/-- A single-word atomic (R239). -/
def opAmo (op : Nat) (f : MForm) (c n : Nat) : M Unit := do
  let s ← get
  let o := s.mOfs f
  let h := f.hnd.toNat
  let os := f.os.toNat
  let sz := f.sz.toNat
  let e ← handle .actor c h o
  if 4 ≤ hSpace e then trapAt 0x1B h o
  else
    let pl ← actorPlace f c o e true true fun fmt _ => amoOk fmt sz (op == 7)
    if osRel os then releaseAt c (s.actorSrc c n) (osLvl os) everyLine
    scopeAt false c h o os pl.1
    let r ← about h o (homeRead c pl.1 (2 ^ sz) true)
    match r.2 with
    | some mc => failNow c n 0x41 h pl.2 o (some mc)
    | none =>
      let v := amoNew op sz r.1 (s.rd f.sb) (s.rd f.dst)
      homeWrite c pl.1 (2 ^ sz) v.1
      if osAcq os then acquireAt c (osLvl os) everyLine
      finish c n f.dst (amoDst op sz r.1) v.2

def execAadd (f : MForm) (s : State) : Out := s.runActor s.here.1 s.here.2 (opAmo 0 f s.here.1 s.here.2)
def execAand (f : MForm) (s : State) : Out := s.runActor s.here.1 s.here.2 (opAmo 1 f s.here.1 s.here.2)
def execAor (f : MForm) (s : State) : Out := s.runActor s.here.1 s.here.2 (opAmo 2 f s.here.1 s.here.2)
def execAxor (f : MForm) (s : State) : Out := s.runActor s.here.1 s.here.2 (opAmo 3 f s.here.1 s.here.2)
def execAmin (f : MForm) (s : State) : Out := s.runActor s.here.1 s.here.2 (opAmo 4 f s.here.1 s.here.2)
def execAmax (f : MForm) (s : State) : Out := s.runActor s.here.1 s.here.2 (opAmo 5 f s.here.1 s.here.2)
def execAxchg (f : MForm) (s : State) : Out := s.runActor s.here.1 s.here.2 (opAmo 6 f s.here.1 s.here.2)
def execAfadd (f : MForm) (s : State) : Out := s.runActor s.here.1 s.here.2 (opAmo 7 f s.here.1 s.here.2)
def execCas (f : MForm) (s : State) : Out := s.runActor s.here.1 s.here.2 (opAmo 8 f s.here.1 s.here.2)

/-! ### DCAS and AMOVE (R241 to R243) -/

/-- One of the two words as it is checked at issue (R219, R240): 8 aligned bytes of sp or hbm. -/
def pairWord (c h o : Nat) (e : List Word) : M Loc := do
  if 4 ≤ hSpace e then trapAt 0x1B h o
  else if hSpace e == 3 then stop (Who.actor.handle h o)
  else
    let l ← locate .actor c h e o 8 true
    if (hBase e + o) % 8 != 0 then trapAt 0x12 h o
    else if hEFV e && hEFMT e != 0 then stop (Who.actor.format h o)
    else pure l
/-- And at execution: its page is RAW (R240). -/
def pairPage (c h o : Nat) (l : Loc) : M Unit := do
  let pg ← about h o (pageFmt c l true)
  if pg.1 != 0 then stop (asyncErr 0x40 h pg.1 pg.2 o none) else pure ()

/-- DCAS and AMOVE as one access at both homes (R242). -/
def opPair (move : Bool) (f : XForm) (c n : Nat) : M Unit := do
  let s ← get
  let h := ctlF f.ctl 10 12
  let os := bits f.xm.toNat 0 4
  let o1 := s.rd f.sc
  let o2 := s.rd f.sd
  let e ← handle .actor c h o1
  let l1 ← pairWord c h o1 e
  let l2 ← pairWord c h o2 e
  pairPage c h o1 l1
  pairPage c h o2 l2
  if osRel os then releaseAt c (s.actorSrc c n) (osLvl os) everyLine
  scopeAt false c h o1 os l1
  scopeAt false c h o2 os l2
  let r1 ← about h o1 (homeRead c l1 8 true)
  let r2 ← about h o2 (homeRead c l2 8 true)
  match r1.2.or r2.2 with
  | some mc => failNow c n 0x41 h (0, 0) (if r1.2.isSome then o1 else o2) (some mc)
  | none =>
    if move then
      (if r2.1 == s.rd f.sa then do
        homeWrite c l2 8 r1.1
        homeWrite c l1 8 (s.rd f.sb)
      else pure ())
    else
      (if r1.1 == s.rd f.sa && r2.1 == s.rd (f.sa + 1) then do
        homeWrite c l1 8 (s.rd f.sb)
        homeWrite c l2 8 (s.rd (f.sb + 1))
      else pure ())
    if osAcq os then acquireAt c (osLvl os) everyLine
    modify fun s => s.modSlot c n fun x => ((x.setReg f.dst.toNat (word r1.1)).setReg (f.dst + 1).toNat (word r2.1)).retire

def execDcas (f : XForm) (s : State) : Out := s.runActor s.here.1 s.here.2 (opPair false f s.here.1 s.here.2)
def execAmove (f : XForm) (s : State) : Out := s.runActor s.here.1 s.here.2 (opPair true f s.here.1 s.here.2)

/-! ### Entry consistency (R250 to R252) -/

/-- BIND (R251). -/
def opBind (f : MForm) (c n : Nat) : M Unit := do
  let s ← get
  let o := s.mOfs f
  let h := f.hnd.toNat
  let bad : Stop := .trap 0x17 (word h) (word o)
  let e ← handle .actor c h o
  if hSpace e != 1 then stop bad
  else
    let l ← locate .actor c h e o 8 false
    if (hBase e + o) % 8 != 0 then trapAt 0x12 h o
    else
      match l with
      | .mem x va _ _ =>
        let t ← about h o (xlate c x va false)
        let obj := t.2.2
        let len := s.rd (f.sb + 1)
        let reg := s.reg c n f.sb
        releaseAt c (s.actorSrc c n) 4 everyLine
        let lid := (s.own c).launch
        if len == 0 then
          modify fun s => s.modLaunch lid fun k => { k with binds := k.binds.filter (·.obj != obj) }
        else if 2 ^ 32 < len || 64 ≤ (s.launch lid).binds.length then stop bad
        else do
          let _ ← sideRef bad c reg len [1] false
          modify fun s => s.modLaunch lid fun k =>
            { k with binds := k.binds ++ [{ obj := obj, hnd := fld reg 52 12, ofs := fld reg 0 52, len := len }] }
        finishNone c n 0
      | _ => stop bad

/-- The lines of the regions bound to an object, and of the object itself (R248, R252). -/
def State.coverOf (s : State) (c obj : Nat) : Nat → Bool :=
  let x := s.ctxOf c
  let ranges := ((s.launch (s.own c).launch).binds.filter (·.obj == obj)).flatMap fun b =>
    match s.sideVA x (word (b.hnd * 2 ^ 52 + b.ofs)) b.len with
    | none => []
    | some va => (pieces va b.len).filterMap fun p =>
        match walk s x p.1 false with
        | .ok (lvl, w) => some (leafPA lvl w p.1, p.2)
        | .error _ => none
  fun line => line == obj / 64 || ranges.any fun r => r.1 < 64 * line + 64 && 64 * line < r.1 + r.2

/-- The object of ACQ and REL: an aligned 64-bit hbm word, and its physical address. -/
def syncWord (f : MForm) (c o : Nat) (write : Bool) : M (Loc × Nat) := do
  let h := f.hnd.toNat
  let e ← handle .actor c h o
  if hSpace e != 1 then stop (Who.actor.handle h o)
  else
    let pl ← actorPlace f c o e write true fun fmt _ => fmt == 0
    match pl.1 with
    | .mem x va _ _ => do
      let t ← about h o (xlate c x va write)
      pure (pl.1, t.2.2)
    | _ => stop (Who.actor.handle h o)

/-- ACQ (R252). -/
def opAcq (f : MForm) (c n : Nat) : M Unit := do
  let s ← get
  let o := s.mOfs f
  let w ← syncWord f c o false
  scopeAt false c f.hnd.toNat o f.os.toNat w.1
  let r ← about f.hnd.toNat o (readLoc c w.1 8)
  match r.2 with
  | some mc => failNow c n 0x41 f.hnd.toNat (0, 0) o (some mc)
  | none =>
    let s ← get
    acquireAt c (osLvl f.os.toNat) (s.coverOf c w.2)
    finish c n f.dst (word (leVal r.1)) 0
/-- REL (R252). -/
def opRel (f : MForm) (c n : Nat) : M Unit := do
  let s ← get
  let o := s.mOfs f
  let w ← syncWord f c o true
  releaseAt c (s.actorSrc c n) (osLvl f.os.toNat) (s.coverOf c w.2)
  scopeAt false c f.hnd.toNat o f.os.toNat w.1
  writeLoc c w.1 (leBytes 8 (s.rd f.sb))
  if 2 ≤ osLvl f.os.toNat then modify fun s => s.flushL1 c (· == w.2 / 64)
  finishNone c n 0

def execBind (f : MForm) (s : State) : Out := s.runActor s.here.1 s.here.2 (opBind f s.here.1 s.here.2)
def execAcq (f : MForm) (s : State) : Out := s.runActor s.here.1 s.here.2 (opAcq f s.here.1 s.here.2)
def execRel (f : MForm) (s : State) : Out := s.runActor s.here.1 s.here.2 (opRel f s.here.1 s.here.2)

/-! ### Barriers (R255, R256) -/

/-- The instance of a barrier that a core belongs to. -/
def barInst (c lvl : Nat) : Nat := if lvl == 1 then c else if lvl == 2 then quadOf c else if lvl == 3 then dieOf c else 0

/-- BAR (R256). -/
def opBar (f : IForm) (c n : Nat) : M Unit := do
  let s ← get
  let lvl := ctlF f.imm 0 3
  let id := ctlF f.imm 8 4
  let count := ctlF f.imm 16 16
  let lid := (s.own c).launch
  match s.given c n .barrier with
  | some p =>
    if p.done then do acquireAt c lvl everyLine; finishNone c n 0
    else parkNow c n p
  | none =>
    releaseAt c (s.actorSrc c n) lvl everyLine
    let here (b : Barrier) : Bool := b.lvl == lvl && b.inst == barInst c lvl && b.id == id
    let bars := (s.launch lid).barriers
    let b := (bars.find? here).getD { lvl := lvl, inst := barInst c lvl, id := id, count := count, arrived := [] }
    if b.count != count && !b.arrived.isEmpty then stop (asyncErr 0x43 0 0 0 0 none)
    else if b.arrived.length + 1 < count then do
      modify fun s => s.modLaunch lid fun k =>
        { k with barriers := bars.filter (!here ·) ++ [{ b with count := count, arrived := b.arrived ++ [(c, n)] }] }
      parkNow c n { kind := .barrier }
    else do
      modify fun s => b.arrived.foldl
        (fun s a => s.modSlot a.1 a.2 fun x => { x with park := some { kind := .barrier, done := true } })
        (s.modLaunch lid fun k => { k with barriers := bars.filter (!here ·) })
      acquireAt c lvl everyLine
      finishNone c n 0

def execBar (f : IForm) (s : State) : Out := s.runActor s.here.1 s.here.2 (opBar f s.here.1 s.here.2)

/-! ### MWAIT and watchpoints (R257 to R259) -/

def State.addWaiter (s : State) (w : Waiter) : State := { s with waiters := s.waiters ++ [w] }
def State.dropWatch (s : State) (it : Watch → Bool) : State := { s with watches := lremove it s.watches }

/-- MWAIT (R257). -/
def opMwait (f : MForm) (c n : Nat) : M Unit := do
  let s ← get
  let o := s.mOfs f
  let h := f.hnd.toNat
  let os := f.os.toNat
  let sz := 2 ^ f.sz.toNat
  let bound := s.rd f.sb % 2 ^ (8 * sz)
  let answer (v : Nat) : M Unit := do
    if osAcq os then acquireAt c (osLvl os) everyLine
    finish c n f.dst (word v) 0
  -- a wake that met poison reads the word again, and so raises the error with its machine check
  match (s.given c n .mwait).filter (!·.flag) with
  | some p => if p.done then answer p.val.toNat else parkNow c n p
  | none =>
    let e ← handle .actor c h o
    let pl ← actorPlace f c o e false true fun fmt _ => amoOk fmt f.sz.toNat false
    scopeAt false c h o os pl.1
    let r ← about h o (homeRead c pl.1 sz false)
    match r.2 with
    | some mc => failNow c n 0x41 h pl.2 o (some mc)
    | none =>
      if bound ≤ r.1 then answer r.1
      else
        let at_ ← (match pl.1 with
          | .sp k off => pure (some k, off)
          | .mem x va _ _ => do let t ← xlate c x va false; pure (none, t.2.2)
          | .win .. => pure (none, 0))
        modify fun s => s.addWaiter { core := c, slot := n, sp := at_.1, addr := at_.2, size := sz, bound := bound }
        parkNow c n { kind := .mwait }

/-- Die that homes a physical address: the one whose stacks hold its page (R236). -/
def State.homeDie (s : State) (pa : Nat) : Nat := (s.stackOf pa).getD 0 / 2
/-- Slice of the line of a physical address, 0–31. -/
def sliceOf (pa : Nat) : Nat := Config.sliceOf (pa / 64) % 32

/-- Register a watchpoint at its slice (R259): its identifier, or none when the slice's entries, or the tenant's cap, are
reached. `team` marks an internal one of a team swap, which has 16 entries of its own. -/
def State.addWatch (s : State) (w : Watch) : Option (State × Nat) :=
  let same := s.watches.filter fun v => v.die == w.die && v.slice == w.slice && v.team.isSome == w.team.isSome
  let cap := let q := fld (s.ctx w.ctx).caps 16 5; if q == 0 then 16 else q
  if 16 ≤ same.length || (w.team.isNone && cap ≤ (same.filter (·.ctx == w.ctx)).length) then none
  else
    match (upTo 16).find? fun i => !same.any (·.entry == i) with
    | none => none
    | some i => some ({ s with watches := s.watches ++ [{ w with entry := i }] }, w.die * 2 ^ 14 + w.slice * 2 ^ 9 + i)

/-- WATCH (R258, R259). -/
def opWatch (f : MForm) (c n : Nat) : M Unit := do
  let s ← get
  let o := s.mOfs f
  let h := f.hnd.toNat
  let bad : Stop := .trap 0x1A (word h) (word o)
  let e ← handle .actor c h o
  if hSpace e != 1 then stop (Who.actor.handle h o)
  else
    let l ← locate .actor c h e o 64 false
    if (hBase e + o) % 8 != 0 then trapAt 0x12 h o
    else
      let r ← about h o (readLoc c l 64)
      -- the read may itself write back the watched line and so fire the watchpoint that it cancels
      let s ← get
      let ws := wordsOf 8 r.1
      let w1 := ws.getD 1 0
      let x := s.ctxOf c
      match r.2 with
      | some mc => stop (asyncErr 0x41 h 0 0 o (some mc))
      | none =>
        if fld w1 7 1 != 0 || fld w1 11 21 != 0 || fld w1 48 15 != 0 || ws.getD 5 0 != 0 || ws.getD 6 0 != 0
           || ws.getD 7 0 != 0 then stop bad
        else if fld w1 63 1 == 1 then
          let id := fld w1 32 16
          let it (v : Watch) : Bool := v.ctx == x && v.team.isNone && v.die * 2 ^ 14 + v.slice * 2 ^ 9 + v.entry == id
          modify fun s => s.dropWatch it
          finish c n f.dst (if s.watches.any it then 0 else word (2 ^ 63)) 0
        else
          let len := fld w1 0 7
          if len == 0 || 64 < len then stop bad
          else
            match ← sideRef bad c (ws.getD 0 0) len [1] false with
            | .mem _ va _ _ =>
              let first := 8 * cdiv va 8
              if va / 64 != (va + len - 1) / 64 || va + len < first + 8 then stop bad
              else
                let p ← sideRef bad c (ws.getD 4 0) 256 [1] false
                let t ← xlate c x va false
                let s ← get
                let _ := p
                let w : Watch :=
                  { ctx := x, die := s.homeDie t.2.2, slice := sliceOf t.2.2, entry := 0, addr := t.2.2, len := len
                    cq := fld w1 8 3, mask := ws.getD 2 0, value := ws.getD 3 0, packet := ws.getD 4 0 }
                match s.addWatch w with
                | none => finish c n f.dst (word (2 ^ 63)) 0
                | some (s, id) => do set s; finish c n f.dst (word id) 0
            | _ => stop bad

def execMwait (f : MForm) (s : State) : Out := s.runActor s.here.1 s.here.2 (opMwait f s.here.1 s.here.2)
def execWatch (f : MForm) (s : State) : Out := s.runActor s.here.1 s.here.2 (opWatch f s.here.1 s.here.2)

/-- WATCH_APPEND (R259): an append held by a full queue enters it once there is room, in the order of arrival. One whose packet could
not be read is dropped with a CLASS 6 record (R429). -/
def execWatchAppend (held : Nat) (s : State) : Out :=
  match s.heldAppends[held]? with
  | none => .next s
  | some (x, q, p) =>
    if p.isEmpty then .next ({ s with heldAppends := s.heldAppends.eraseIdx held }.dropRecord x q 2 0 0)
    else if (s.heldAppends.take held).any (fun a => a.1 == x && a.2.1 == q) || 64 ≤ (mgetD (s.ctx x).queues q []).length then .next s
    else .next ({ s with heldAppends := s.heldAppends.eraseIdx held }.appendPacket x q p)

end Sys2Proof.Machine
end

