-- ==== Sys2Proof/Machine/Reach.lean ====
section
/-!
DEFINITION. Reach operations (10): RST, RAMO, RSEND, COLL, the arrivals of cells and accesses, acknowledgments and time-outs,
and the network and PCIe ports (16 R430, R431).
-/
namespace Sys2Proof.Machine

/-! ### Accesses of units that use no L1 -/

/-- Translate for a unit of a die, or of the I/O die, and place the page that a write reaches first (R43, R414). -/
def unitXlate (die : Option Nat) (x va : Nat) (il write : Bool) : M (Nat × Nat) := do
  let t ← xlate (64 * die.getD 0) x va write
  if write then modify fun s => s.placePage die il t.1 va t.2.2
  pure (t.2.2, pteKey t.2.1)
/-- Read bytes at their homes: the bytes, and the machine check of poison met. -/
def unitRead (die : Option Nat) (x va n : Nat) : M (List Byte × Option (Nat × Option Nat)) :=
  (pieces va n).foldlM (fun acc p => do
    let t ← unitXlate die x p.1 false false
    let s ← get
    pure (acc.1 ++ s.readHome t.1 p.2 t.2, acc.2.or (s.memPoison t.1 p.2))) ([], none)
/-- The runs of a range that lie in poisoned words, counted from its first byte: one for each word (R289). -/
def unitBad (die : Option Nat) (x va n : Nat) : M (List (Nat × Nat)) :=
  (pieces va n).foldlM (fun acc p => do
    let t ← unitXlate die x p.1 false false
    let s ← get
    let ws := (wordsTouched t.1 p.2).filter fun w => s.poisoned (8 * w) 8
    pure (acc ++ ws.map fun w =>
      let lo := max t.1 (8 * w)
      (p.1 - va + (lo - t.1), min (t.1 + p.2) (8 * w + 8) - lo))) []
/-- Write bytes at their homes. -/
def unitWrite (die : Option Nat) (x va : Nat) (il : Bool) (bs : List Byte) : M Unit :=
  (pieces va bs.length).forM fun p => do
    let t ← unitXlate die x p.1 il true
    modify fun s => s.writeHome t.1 ((bs.drop (p.1 - va)).take p.2) t.2
/-- Mark the words that runs of a range touch poisoned, at their homes, with the machine-check code that they carry. -/
def unitPoison (die : Option Nat) (x va code : Nat) (bad : List (Nat × Nat)) : M Unit :=
  bad.forM fun b => (pieces (va + b.1) b.2).forM fun p => do
    let t ← unitXlate die x p.1 false true
    modify fun s => s.addPoisonFrom code (wordsTouched t.1 p.2)

/-- Run the work of a unit outside the cores: a translation fault is reported, the event that presents the access waits on the record
and is made again once it is answered, or ends by `fail` where the answer is that it fails (R417, R418). What otherwise cannot be done
yet leaves everything as it was. -/
def State.runUnit (s : State) (die : Nat) (ev : Instr) (fail : State → State) (m : M Unit) : State :=
  let gone (s : State) : State := { s with unitWait := s.unitWait.filter (·.ev != ev) }
  let walk (s : State) : State :=
    match m s with
    | .ok (_, s') => gone s'
    | .error (.xfault x va cause write _) =>
      let r := s.xreport die engineCore x va cause write
      let s := gone r.1
      { s with unitWait := s.unitWait ++ [{ ev := ev, on := r.2 }] }
    | .error _ => s
  match s.unitWait.find? (·.ev == ev) with
  | some w => if w.failed then fail (gone s) else if s.xfaults.any (·.ord == w.on) then s else walk s
  | none => walk s
/-- The record of an access of such a unit that ends with error 0x42 (R411, R417): no agent of the tenant made it (DEDUCED, log 88). -/
def State.unitFailed (s : State) (x : Nat) : State := s.trapRecord x [recWord0 0x42 3 0 0 0 0 3 0 0 0, 0, 0, 0, 0, 0]

def State.dropReach (s : State) (req : Nat) : State := { s with reach := mdel s.reach req }
/-- Word 0 of a record about the agent that a source names, but for code and class. -/
def State.sourceWord (s : State) (src : Source) : Word :=
  match src with
  | .actor c n _ => s.coreWord0 c 0 0 0 n 1
  | .elem c p => s.coreWord0 c 0 0 p 0 0
  | .engine c => s.coreWord0 c 0 0 0 0 2
/-- A new request of a reach unit, by an agent of a core. -/
def State.newReach (s : State) (c : Nat) (r : ReachReq) : State × Nat :=
  let l := (s.own c).launch
  let r := { r with die := dieOf c, ctx := s.ctxOf c, launch := some l, rec0 := s.sourceWord r.src, rec1 := word (s.launch l).team }
  ({ s with reach := mset s.reach s.nextId r, nextId := s.nextId + 1 }, s.nextId)
/-- End a firing of a team that is saved, if it is still in progress. -/
def Launch.endSaved (k : Launch) (c n serial : Nat) : Launch :=
  { k with
    saved := k.saved.map fun p => if p.place.core == c && (p.core.slot n).inFiring serial then { p with core := p.core.endSlot n } else p
    savedBelfry := k.savedBelfry.filter fun o => !(o.core == c && o.slot == n) }
/-- An asynchronous error about an accepted reach request (R280, R281, R417): the record, at the agent that issued it. The team may be
resident, saved or gone; a firing or element of it that the error stops is stopped. -/
def State.reachError (s : State) (r : ReachReq) (code cause : Nat) : State :=
  let c := match r.src with | .actor c _ _ | .elem c _ | .engine c => c
  if r.launch.isNone || (s.core c).own.map (·.launch) == r.launch then s.asyncLate r.src code r.win (0, 0) cause (word r.ofs) 0
  else
    let l := r.launch.getD 0
    let s := s.trapRecord r.ctx [word (r.rec0.toNat + code + 3 * 2 ^ 8), r.rec1, asyncWord2 r.win 0 0 cause, word r.ofs, 0, 0]
    match r.src with
    | .actor c n serial => s.modLaunch l fun k => k.endSaved c n serial
    | .elem _ _ => s.stopTeam l 6 code
    | .engine _ => s

/-! ### RST and RAMO (R269, R270) -/

/-- The address at the far side of a window place, and its descriptor. -/
def State.farSide (s : State) (x idx ofs : Nat) : Nat × List Word :=
  let d := s.window x idx
  ((d.getD 0 0).toNat + ofs, d)

/-- The precise trap of a checked access that the target slice's checker refused (R253): `p` holds the level of the recorded scope. -/
def farRefused (p : Park) (h o os : Nat) : Stop := .trap 0x18 (scopeWord h p.val.toNat (osLvl os)) (word o)

/-- RST (R269). A release through a rem window is a checked access: the firing goes on once the target's slice has checked it (R253). -/
def opRst (f : MForm) (c n : Nat) : M Unit := do
  let s ← get
  let o := s.mOfs f
  let h := f.hnd.toNat
  let sz := 2 ^ f.sz.toNat
  let os := f.os.toNat
  match s.given c n .scope with
  | some p => if !p.done then parkNow c n p else if p.flag then finishNone c n 0 else stop (farRefused p h o os)
  | none =>
    let e ← handle .actor c h o
    if hSpace e < 3 then stop (Who.actor.handle h o)
    else
      match ← locate .actor c h e o sz true with
      | .win sp idx ofs =>
        if ofs % sz != 0 then trapAt 0x12 h o
        else
          let x := s.ctxOf c
          if osRel os then releaseAt c (s.actorSrc c n) (osLvl os) everyLine
          let s ← get
          let far := s.farSide x idx ofs
          let q := s.newReach c { kind := .rst, src := s.actorSrc c n, win := idx, ofs := ofs, size := sz, os := os }
          let v := leBytes sz (s.rd f.sb)
          set (q.1.send (if sp == 3 then
              .remote q.2 (bits (wTgt far.2) 0 9) (bits (wTgt far.2) 9 4) (wRkey far.2) far.1 sz none os (word (leVal v)) 0
            else .write q.2 sp idx far.1 v []))
          if os != 0 && sp == 3 then parkNow c n { kind := .scope, on := q.2 } else finishNone c n 0
      | _ => stop (Who.actor.handle h o)

/-- Flags of a RAMO: those of its rounding, recorded where the actor's instructions record theirs (R123, R238, R270). -/
def ramoFlags (op sz old b : Nat) : Flags := if op == 7 then (amoNew 7 sz old b 0).2 else noFlags
/-- RAMO (R270): the firing waits for the old value. -/
def opRamo (f : MForm) (c n : Nat) : M Unit := do
  let s ← get
  let o := s.mOfs f
  let h := f.hnd.toNat
  let sz := f.sz.toNat
  let os := f.os.toNat
  let op := s.rd (f.sb + 1)
  match (s.given c n .scope).or (s.given c n .ramo) with
  | some p =>
    if !p.done then parkNow c n p
    else if p.kind == .scope then stop (farRefused p h o os)
    else if p.flag then stop (asyncErr 0x41 h 0 0 o none)
    else do
      if osAcq os then acquireAt c (osLvl os) everyLine
      finish c n f.dst (amoDst op sz p.val.toNat) (ramoFlags op sz p.val.toNat (s.rd f.sb))
  | none =>
    if 9 ≤ op || (op == 7 && sz == 3) then trapAt 0x1C h o
    else
      let e ← handle .actor c h o
      if hSpace e != 3 then trapAt 0x1B h o
      else
        match ← locate .actor c h e o (2 ^ sz) true with
        | .win _ idx ofs =>
          if ofs % 2 ^ sz != 0 then trapAt 0x12 h o
          else
            let x := s.ctxOf c
            if osRel os then releaseAt c (s.actorSrc c n) (osLvl os) everyLine
            let s ← get
            let far := s.farSide x idx ofs
            let q := s.newReach c { kind := .ramo, src := s.actorSrc c n, win := idx, ofs := ofs, size := 2 ^ sz, os := os }
            set (q.1.send (.remote q.2 (bits (wTgt far.2) 0 9) (bits (wTgt far.2) 9 4) (wRkey far.2) far.1 (2 ^ sz) (some op) os
              (s.reg c n f.sb) (s.reg c n f.dst)))
            parkNow c n { kind := .ramo, on := q.2 }
        | _ => stop (Who.actor.handle h o)

def execRst (f : MForm) (s : State) : Out := s.runActor s.here.1 s.here.2 (opRst f s.here.1 s.here.2)
def execRamo (f : MForm) (s : State) : Out := s.runActor s.here.1 s.here.2 (opRamo f s.here.1 s.here.2)

/-! ### RSEND (R271 to R275) -/

/-- A request to the damper of a set's home die: the share's die of the launch (R36, R160, R164). -/
def State.dieOfShare (s : State) (l d : Nat) : Nat := (s.launch l).dies.getD d 0
def State.ask (s : State) (r : DReq) : State × Nat :=
  ({ s with dreqs := mset s.dreqs s.nextId r, nextId := s.nextId + 1 }, s.nextId)
/-- The damper that homes a set of a launch; a share the launch has not is answered at share 0. -/
def State.homeOf (s : State) (l : Nat) (set : BitVec 24) : Nat := s.dieOfShare l (bits set.toNat 22 2)
/-- COMMIT-if-LIVE from an agent. -/
def State.askCommit (s : State) (c : Nat) (set : BitVec 24) (src : DFrom) : State × Nat :=
  let l := (s.own c).launch
  s.ask { die := s.homeOf l set, launch := l, kind := .commit, set := set, src := src }

/-- Route prefix and header of a row's cell (R273). -/
structure RowHead where
  far   : Nat
  cnt   : Option Nat
  desc  : List Word
  set   : Nat
  wide  : Bool
  row   : Nat
  ncell : Nat
  len   : Nat
  deriving DecidableEq, Repr

/-- Cell `i` of a row. -/
def rowCell (pod die : Nat) (r : RowHead) (i : Nat) (bytes : List Byte) (bad : Bool) : Cell where
  p0 := word (wRkey r.desc * 2 ^ 32 + bits (wTgt r.desc) 9 4 * 2 ^ 18 + bits (wTgt r.desc) 0 9 * 2 ^ 9 + pod)
  p1 := word (r.far % 2 ^ 52)
  p2 := word (r.cnt.getD 0)
  h0 := word (r.set * 2 ^ 40 + (r.len - 256 * (r.ncell - 1) - 1) * 2 ^ 32 + (r.ncell - 1) * 2 ^ 16 + i)
  h1 := word (b2n bad * 2 ^ 34 + b2n r.wide * 2 ^ 33 + b2n r.cnt.isSome * 2 ^ 32 + r.row)
  die := die
  data := (bytes.drop (256 * i)).take 256 ++ List.replicate (256 - min 256 (bytes.length - 256 * i)) 0

/-- The checks of RSEND at issue, in the order of their codes (R264, R267, R271): the row as it is to be sent. SD counts from the
destination handle's byte 0, and the counter lies within the handle and the window. -/
def rsendPlan (f : XForm) (c n : Nat) : M RowPlan := do
  let s ← get
  let nocnt := ctlF f.ctl 2 1 == 1
  let bad : Stop := .trap 0x1D 0 0
  let len := s.rd f.sc
  let a := s.reg c n f.sa
  let b := s.reg c n f.sb
  let e ← handle (.fixed bad) c (fld b 52 12) (fld b 0 52)
  let sp := hSpace e
  let cofs := s.rd f.sd
  let cwin := bits (hBase e) 0 46 + cofs
  if 3 ≤ sp && hEFV e && hEFMT e != 0 then trapAt 0x13 (fld b 52 12) (fld b 0 52)
  else if !nocnt && 4 ≤ sp then trap 0x1B
  else if len == 0 || 2 ^ 24 < len then stop bad
  else
    let src ← sideRef bad c a len [1, 2] false
    match ← sideRef bad c b len [3, 4, 5] false with
    | .win sp idx ofs =>
      let far := s.farSide (s.ctxOf c) idx ofs
      if !nocnt && (cofs % 8 != 0 || hSize e < cofs + 8 || wSize far.2 < cwin + 8) then stop bad
      else if wRdonly far.2 then trap 0x1F
      else pure (
        { src := src, shnd := fld a 52 12, sofs := fld a 0 52, space := sp, win := idx, ofs := ofs, far := far.1
          cnt := if nocnt then none else some ((far.2.getD 0 0).toNat + cwin), desc := far.2
          set := if ctlF f.ctl 0 1 == 1 then s.rd f.dst % 2 ^ 24 else 0, wide := ctlF f.ctl 1 1 == 1, len := len } : RowPlan)
    | _ => stop bad

/-- A place `n` bytes further on. -/
def placePlus (l : Loc) (n : Nat) : Loc :=
  match l with
  | .sp k off => .sp k (off + n)
  | .mem x va p il => .mem x (va + n) p il
  | .win sp i o => .win sp i (o + n)
/-- Read a row's source as the agent's own read and hand the row to the die's reach unit (R272, R274). -/
def shipRow (r : RowPlan) (c n : Nat) : M Unit := do
  let ncell := cdiv r.len 256
  let cells ← (upTo ncell).mapM fun i =>
    about r.shnd (r.sofs + 256 * i) (readLoc c (placePlus r.src (256 * i)) (min 256 (r.len - 256 * i)))
  let s ← get
  let die := dieOf c
  let row := mgetD s.rowTag die 0
  let p0 := mgetD s.rail die 0
  let bytes := cells.flatMap (·.1)
  let s := (cells.filterMap (·.2)).foldl (fun s mc => s.machineCheck mc.1 (s.ctxOf c) mc.2) s
  let q := s.newReach c { kind := .row, src := s.actorSrc c n, win := r.win, ofs := r.ofs, size := r.len }
  let s := q.1
  let head : RowHead :=
    { far := r.far, cnt := r.cnt, desc := r.desc, set := r.set, wide := r.wide, row := row, ncell := ncell, len := r.len }
  let spoilt (i : Nat) : Bool := (cells[i]?.map (·.2.isSome)).getD false
  let s := if r.space == 3 then
      (upTo ncell).foldl (fun s i => s.send (.cell ((p0 + i) % 16) (rowCell s.pod die head i bytes (spoilt i)))) s
    else s.send (.write q.2 r.space r.win r.far bytes (((upTo ncell).filter spoilt).map fun i => (256 * i, min 256 (r.len - 256 * i))))
  setState { s with rail := mset s.rail die ((p0 + ncell) % 16), rowTag := mset s.rowTag die ((row + 1) % 2 ^ 32) }
  finishNone c n 0

/-- RSEND (R271, R272): checked once, at issue; a SETV row of a nonzero set then waits for its commit answer. -/
def opRsend (f : XForm) (c n : Nat) : M Unit := do
  let s ← get
  match s.given c n .rsend with
  | some p =>
    if !p.done then parkNow c n p
    else match (if p.flag then none else p.row) with
      | some r => shipRow r c n
      | none => finishNone c n 0
  | none =>
    let r ← rsendPlan f c n
    if r.set != 0 then do
      let s ← get
      let q := s.askCommit c (BitVec.ofNat 24 r.set) (.actor c n)
      setState q.1
      parkNow c n { kind := .rsend, on := q.2, row := some r }
    else shipRow r c n

def execRsend (f : XForm) (s : State) : Out := s.runActor s.here.1 s.here.2 (opRsend f s.here.1 s.here.2)

/-! ### COLL (R277 to R279) -/

/-- Element bytes of a collective's TY. -/
def collSize (ty : Nat) : Nat := if ty == 0 then 1 else if ty == 3 then 2 else 4
/-- Elements of a member's source and destination. -/
def collSrc (op n g : Nat) : Nat := if op == 1 then g * n else n
def collDst (op n g : Nat) : Nat := if op == 0 then g * n else n

/-- COLL (R277, R278): the member's part leaves with the bytes of its source as they stand at issue; its places are those that its
references name then (R231). -/
def opColl (f : XForm) (c n : Nat) : M Unit := do
  let s ← get
  let x := s.ctxOf c
  let k := s.ctx x
  let op := ctlF f.ctl 19 3
  let ty := ctlF f.ctl 16 3
  let root := ctlF f.ctl 5 9
  let tag := ctlF f.ctl 0 5
  let cnt := s.rd f.sc
  let g := k.gsize
  let bad : Stop := .trap 0x1D 0 0
  if !k.gv || g ≤ root then trap 0x1E
  else if cnt == 0 || 2 ^ 24 < cnt then stop bad
  else
    let slen := collSrc op cnt g * collSize ty
    -- every member's references are checked, though bcast reads on ROOT alone
    let src ← sideRef bad c (s.reg c n f.sa) slen [1] false
    let dst ← sideRef bad c (s.reg c n f.sb) (collDst op cnt g * collSize ty) [1] true
    let done ← sideRef bad c (s.reg c n f.sd) 8 [1] true
    match dst, done with
    | .mem _ da _ dil, .mem _ ca _ cil =>
      if ca % 8 != 0 then stop bad
      else
        let r ← if op != 3 || k.rank == root then
            about (fld (s.reg c n f.sa) 52 12) (fld (s.reg c n f.sa) 0 52) (readLoc c src slen)
          else pure ([], none)
        let s ← get
        let issued := mgetD (s.ctx x).colls tag []
        let part : CollPart :=
          { op := op, ty := ty, rop := ctlF f.ctl 14 2, root := root, n := cnt, data := r.1, tag := tag, k := issued.length }
        let q := s.newReach c { kind := .coll, src := s.actorSrc c n, size := cnt, part := some part
                                args := [word da, word (b2n dil), word ca, word (b2n cil)] }
        setState ((q.1.modCtx x fun k => { k with colls := mset k.colls tag (issued ++ [part]) }).send (.coll q.2 part))
        finishNone c n 0
    | _, _ => stop bad

def execColl (f : XForm) (s : State) : Out := s.runActor s.here.1 s.here.2 (opColl f s.here.1 s.here.2)

/-- Element `j` of a part, as a code. -/
def collElem (ty : Nat) (d : List Byte) (j : Nat) : Nat := leVal ((d.drop (collSize ty * j)).take (collSize ty))
/-- The fold of one element over the ranks in ascending order (R278): FP32 accumulation, one rounding each. -/
def collFold (ty rop : Nat) (vs : List Nat) : Nat × Flags :=
  match vs with
  | [] => (0, noFlags)
  | v :: r =>
    if ty == 1 then (r.foldl (fun a b => (foldOp 0 0 false rop a b).1) v, noFlags)
    else
      let wide (n : Nat) : Nat := if ty == 3 then n * 65536 else n
      let acc := r.foldl (fun (a : Nat × Flags) b => let q := foldOp 4 0 false rop a.1 (wide b); (q.1, a.2 ||| q.2)) (wide v, noFlags)
      if ty == 3 then let q := bf16.round 0 (fp32.decode acc.1); (q.1, acc.2 ||| q.2)
      else if r.isEmpty then (v, noFlags) else acc

/-- The package and context of a group's member, by the rank table (R268). -/
def State.member (s : State) (x m : Nat) : Nat × Nat :=
  let v := leVal (s.readHome (fld (s.ctx x).rnkt 0 52 + 4 * m) 4 0)
  (bits v 0 9, bits v 9 4)
/-- Has a part the bytes that its member reads (R278)? -/
def partWhole (p : CollPart) (g m : Nat) : Bool :=
  p.data.length == if p.op == 3 && p.root != m then 0 else collSrc p.op p.n g * collSize p.ty
/-- The part of member `m` that a COLL is matched with (R278): the k-th of its tag there. A member of this package has it in this state;
those of other packages send theirs. -/
def State.collPart (s : State) (x : Nat) (own : CollPart) (peers : List (Nat × CollPart)) (m : Nat) : Option CollPart :=
  let at_ := s.member x m
  if m == (s.ctx x).rank then some own
  else if at_.1 == s.pod then (mgetD (s.ctx at_.2).colls own.tag [])[own.k]?
  else (peers.find? fun p => p.1 == m && p.2.tag == own.tag && p.2.k == own.k && partWhole p.2 (s.ctx x).gsize m).map (·.2)
/-- Do two matched collectives agree (R279)? -/
def partsAgree (p q : CollPart) : Bool := p.op == q.op && p.ty == q.ty && p.rop == q.rop && p.root == q.root && p.n == q.n
/-- The destination of member `m` and the flags of its folds (R278). -/
def collResult (own : CollPart) (parts : List CollPart) (m : Nat) : List Byte × Flags :=
  let col (j : Nat) : Nat × Flags := collFold own.ty own.rop (parts.map fun p => collElem own.ty p.data j)
  let folds := if own.op == 1 then (upTo own.n).map fun j => col (m * own.n + j) else (upTo own.n).map col
  match own.op with
  | 0 => (parts.flatMap (·.data), noFlags)
  | 3 => (((parts[own.root]?).map (·.data)).getD [], noFlags)
  | _ => (folds.flatMap fun v => leBytes (collSize own.ty) v.1, joinFlags (folds.map (·.2)))

/-- What a COLL that fails leaves at its destination (R279: undefined). -/
def State.collVoid (s : State) (r : ReachReq) (own : CollPart) : List Byte :=
  (upTo (collDst own.op own.n (s.ctx r.ctx).gsize * collSize own.ty)).map fun i => Config.freeByte s.tick ((r.args.getD 0 0).toNat + i)
/-- What completes a COLL (R279): the destination is performed, an error is recorded, and the completion word is written once. -/
def collEnd (req : Nat) (r : ReachReq) (bytes : List Byte) (fl : Flags) (code cause : Nat) : M Unit := do
  let a (i : Nat) : Nat := (r.args.getD i 0).toNat
  unitWrite (some r.die) r.ctx (a 0) (a 1 == 1) bytes
  modify fun s => ((if code == 0 then s else s.reachError r code cause).dropReach req).pkgRelease r.ctx (a 2)
  unitWrite (some r.die) r.ctx (a 2) (a 3 == 1) (leBytes 8 (1 + 2 * fl.toNat + 256 * code))

/-- COLL_COMPLETE (R278, R279): `peers` are the parts of the members of other packages by rank, as they reached this one; `reached` is
false when a member was unreachable. -/
def execCollComplete (req : Nat) (peers : List (Nat × CollPart)) (reached : Bool) (s : State) : Out :=
  match mget s.reach req with
  | none => .next s
  | some r =>
    match r.part with
    | none => .next s
    | some own =>
      let k := s.ctx r.ctx
      let parts := (upTo k.gsize).filterMap (s.collPart r.ctx own peers)
      if reached && parts.length != k.gsize then .next s
      else
        let code := if !reached then 0x44 else if parts.all (partsAgree own) then 0 else 0x45
        let res := if code == 0 then collResult own parts k.rank
          else (s.collVoid r own, noFlags)
        .next (s.runUnit r.die (.collComplete req peers reached) (fun s => (s.reachError r 0x42 0).dropReach req)
          (collEnd req r res.1 res.2 code (if reached then 0 else 3)))

end Sys2Proof.Machine
end

