-- ==== Sys2Proof/Machine/Matrix.lean ====
section
/-!
DEFINITION. Matrix operations (12): operand slots and tiles (R310 to R313), claims (R315, R316), what a word is checked for
at issue (R317, R327, R329, R450), products and checksums (R318 to R323, R124), tiles to memory (R324, R325), and the
sequencer (R326).
-/
namespace Sys2Proof.Machine

/-! ### Slot descriptors and operands (R310, R311) -/

def dRows (d : Word) : Nat := fld d 0 6 + 1
def dK (d : Word) : Nat := fld d 8 10
def dFmt (d : Word) : Nat := fld d 18 4
def dGeo (d : Word) : Nat := fld d 22 3
/-- Bytes of the elements of an operand, before its scales or headers. -/
def dElems (d : Word) : Nat :=
  if dFmt d == 2 then 2 * dRows d * dK d else if dFmt d == 3 || dFmt d == 4 then dRows d * dK d else dRows d * dK d / 2
/-- Bytes of an operand. -/
def dBytes (d : Word) : Nat :=
  dElems d + (if dFmt d == 2 then 0 else if dFmt d == 6 then 4 * (dRows d * dK d / geoGroup (dGeo d)) else dRows d * dK d / 32)
/-- A valid slot descriptor (R310). -/
def descOk (d : Word) : Bool :=
  fld d 25 39 == 0 && fld d 6 2 == 0 && 1 ≤ dK d && 2 ≤ dFmt d && dFmt d ≤ 6
    && (if dFmt d == 6 then 3 ≤ dGeo d && dGeo d ≤ 5 && dK d % geoGroup (dGeo d) == 0 else dGeo d == 0)
    && (if 3 ≤ dFmt d && dFmt d ≤ 5 then dK d % 32 == 0 else true) && dBytes d ≤ 32768

def Core.opSlot (k : Core) (i : Nat) : OpSlot := mgetD k.op i {}
def Core.tile (k : Core) (i : Nat) : Tile := mgetD k.tiles i {}
def State.modOp (s : State) (c i : Nat) (f : OpSlot → OpSlot) : State :=
  s.modCore c fun k => { k with op := mset k.op i (f (k.opSlot i)) }
def State.modTile (s : State) (c i : Nat) (f : Tile → Tile) : State :=
  s.modCore c fun k => { k with tiles := mset k.tiles i (f (k.tile i)) }

/-- A narrow value under an E8M0 scale, exact; scale 0xFF is NaN (R105, R114). -/
def scaledNum (sc : Nat) (v : Num) : Num := if sc == 255 then .nan else v.scale ((sc : Int) - 127)

/-- Elements [k, k + n) of row r of an operand, exact, within one block of 32 (R311, R319), with the flags of their decode. -/
def OpSlot.elems (o : OpSlot) (r k n : Nat) : List (Num × Flags) :=
  let d := o.desc
  let i := r * dK d + k
  let e := dElems d
  let by_ (a : Nat) : Nat := (bget o.mem a).toNat
  let nib (j : Nat) : Nat := bits (by_ (j / 2)) (4 * (j % 2)) 4
  match dFmt d with
  | 2 => (upTo n).map fun j => (bf16.decode (by_ (2 * (i + j)) + 256 * by_ (2 * (i + j) + 1)), noFlags)
  | 5 =>
    let sc := by_ (e + r * dK d / 32 + k / 32)
    ((q4eValues ((upTo 32).map fun j => nib (i + j))).map fun v => (scaledNum sc v.1, if sc == 255 then noFlags else v.2)).take n
  | 6 =>
    let g := geoGroup (dGeo d)
    (upTo n).map fun j =>
      let a := e + 4 * (r * dK d / g + (k + j) / g)
      let v := int4gBf16 (leVal (bgetN o.mem a 4)) (nib (i + j))
      (bf16.decode v.1, v.2)
  | f =>
    let sc := by_ (e + r * dK d / 32 + k / 32)
    (upTo n).map fun j => (scaledNum sc ((fmtFloat f).decode (by_ (i + j))), noFlags)

/-! ### Claims (R313, R315, R316) -/

/-- Does a launch hold a slot or tile: claimed by it and not being released? -/
def Core.holdsOp (k : Core) (l i : Nat) : Bool := (k.opSlot i).owner == some l && !(k.opSlot i).releasing
def Core.holdsTile (k : Core) (l i : Nat) : Bool := (k.tile i).owner == some l && !(k.tile i).releasing

/-- Fields of the matrix words (R314). -/
def mTile (w : Word) : Nat := fld w 0 3
def mA (w : Word) : Nat := fld w 0 5
def mB (w : Word) : Nat := fld w 5 5
def mC (w : Word) : Nat := fld w 10 3
def mAcc (w : Word) : Bool := fld w 32 1 == 1
def mCk (w : Word) : Bool := fld w 33 1 == 1
def mMaj (w : Word) : Nat := fld w 54 10

/-- Format pairings (R317). -/
def pairOk (q : Bool) (a b : Word) : Bool :=
  dK a == dK b && (if q then dFmt a == 2 && dFmt b == 6
    else (dFmt a == 2 && dFmt b == 2) || (dFmt a == 5 && dFmt b == 5)
      || ((dFmt a == 3 || dFmt a == 4) && (dFmt b == 3 || dFmt b == 4)))

/-- CKV of a tile as the queued operations will leave it, from their encodings (R450). -/
def Core.ckvOf (k : Core) (t : Nat) : Bool :=
  k.seq.foldl (fun v o =>
    if (mMaj o.word == 0x102 || mMaj o.word == 0x103) && mC o.word == t then mCk o.word
    else if mMaj o.word == 0x107 && mTile o.word == t then false else v) (k.tile t).ckv

/-- What claims and descriptors refuse a word for at issue (R317, R329, R450): MMA, MMAQ, MCHK, MFIX, MINJ, MACCZ, MACCST. -/
def Core.matCheck (k : Core) (l : Nat) (w : Word) : Option Nat :=
  let m := mMaj w
  if m == 0x102 || m == 0x103 then
    if !(k.holdsTile l (mC w) && k.holdsOp l (mA w) && k.holdsOp l (mB w)) then some 0x20
    else if !pairOk (m == 0x103) (k.opSlot (mA w)).desc (k.opSlot (mB w)).desc then some 0x23 else none
  else if !k.holdsTile l (mTile w) then some 0x20
  else if (m == 0x104 || m == 0x105) && !k.ckvOf (mTile w) then some 0x25
  else none

/-- What refuses a carried word (R327): the code of its trap, were it issued. -/
def Core.carryCheck (k : Core) (l : Nat) (w : Word) : Option Nat :=
  if mMaj w != 0x102 && mMaj w != 0x103 && mMaj w != 0x107 then some 0x24
  else match decodeWord false false w with
    | .error c => some c
    | .ok _ => k.matCheck l w

/-- The slots (keyed 0–31) and tiles (keyed 32–39) that a carried word names, with their generations (R327). -/
def Core.wordGens (k : Core) (w : Word) : List (Nat × Nat) :=
  if mMaj w == 0x107 then [(32 + mTile w, (k.tile (mTile w)).gen)]
  else [(mA w, (k.opSlot (mA w)).gen), (mB w, (k.opSlot (mB w)).gen), (32 + mC w, (k.tile (mC w)).gen)]

/-! ### Issue (R314 to R316, R326) -/

/-- Has the sequencer queue room (R326)? -/
def Core.seqRoom (k : Core) : Bool := k.seq.length < 16
def State.enqueue (s : State) (c : Nat) (o : MatOp) : State := s.modCore c fun k => { k with seq := k.seq ++ [o] }

/-- The registers that a matrix word writes when it completes (R437). -/
def matDsts (w : Word) : List Nat :=
  let d := fld w 49 5
  if mMaj w == 0x104 then [d, (d + 1) % 32] else if mMaj w == 0x100 || mMaj w == 0x105 then [d] else []
/-- An operation of an actor enters the queue; the firing goes on, or waits at a full queue. What the operation writes to registers it
writes when it completes (R437). -/
def issueOp (c n : Nat) (o : MatOp) : M Unit := do
  let s ← get
  let k := s.core c
  if !k.seqRoom then parkFor .seqQueue
  else
    setState (s.enqueue c { o with src := s.actorSrc c n, launch := (s.own c).launch })
    match matDsts o.word with
    | [] => pure ()
    | rs => modify fun s => s.modSlot c n fun x => { x with pend := x.pend ++ [.matrix rs] }
    finishNone c n 0

/-- OCLAIM (R315): the claim is made at issue, since no queued operation names an unclaimed slot or tile; DST is written in the
queue's order (R326, R437). -/
def opOclaim (f : XForm) (c n : Nat) : M Unit := do
  let s ← get
  let i := ctlF f.ctl 0 5
  let tile := ctlF f.ctl 5 1 == 1
  let l := (s.own c).launch
  let desc := s.reg c n f.sa
  let k := s.core c
  if (if tile then (k.tile i).releasing else (k.opSlot i).releasing) then stop (.wait { kind := .oclaim, flag := tile, on := i })
  else if (if tile then (k.tile i).owner else (k.opSlot i).owner).isSome then trap 0x22
  else if !tile && !descOk desc then trap 0x23
  else
    let g := ((if tile then (k.tile i).gen else (k.opSlot i).gen) + 1) % 2 ^ 32
    modify fun s => if tile then s.modTile c i fun t => { t with owner := some l, gen := g }
      else s.modOp c i fun o => { o with owner := some l, gen := g, desc := desc }
    issueOp c n { word := encX 0x100#10 f, a := word g }

/-- ORELEASE (R316). -/
def opOrelease (f : XForm) (c n : Nat) : M Unit := do
  let s ← get
  let i := ctlF f.ctl 0 5
  let tile := ctlF f.ctl 5 1 == 1
  let l := (s.own c).launch
  let k := s.core c
  if !(if tile then k.holdsTile l i else k.holdsOp l i) then trap 0x20
  else if !k.seqRoom then parkFor .seqQueue
  else
    modify fun s => if tile then s.modTile c i fun t => { t with releasing := true }
      else s.modOp c i fun o => { o with releasing := true }
    issueOp c n { word := encX 0x101#10 f }

/-- MMA, MMAQ, MCHK, MFIX, MINJ and MACCZ: checked and queued, with the registers read at issue. -/
def opQueued (w a b : Word) (c n : Nat) : M Unit := do
  let s ← get
  match (s.core c).matCheck (s.own c).launch w with
  | some code => trap code
  | none => issueOp c n { word := w, a := a, b := b }

/-- MCHK (R321). -/
def opMchk (f : XForm) (c n : Nat) : M Unit := opQueued (encX 0x104#10 f) 0 0 c n
/-- MFIX (R322): the masks are read at issue. -/
def opMfix (f : XForm) (c n : Nat) : M Unit := do
  let s ← get
  opQueued (encX 0x105#10 f) (s.reg c n f.sa) (s.reg c n (f.sa + 1)) c n

/-- Rows, row bytes and element bytes of a MACCST by OUTF (R324). -/
def stShape (w : Word) : Nat × Nat × Nat :=
  let outf := fld w 3 2
  if outf == 2 then (6, 256, 4)
  else let e := if outf == 1 then 2 else 4
    (fld w 5 6 + 1, (fld w 11 6 + 1) * e, e)
/-- Page formats that a MACCST may write. -/
def stFmt (w : Word) (fmt : Nat) : Bool := fmt == 0 || fmt == (if fld w 3 2 == 1 then 2 else 1)

/-- MACCST (R324): what the word, the handle and the claim declare is checked at issue. -/
def opMaccst (f : XForm) (c n : Nat) : M Unit := do
  let s ← get
  let w := encX 0x108#10 f
  let sh := stShape w
  let p := s.rd f.sb
  let r := s.reg c n f.sa
  let h := fld r 52 12
  let o := fld r 0 52
  if p % sh.2.2 != 0 || p < sh.2.1 || (fld w 3 2 == 2 && (fld w 5 6 != 0 || fld w 11 6 != 0)) then trap 0x05
  else
    let e ← handle .actor c h o
    if 3 ≤ hSpace e then stop (Who.actor.handle h o)
    else
      let l ← locate .actor c h e o ((sh.1 - 1) * p + sh.2.1) true
      if hEFV e && !stFmt w (hEFMT e) then stop (Who.actor.format h o)
      else
        let s ← get
        match (s.core c).matCheck (s.own c).launch w with
        | some code => trap code
        | none => issueOp c n { word := w, a := r, b := word p, to_ := l, efmt := if hEFV e then some (hEFMT e) else none }

/-- MFENCE (R325): the firing waits for the operations that reached the queue before it, then drops the lines that their
MACCSTs wrote. `on` counts the operations still ahead. -/
def opMfence (c n : Nat) : M Unit := do
  let s ← get
  let drop : M Unit := do
    modify fun s =>
      let lines := (s.core c).stLines
      (s.purgeL1 c lines.contains).modCore c fun k => { k with stLines := [] }
    finishNone c n 0
  match s.given c n .matrix with
  | some p => if p.done then drop else parkNow c n p
  | none =>
    let ahead := (s.core c).seq.length
    if ahead == 0 then drop else parkNow c n { kind := .matrix, flag := true, on := ahead }

def execOclaim (f : XForm) (s : State) : Out := s.runActor s.here.1 s.here.2 (opOclaim f s.here.1 s.here.2)
def execOrelease (f : XForm) (s : State) : Out := s.runActor s.here.1 s.here.2 (opOrelease f s.here.1 s.here.2)
def execMma (f : XForm) (s : State) : Out := s.runActor s.here.1 s.here.2 (opQueued (encX 0x102#10 f) 0 0 s.here.1 s.here.2)
def execMmaq (f : XForm) (s : State) : Out := s.runActor s.here.1 s.here.2 (opQueued (encX 0x103#10 f) 0 0 s.here.1 s.here.2)
def execMchk (f : XForm) (s : State) : Out := s.runActor s.here.1 s.here.2 (opMchk f s.here.1 s.here.2)
def execMfix (f : XForm) (s : State) : Out := s.runActor s.here.1 s.here.2 (opMfix f s.here.1 s.here.2)
def execMinj (f : XForm) (s : State) : Out := s.runActor s.here.1 s.here.2 (opQueued (encX 0x106#10 f) 0 0 s.here.1 s.here.2)
def execMaccz (f : XForm) (s : State) : Out := s.runActor s.here.1 s.here.2 (opQueued (encX 0x107#10 f) 0 0 s.here.1 s.here.2)
def execMaccst (f : XForm) (s : State) : Out := s.runActor s.here.1 s.here.2 (opMaccst f s.here.1 s.here.2)
def execMfence (s : State) : Out := s.runActor s.here.1 s.here.2 (opMfence s.here.1 s.here.2)

/-! ### Products (R124, R318 to R320) -/

/-- Exact sum of values; a NaN, or infinities of both signs, give NaN. -/
def sumNum : List Num → Num × Flags
  | [] => (.fin false 0 0, noFlags)
  | v :: r => r.foldl (fun a b => let q := a.1.add 0 b; (q.1, a.2 ||| q.2)) (v, noFlags)
/-- The sum S of a chunk's products (R124). Invalid is recorded for 0 × ∞ and for infinities of both signs. -/
def chunkSum (a b : List Num) : Num × Flags :=
  let ps := List.zipWith (fun x y => x.mul y) a b
  let signs := ps.filterMap fun p => match p.1 with | .inf g => some g | _ => none
  let fl := joinFlags (ps.map (·.2)) ||| (if signs.contains true && signs.contains false then invalid else noFlags)
  ((sumNum (ps.map (·.1))).1, fl)
/-- A tile element as an exact value. -/
def Tile.num (t : Tile) (i j : Nat) : Num := fp32.decode (mgetD t.acc (64 * i + j) 0).toNat
/-- A 32-bit code. -/
def code32 (n : Nat) : BitVec 32 := BitVec.ofNat 32 n
/-- A vector of checksum state as exact values. -/
def vecNum (v : AMap (BitVec 32)) (i : Nat) : Num := fp32.decode (mgetD v i 0).toNat

/-- Fold a chunk's exact terms into a checksum value: one rounding, no flag (R320). -/
def ckTerm (old : Num) (xs ys : List Num) : BitVec 32 :=
  let t := (sumNum (List.zipWith (fun x y => (x.mul y).1) xs ys)).1
  code32 (fp32.round 0 (old.add 0 t).1).1
/-- Column sums over the rows of an operand's chunk. -/
def colSums (rows : List (List Num)) (n : Nat) : List Num := (upTo n).map fun k => (sumNum (rows.map fun r => r.getD k .nan)).1
/-- ck_fold of a chunk (R320). -/
def ckFold (t : Tile) (a b : List (List Num)) (n : Nat) : Tile :=
  let abs' (rows : List (List Num)) : List (List Num) := rows.map fun r => r.map Num.abs
  let bs := colSums b n
  let ba := colSums (abs' b) n
  let as' := colSums a n
  let aa := colSums (abs' a) n
  let fold (v : AMap (BitVec 32)) (rows : List (List Num)) (w : List Num) : AMap (BitVec 32) :=
    (upTo rows.length).foldl (fun m i => mset m i (ckTerm (vecNum v i) (rows.getD i []) w)) v
  { t with refR := fold t.refR a bs, absR := fold t.absR (abs' a) ba, refC := fold t.refC b as', absC := fold t.absC (abs' b) aa }

/-- One K-chunk of an MMA or MMAQ over a tile: the tile and the flags of its roundings (R318). -/
def mmaChunk (w : Word) (oa ob : OpSlot) (t : Tile) (chunk : Nat) : Tile × Flags :=
  let m := dRows oa.desc
  let n := dRows ob.desc
  let k := dK oa.desc
  let len := min 32 (k - 32 * chunk)
  let ra := (upTo m).map fun i => oa.elems i (32 * chunk) len
  let rb := (upTo n).map fun j => ob.elems j (32 * chunk) len
  let va := ra.map (·.map (·.1))
  let vb := rb.map (·.map (·.1))
  let fl := joinFlags ((ra ++ rb).map fun r => joinFlags (r.map (·.2)))
  let t := if chunk != 0 then t
    else if mCk w then
      (if !mAcc w || !t.ckv || t.cm != m || t.cn != n then
        { t with refR := [], absR := [], refC := [], absC := [], cm := m, cn := n, ckv := true }
       else t)
    else { t with ckv := false }
  let r := (upTo (m * n)).foldl (fun (x : Tile × Flags) ij =>
    let i := ij / n
    let j := ij % n
    let sm := chunkSum (va.getD i []) (vb.getD j [])
    let v : Num × Flags := if chunk == 0 && !mAcc w then (sm.1, noFlags) else (x.1.num i j).add 0 sm.1
    let q := fp32.round 0 v.1
    ({ x.1 with acc := mset x.1.acc (64 * i + j) (code32 q.1)
                poison := if chunk == 0 && !mAcc w then ldel x.1.poison (64 * i + j) else x.1.poison
                src := if chunk == 0 && !mAcc w then mdel x.1.src (64 * i + j) else x.1.src },
     x.2 ||| sm.2 ||| v.2 ||| q.2)) (t, fl)
  (if mCk w then ckFold r.1 va vb len else r.1, r.2)

/-! ### Checks and corrections (R321 to R323) -/

/-- One residue: the exact difference, whether it strays beyond 2^(−T) of the absolute reference. -/
def residue (t : Nat) (vals : List Num) (ref abs : Num) : Num × Bool :=
  let d := (sumNum (vals ++ [ref.neg])).1
  (d, match d with
    | .fin .. => (abs.scale (-(t : Int))).lt d.abs
    | _ => true)
/-- MCHK: the tile with its residues, and the row and column masks. -/
def mchk (t : Tile) (tol : Nat) : Tile × Nat × Nat :=
  let rows := (upTo t.cm).map fun i => residue tol ((upTo t.cn).map fun j => t.num i j) (vecNum t.refR i) (vecNum t.absR i)
  let cols := (upTo t.cn).map fun j => residue tol ((upTo t.cm).map fun i => t.num i j) (vecNum t.refC j) (vecNum t.absC j)
  let vec (old : AMap (BitVec 32)) (rs : List (Num × Bool)) : AMap (BitVec 32) :=
    (upTo rs.length).foldl (fun m i => mset m i (code32 (fp32.round 0 (rs.getD i (.nan, true)).1).1)) old
  let mask (rs : List (Num × Bool)) : Nat := packLanes 1 (rs.map fun r => b2n r.2)
  ({ t with resR := vec t.resR rows, resC := vec t.resC cols }, mask rows, mask cols)
/-- MFIX: the tile, DST and the flags. -/
def mfix (t : Tile) (a b : Word) : Tile × Nat × Flags :=
  let i := Nat.log2 a.toNat
  let j := Nat.log2 b.toNat
  if ones 64 a.toNat == 1 && ones 64 b.toNat == 1 && i < t.cm && j < t.cn then
    let d := (t.num i j).add 0 (vecNum t.resR i).neg
    let q := fp32.round 0 d.1
    ({ t with acc := mset t.acc (64 * i + j) (code32 q.1) }, 0, q.2 ||| d.2)
  else (t, 1, noFlags)
/-- MINJ: bit BIT of acc[ROW][COL] inverted. -/
def minj (t : Tile) (w : Word) : Tile :=
  let i := 64 * fld w 3 6 + fld w 9 6
  { t with acc := mset t.acc i (mgetD t.acc i 0 ^^^ code32 (2 ^ fld w 15 5)) }
/-- MACCZ (R324). -/
def maccz (t : Tile) : Tile :=
  { t with acc := [], refR := [], absR := [], resR := [], refC := [], absC := [], resC := [], ckv := false, poison := [], src := [] }

/-! ### The sequencer (R326, R329) -/

/-- A completed operation of a firing still in progress writes its registers (R437). -/
def State.answerMat (s : State) (o : MatOp) (vals : List Word) : State :=
  match o.src with
  | .actor c n serial =>
    if (s.slot c n).inFiring serial then
      s.modSlot c n fun x =>
        { ((matDsts o.word).zip vals).foldl (fun x rv => x.setReg rv.1 rv.2) x with
          pend := lremove (· == .matrix (matDsts o.word)) x.pend }
    else s
  | _ => s

/-- The operation in hand is complete: it leaves the queue, MFENCEs count it, and the matrix port hears of its word. -/
def State.seqDone (s : State) (c status : Nat) : State :=
  let o := ((s.core c).seq.headD {})
  let s := s.modCore c fun k =>
    { k with
      seq := k.seq.drop 1
      slots := k.slots.map fun q =>
        (q.1, match q.2.park with
          | some p => if p.kind == .matrix && p.flag && !p.done then
              { q.2 with park := some (if p.on ≤ 1 then { p with done := true } else { p with on := p.on - 1 }) } else q.2
          | none => q.2) }
  if o.port then
    s.modElem c 61 fun e =>
      { e with acks := e.acks - 1
               outQ := match o.echo with
                 | some t => e.outQ ++ [(some { t with pay := BitVec.ofNat 512 status }, none)]
                 | none => e.outQ }
  else s

/-- An asynchronous error of the operation in hand (R329): it is abandoned. -/
def State.seqError (s : State) (c code : Nat) (o : MatOp) (hnd : Nat) (pg : Nat × Nat) (ofs : Nat) (mc : Option (Nat × Option Nat)) : State :=
  let s := match mc with
    | some (k, pa) => s.machineCheck k (s.launch o.launch).ctx pa
    | none => s
  (s.seqDone c code).asyncLate o.src code hnd pg 0 (word ofs) o.word

/-- The machine-check code of a poisoned word of an operand slot, or of a poisoned element of a tile (R425). -/
def OpSlot.code (o : OpSlot) (c w : Nat) : Nat := mgetD o.src w (4 * 2 ^ 12 + c)
def Tile.code (t : Tile) (c i : Nat) : Nat := mgetD t.src i (5 * 2 ^ 12 + c)
/-- A poisoned word in the 64-byte lines of an operand's extent (R329). -/
def OpSlot.bad (o : OpSlot) : Option Nat := o.poison.find? fun w => w / 8 * 64 < dBytes o.desc
/-- The bytes of an operand that a K-chunk reads, by row (R311, R319): runs of elements, and of their scales or headers. -/
def OpSlot.chunkRuns (o : OpSlot) (chunk : Nat) : List (Nat × Nat) :=
  let d := o.desc
  let len := min 32 (dK d - 32 * chunk)
  (upTo (dRows d)).flatMap fun r =>
    let i := r * dK d + 32 * chunk
    match dFmt d with
    | 2 => [(2 * i, 2 * len)]
    | 6 =>
      let g := geoGroup (dGeo d)
      let h := r * dK d / g + 32 * chunk / g
      [(i / 2, len / 2), (dElems d + 4 * h, 4 * (r * dK d / g + (32 * chunk + len - 1) / g + 1 - h))]
    | f => [(if f == 5 then i / 2 else i, if f == 5 then len / 2 else len), (dElems d + r * dK d / 32 + chunk, 1)]
/-- A poisoned word that a K-chunk reads. -/
def OpSlot.badAt (o : OpSlot) (chunk : Nat) : Option Nat :=
  if o.poison.isEmpty then none
  else o.poison.find? fun w => (o.chunkRuns chunk).any fun r => 8 * w < r.1 + r.2 && r.1 < 8 * w + 8
/-- A poisoned element of the tile that a K-chunk of an `m` by `n` product accumulates into. -/
def Tile.badAt (t : Tile) (w : Word) (m n chunk : Nat) : Option Nat :=
  if chunk == 0 && !mAcc w then none else t.poison.find? fun i => i / 64 < m && i % 64 < n
/-- The machine-check code of an error that ends a product at a K-chunk (R329). -/
def chunkError (c : Nat) (w : Word) (a b : OpSlot) (t : Tile) (chunk : Nat) : Option Nat :=
  ((a.badAt chunk).map (a.code c)).or (((b.badAt chunk).map (b.code c)).or
    ((t.badAt w (dRows a.desc) (dRows b.desc) chunk).map (t.code c)))

/-- MACCST as one access at the homes of its bytes (R324). -/
def maccst (c : Nat) (o : MatOp) : M Unit := do
  let s ← get
  let t := (s.core c).tile (mTile o.word)
  let sh := stShape o.word
  let h := fld o.a 52 12
  let ofs := fld o.a 0 52
  let p := o.b.toNat
  let l := o.to_
  match l with
  | .mem x va _ _ =>
    (upTo sh.1).forM fun r => (pieces (va + r * p) sh.2.1).forM fun q => do
      let pg ← pageFmt c (.mem x q.1 3 false) true
      if !stFmt o.word pg.1 || (o.efmt.isSome && o.efmt != some pg.1) then stop (asyncErr 0x40 h pg.1 pg.2 ofs none)
      else pure ()
  | _ => pure ()
  let row (r : Nat) : List (Nat × Flags) :=
    let vals := if fld o.word 3 2 == 2 then
        (upTo 64).map fun j => (mgetD (([t.refR, t.refC, t.absR, t.absC, t.resR, t.resC]).getD r []) j 0).toNat
      else (upTo (sh.2.1 / sh.2.2)).map fun j => (mgetD t.acc (64 * r + j) 0).toNat
    if fld o.word 3 2 == 1 then vals.map fun v => bf16.round 0 (fp32.decode v) else vals.map fun v => (v, noFlags)
  (upTo sh.1).forM fun r => do
    let vs := row r
    let bad := if fld o.word 3 2 == 2 then [] else (upTo vs.length).filter fun j => t.poison.contains (64 * r + j)
    let bytes := vs.flatMap fun v => leBytes sh.2.2 v.1
    modify fun s => s.record61 c (joinFlags (vs.map (·.2)))
    match l with
    | .sp k off => do
      modify fun s => s.spWrite k (off + r * p) bytes
      bad.forM fun j => modify fun s => s.addSpPoison k (t.code c (64 * r + j)) (wordsTouched (off + r * p + sh.2.2 * j) sh.2.2)
    | .mem x va _ il =>
      (pieces (va + r * p) bytes.length).forM fun q => do
        let a ← unitXlate (some (dieOf c)) x q.1 il true
        let s ← get
        setState ((s.writeHome a.1 ((bytes.drop (q.1 - (va + r * p))).take q.2) a.2).modCore c fun k =>
          { k with stLines := (linesOf a.1 q.2).foldl ladd k.stLines })
        bad.forM fun j =>
          let b := va + r * p + sh.2.2 * j
          if q.1 ≤ b && b < q.1 + q.2 then
            modify fun s => s.addPoisonFrom (t.code c (64 * r + j)) (wordsTouched (a.1 + (b - q.1)) sh.2.2)
          else pure ()
    | .win .. => pure ()

/-- Perform the operation at the head of a sequencer's queue: one K-chunk of a product, or the whole of any other. -/
def seqStep (c : Nat) (o : MatOp) (s : State) : State :=
  let k := s.core c
  let w := o.word
  match mMaj w with
  | 0x100 => (s.answerMat o [o.a]).seqDone c 0
  | 0x101 =>
    let i := fld w 0 5
    let s := if fld w 5 1 == 1 then s.modTile c i fun t => { t with owner := none, releasing := false }
      else s.modOp c i fun t => { t with owner := none, releasing := false }
    s.seqDone c 0
  | 0x104 =>
    let t := k.tile (mTile w)
    if !t.ckv then (s.answerMat o [BitVec.allOnes 64, BitVec.allOnes 64]).seqDone c 0
    else
      let r := mchk t (fld w 3 6)
      ((s.modTile c (mTile w) fun _ => r.1).answerMat o [word r.2.1, word r.2.2]).seqDone c 0
  | 0x105 =>
    let t := k.tile (mTile w)
    if !t.ckv then (s.answerMat o [1]).seqDone c 0
    else
      let r := mfix t o.a o.b
      (((s.modTile c (mTile w) fun _ => r.1).record61 c r.2.2).answerMat o [word r.2.1]).seqDone c 0
  | 0x106 => (s.modTile c (mTile w) fun t => minj t w).seqDone c 0
  | 0x107 => (s.modTile c (mTile w) maccz).seqDone c 0
  | 0x108 =>
    match maccst c o s with
    | .ok (_, s') => s'.seqDone c 0
    | .error (.xfault x va cause write _) =>
      let (s, n) := s.xreport (dieOf c) c x va cause write
      s.modCore c fun k => { k with seq := lreplace (fun _ => true) (fun q => { q with xwait := some n }) k.seq }
    | .error (.async code h fmt geo _ ofs mc) => s.seqError c code o h (fmt, geo) ofs.toNat mc
    | .error _ => s
  | _ =>
    let a := k.opSlot (mA w)
    let b := k.opSlot (mB w)
    let first := if o.chunk == 0 then (a.bad.map (a.code c)).or (b.bad.map (b.code c)) else none
    match first, chunkError c w a b (k.tile (mC w)) o.chunk with
    | some code, _ => s.seqError c 0x41 o 0 (0, 0) 0 (some (code, none))
    -- an error met during the chunks: the tile is lost (R329)
    | none, some code =>
      (s.modTile c (mC w) fun t =>
        { t with poison := upTo 4096, src := (upTo 4096).map fun i => (i, code), ckv := false }).seqError c 0x41 o 0 (0, 0) 0 (some (code, none))
    | none, none =>
      let r := mmaChunk w a b (k.tile (mC w)) o.chunk
      let s := (s.modTile c (mC w) fun _ => r.1).record61 c r.2
      if dK a.desc ≤ 32 * (o.chunk + 1) then s.seqDone c 0
      else s.modCore c fun k => { k with seq := lreplace (fun _ => true) (fun q => { q with chunk := o.chunk + 1 }) k.seq }

/-- Is a matrix operation one that must be complete before a save: MCHK, MFIX, MINJ, MACCZ, MACCST (R330)? -/
def MatOp.must (o : MatOp) : Bool := 0x104 ≤ mMaj o.word && mMaj o.word ≤ 0x108
/-- SEQUENCER_OPERATION (R326): the sequencer of a core performs the next operation, in arrival order. A product is performed
K-chunk by K-chunk, so that pre-emption may come between chunks (R309, R330). -/
def execSequencerOperation (core : Nat) (s : State) : Out :=
  match (s.core core).seq with
  | [] => .next s
  | o :: _ =>
    if o.xwait.isSome then .next s
    -- once the drain budget has run out, a product starts only on behalf of an operation that must be complete (R330)
    else if o.chunk == 0 && (s.launch o.launch).phase == .halted && !((s.core core).seq.any MatOp.must) then .next s
    else .next (seqStep core o s)

end Sys2Proof.Machine
end

