-- ==== Sys2Proof/Machine/Copy.lean ====
section
/-!
DEFINITION. Copies (11): request packets and their checks (R286 to R288), acceptance and fences (R285, R290, R300), the copy
engine (R289 to R297, R327), XFER, XIM2C, GATH, FENCEQ and DRAIN (R298 to R304).
-/
namespace Sys2Proof.Machine

/-! ### The packet (R286, R287) -/

def pSeq (w : Word) : Nat := fld w 40 24
def pLen (w : Word) : Nat := fld w 16 24 + 1
def pQ (w : Word) : Nat := fld w 13 3
def pScp (w : Word) : Nat := fld w 10 3
def pTag (w : Word) : Nat := fld w 8 2
def pFollow (w : Word) : Bool := fld w 7 1 == 1
def pAppend (w : Word) : Bool := fld w 6 1 == 1
def pStamp (w : Word) : Bool := fld w 5 1 == 1
def pDk (w : Word) : Nat := fld w 3 2
def pFence (w : Word) : Bool := fld w 1 2 == 1
/-- Handle index and byte offset of a packet reference. -/
def pHnd (w : Word) : Nat := fld w 36 12
def pOfs (w : Word) : Nat := fld w 0 36
/-- Slot or tile, and byte offset in it, of W2 with DK 1 or 2. -/
def pIdx (dk : Nat) (w2 : Word) : Nat := if dk == 1 then fld w2 0 5 else fld w2 0 3
def pDofs (dk : Nat) (w2 : Word) : Nat := if dk == 1 then fld w2 5 15 else fld w2 3 14
/-- Byte of the stamp from the destination's first byte (R291). -/
def stampAt (w0 : Word) : Nat := 8 * cdiv (pLen w0) 8

/-- The first row of R288: reserved fields and combinations that the packet alone shows. -/
def packetBad (w0 w1 w2 w3 : Word) : Bool :=
  let dk := pDk w0
  let fence := pFence w0
  fld w0 0 1 != 0 || 2 ≤ fld w0 1 2 || dk == 3 || pTag w0 == 3
    || (if pStamp w0 then pScp w0 == 0 || 6 ≤ pScp w0 else pScp w0 != 0)
    || (dk != 0 && pStamp w0) || (!pAppend w0 && fld w1 48 16 != 0) || (!pFollow w0 && w3 != 0)
    || (if fence then dk != 0 || pStamp w0 || pTag w0 != 0 || pLen w0 != 1 || fld w1 0 48 != 0 || fld w2 8 56 != 0
        else if dk == 0 then fld w2 48 16 != 0 else if dk == 1 then fld w2 20 44 != 0 else fld w2 17 47 != 0)

/-- How a failed check of R288 is reported: XFER's trap, or XREQ's element fault. -/
def packetStop (elem : Bool) (code h o : Nat) : Stop :=
  if elem then
    hFault (if code == 0x16 then 0x29 else if code == 0x20 then 0x2B else if code == 0x11 then 0x38 else 0x39) h o
  else .trap code (word h) (word o)

/-- Copies do not consult EFV and EFMT (R285). -/
def noEfmt (e : List Word) : List Word := e.set 1 ((e.getD 1 0) &&& word (2 ^ 52 - 1))
/-- The byte address of a place, for its alignment. -/
def placeAddr : Loc → Nat
  | .sp _ off => off
  | .mem _ va _ _ => va
  | .win _ _ ofs => ofs
def placeIsWin : Loc → Bool
  | .win .. => true
  | _ => false
/-- Does an append index lie in the core's scratchpad (R288)? -/
def Core.apOk (k : Core) (i : Nat) : Bool := 8 * i + 8 ≤ k.nsp * 32768

/-- Check a packet at acceptance (R288), in the order of the table, and make the request. -/
def checkPacket (elem : Bool) (c : Nat) (src : Source) (w0 w1 w2 w3 : Word) : M CopyReq := do
  let who := if elem then Who.elem else Who.actor
  let n := pLen w0
  let dk := pDk w0
  let h1 := pHnd w1
  let h2 := pHnd w2
  if packetBad w0 w1 w2 w3 then stop (packetStop elem 0x16 0 0)
  else
    let ft ← (if pFence w0 then pure (Loc.sp c 0, Loc.sp c 0) else do
      let e1 ← handle who c h1 (pOfs w1)
      let a ← locate who c h1 (noEfmt e1) (pOfs w1) n false
      let tagOk := match a with | .sp _ off => off % 8 == 0 && pOfs w1 % 8 == 0 && n % 8 == 0 | _ => false
      if pTag w0 != 0 && !tagOk then stop (packetStop elem 0x16 h1 (pOfs w1))
      else if dk == 0 then do
        let e2 ← handle who c h2 (pOfs w2)
        let b ← locate who c h2 (noEfmt e2) (pOfs w2) (if pStamp w0 then stampAt w0 + 8 else n) true
        if (placeIsWin a && placeIsWin b) || (pStamp w0 && (placeAddr b) % 8 != 0) then stop (packetStop elem 0x16 h2 (pOfs w2))
        else pure (a, b)
      else if (if dk == 1 then 32768 else 16384) < pDofs dk w2 + n then stop (packetStop elem 0x11 0 0)
      else pure (a, Loc.sp c 0))
    let s ← get
    let k := s.core c
    let l := (s.own c).launch
    if pAppend w0 && !k.apOk (fld w1 48 16) then stop (packetStop elem 0x11 0 0)
    else if !pFence w0 && ((dk == 1 && !k.holdsOp l (pIdx 1 w2)) || (dk == 2 && !k.holdsTile l (pIdx 2 w2))) then
      stop (packetStop elem 0x20 0 0)
    else
      match (if pFollow w0 then k.carryCheck l w3 else none) with
      | some code => stop (if elem then .fault 0x2C 0 0 (word code) 0 0 else .trap code 0 0)
      | none =>
        pure { kind := if pFence w0 then .fence else .copy, w0 := w0, w1 := w1, w2 := w2, w3 := w3, src := src
               from_ := ft.1, to_ := ft.2
               gen := if dk == 1 then (k.opSlot (pIdx 1 w2)).gen else if dk == 2 then (k.tile (pIdx 2 w2)).gen else 0
               fgens := if pFollow w0 then k.wordGens w3 else [] }

/-! ### Acceptance (R285, R290, R300) -/

def Core.queue (k : Core) (q : Nat) : List CopyReq := mgetD k.queues q []
def Core.qRoom (k : Core) (q : Nat) : Bool := (k.queue q).length < 16
/-- Every request of a core that is not complete. -/
def Core.requests (k : Core) : List CopyReq := k.queues.flatMap (·.2)
def Core.open_ (k : Core) (id : Nat) : Bool := k.requests.any (·.id == id)
/-- The queues that a fence joins. -/
def CopyReq.joins (r : CopyReq) (q : Nat) : Bool := r.kind == .fence && (pQ r.w0 == q || bitAt (fld r.w2 0 8) q)

/-- Enter a request in its queue. It is behind the fences that have joined the queue, and a fence counts the requests ahead of
it in the queues that it joins. -/
def State.accept (s : State) (c : Nat) (r : CopyReq) : State :=
  let k := s.core c
  let q := pQ r.w0
  let r := { r with
    id := s.nextId
    fences := (k.requests.filter fun f => f.joins q).map (·.id)
    ahead := if r.kind == .fence then ((upTo 8).filter r.joins).flatMap fun j => (k.queue j).map (·.id) else [] }
  { s with nextId := s.nextId + 1 }.modCore c fun k => { k with queues := mset k.queues q (k.queue q ++ [r]) }

/-! ### The engine (R289 to R297) -/

def State.modHead (s : State) (c q : Nat) (f : CopyReq → CopyReq) : State :=
  s.modCore c fun k => { k with queues := mset k.queues q (match k.queue q with | [] => [] | r :: rs => f r :: rs) }

/-- Read bytes at their homes, never from an L1, with the machine check of poison met. -/
def homeBytes (c : Nat) (l : Loc) (n : Nat) : M (List Byte × Option (Nat × Option Nat)) :=
  match l with
  | .sp k off => do
    let s ← get
    pure (s.spRead k off n, s.spPoison k off n)
  | .mem x va _ _ => unitRead (some (dieOf c)) x va n
  | .win .. => pure (List.replicate n 0, none)
/-- Write bytes at their homes; `bad` is the machine-check code of bytes that are poisoned, whose mark goes with them (R289). -/
def homePut (c : Nat) (l : Loc) (bs : List Byte) (bad : Option Nat) : M Unit :=
  match l with
  | .sp k off => modify fun s => s.spWriteMarked k off bs fun _ => bad
  | .mem x va _ il =>
    -- the issuing core's L1 keeps no copy of a line that its engine writes, so that a `.core` acquire is enough (R291, R292)
    (pieces va bs.length).forM fun p => do
      let t ← atHome c x p.1 il true
      modify fun s =>
        let s := s.writeHome t.1 ((bs.drop (p.1 - va)).take p.2) t.2
        match bad with
        | some code => s.addPoisonFrom code (wordsTouched t.1 p.2)
        | none => s
  | .win .. => pure ()

/-- Write bytes of an operand slot, with their poison mark. -/
def OpSlot.put (o : OpSlot) (off : Nat) (bs : List Byte) (bad : Option Nat) : OpSlot :=
  let o := { o with mem := bsetN o.mem off bs }
  match bad with
  | some code =>
    { o with poison := (wordsTouched off bs.length).foldl ladd o.poison
             src := (wordsTouched off bs.length).foldl (fun m w => mset m w code) o.src }
  | none =>
    { o with poison := o.poison.filter fun w => !(wordsWithin off bs.length).contains w
             src := o.src.filter fun w => !(wordsWithin off bs.length).contains w.1 }
/-- Write one byte of a tile (R312). -/
def Tile.putByte (t : Tile) (a : Nat) (b : Byte) : Tile :=
  { t with acc := mset t.acc (a / 4) (code32 (leVal (patch (leBytes 4 (mgetD t.acc (a / 4) 0).toNat) (a % 4) [b]))) }
/-- Write bytes of a tile, with their poison mark; the checksum state stays. -/
def Tile.put (t : Tile) (off : Nat) (bs : List Byte) (bad : Option Nat) : Tile :=
  let t := (bs.zipIdx).foldl (fun t b => t.putByte (off + b.2) b.1) t
  let touched := (upTo ((off + bs.length + 3) / 4 - off / 4)).map (· + off / 4)
  let whole (i : Nat) : Bool := touched.contains i && off ≤ 4 * i && 4 * i + 4 ≤ off + bs.length
  match bad with
  | some code => { t with poison := touched.foldl ladd t.poison, src := touched.foldl (fun m i => mset m i code) t.src }
  | none => { t with poison := t.poison.filter (!whole ·), src := t.src.filter fun i => !whole i.1 }

/-- Write payload bytes at a request's destination; false where the claim has changed since acceptance (R294). -/
def destPut (c : Nat) (r : CopyReq) (pos : Nat) (bs : List Byte) (bad : Option Nat) : M Bool := do
  let s ← get
  let dk := pDk r.w0
  if dk == 0 then do homePut c (placePlus r.to_ pos) bs bad; pure true
  else
    let i := pIdx dk r.w2
    let at_ := pDofs dk r.w2 + pos
    if dk == 1 then
      let o := (s.core c).opSlot i
      if o.owner.isNone || o.gen != r.gen then pure false
      else do setState (s.modOp c i fun o => o.put at_ bs bad); pure true
    else
      let t := (s.core c).tile i
      if t.owner.isNone || t.gen != r.gen then pure false
      else do setState (s.modTile c i fun t => t.put at_ bs bad); pure true

/-- Format and geometry of the page at a place, for a record (R411). -/
def State.placeFmt (s : State) (c : Nat) (l : Loc) : Nat × Nat :=
  match l with
  | .mem x va _ _ => ((s.leafAt c x va).map fun w => (pteFmt w, pteGeo w)).getD (0, 0)
  | _ => (0, 0)
/-- The payload of a request is abandoned with a status (R297): an asynchronous error record, about a handle at a place, reaches the
tenant, and the stamp and append still follow. -/
def copyFail (c q code hnd : Nat) (at_ : Loc) (ofs : Nat) : M Unit := modify fun s =>
  (s.asyncLate (.engine c) code hnd (s.placeFmt c at_) 0 (word ofs) 0).modHead c q fun r => { r with status := code, stage := .stamp }
/-- The claim of a request's slot or tile has changed (R294). -/
def copyLost (c q : Nat) : M Unit := copyFail c q 0x46 0 (.sp c 0) 0

/-- The payload is written. A poisoned source gives status 0x41 (R289). -/
def payloadDone (c q : Nat) (r : CopyReq) : M Unit :=
  match r.bad with
  | [] => modify fun s => s.modHead c q fun r => { r with stage := .stamp }
  | b :: _ => copyFail c q 0x41 (pHnd r.w1) (placePlus r.from_ b.1) (pOfs r.w1 + b.1)

/-- Note a machine check once for a request. -/
def noteBad (c : Nat) (r : CopyReq) (mc : Option (Nat × Option Nat)) : M Unit := modify fun s =>
  match mc, r.bad with
  | some m, [] => s.machineCheck m.1 (s.ctxOf c) m.2
  | _, _ => s

/-- Bytes up to the next 8-byte boundary. -/
def toWord (a left : Nat) : Nat := min (8 - a % 8) left

/-- One step of reading the source (R289, R295, R296): an aligned word at a time, or a whole window read. -/
def copyRead (c q : Nat) (r : CopyReq) : M Unit := do
  let s ← get
  let n := pLen r.w0
  let p := r.taken.length
  let take (bs : List Byte) (bad : Option Nat) : M Unit := modify fun s => s.modHead c q fun r =>
    { r with taken := r.taken ++ bs, got := none
             bad := match bad with | some code => r.bad ++ [(p, bs.length, code)] | none => r.bad
             stage := if n ≤ p + bs.length then .write else .read }
  match r.from_ with
  | .win sp i ofs =>
    match r.got with
    | some g => take g.1 none
    | none =>
      if r.due then pure ()
      else
        let far := s.farSide (s.ctxOf c) i ofs
        let a := s.newReach c { kind := .copyRead, src := .engine c, win := i, ofs := ofs, size := n, args := [word q, word r.id] }
        setState ((a.1.send (.read a.2 sp i far.1 n)).modHead c q fun r => { r with due := true })
  | .sp k off =>
    if pTag r.w0 == 0 then do
      let m := toWord (off + p) (n - p)
      let b ← homeBytes c (.sp k (off + p)) m
      noteBad c r b.2
      take b.1 (b.2.map (·.1))
    else
      match r.got with
      | some g => do noteBad c r (g.2.map fun code => (code, none)); take g.1 g.2
      | none =>
        if r.due then pure ()
        else
          modify fun s => feArrive (s.modHead c q fun r => { r with due := true }) k
            { word := (off + p) / 8, take := pTag r.w0 == 2, cont := some (.copy c q) }
  | .mem x va pol il => do
    let m := toWord (va + p) (n - p)
    let b ← homeBytes c (.mem x (va + p) pol il) m
    noteBad c r b.2
    take b.1 (b.2.map (·.1))

/-- One step of writing the destination: an aligned word at a time (R289), or a whole window write. -/
def copyWrite (c q : Nat) (r : CopyReq) : M Unit := do
  let s ← get
  let n := pLen r.w0
  match r.to_ with
  | .win sp i ofs =>
    if r.got.isSome then do
      modify fun s => s.modHead c q fun r => { r with got := none }
      payloadDone c q r
    else if r.due then pure ()
    else
      let far := s.farSide (s.ctxOf c) i ofs
      let a := s.newReach c { kind := .copyWrite, src := .engine c, win := i, ofs := ofs, size := n, args := [word q, word r.id] }
      setState ((a.1.send (.write a.2 sp i far.1 r.taken (r.bad.map fun b => (b.1, b.2.1)))).modHead c q fun r => { r with due := true })
  | l =>
    let at_ := (if pDk r.w0 == 0 then (placeAddr l) else pDofs (pDk r.w0) r.w2) + r.pos
    let m := toWord at_ (n - r.pos)
    let bad := (r.bad.find? fun b => b.1 < r.pos + m && r.pos < b.1 + b.2.1).map (·.2.2)
    if ← destPut c r r.pos ((r.taken.drop r.pos).take m) bad then do
      modify fun s => s.modHead c q fun r => { r with pos := r.pos + m }
      if n ≤ r.pos + m then payloadDone c q r
    else copyLost c q

/-- An image element that a run uses, `e` bytes at an offset of the image: read once, however many patches share it (R303). -/
def imageElem (c q : Nat) (r : CopyReq) (o e : Nat) : M (List Byte × Option (Nat × Option Nat)) := do
  let s ← get
  match mget (((s.core c).queue q).headD {}).seen o with
  | some b => pure b
  | none => do
    let b ← homeBytes c (placePlus r.from_ o) e
    modify fun s => s.modHead c q fun r => { r with seen := mset r.seen o b }
    pure b
/-- One image patch of an XIM2C (R303): its elements in slot order, each with the machine check of poison met and its byte in the image;
zero where it lies outside the image or its channels. -/
def im2colPatch (c q : Nat) (r : CopyReq) (i : Nat) : M (List (List Byte × Option (Nat × Option Nat) × Nat)) :=
  let a (j : Nat) : Nat := (r.args.getD j 0).toNat
  let w1 := r.args.getD 1 0
  let w2 := r.args.getD 2 0
  let iw := fld w1 0 16
  let ih := fld w1 16 16
  let ch := fld w1 32 16
  let cg := fld w1 48 16
  let kw := fld w2 0 8
  let kh := fld w2 8 8
  let e := 2 ^ fld (r.args.getD 4 0) 0 2
  (upTo (kh * kw * cg)).mapM fun t => do
    let k := t / (kw * cg)
    let j := t / cg % kw
    let cc := a 11 * cg + t % cg
    let iy : Int := a 9 * fld w2 24 8 - fld w2 40 8 + k
    let ix : Int := (a 8 + i) * fld w2 16 8 - fld w2 32 8 + j
    if 0 ≤ iy && iy < ih && 0 ≤ ix && ix < iw && cc < ch then do
      let o := iy.toNat * fld (r.args.getD 3 0) 0 52 + (ix.toNat * ch + cc) * e
      let b ← imageElem c q r o e
      pure (b.1, b.2, o)
    else pure (List.replicate e 0, none, 0)

/-- After a step of a request, its payload may be written whole. -/
def stepDone (c q total : Nat) : M Unit := do
  let s ← get
  match (s.core c).queue q with
  | r :: _ => if total ≤ r.pos then payloadDone c q r else pure ()
  | [] => pure ()

/-- One step of XIM2C: a run (R303). -/
def im2colStep (c q : Nat) (r : CopyReq) : M Unit := do
  let ps ← im2colPatch c q r r.pos
  let poison := ps.find? (·.2.1.isSome)
  noteBad c r (poison.bind (·.2.1))
  let at_ := r.pos * fld (r.args.getD 4 0) 16 16
  let e := 2 ^ fld (r.args.getD 4 0) 0 2
  let held ← ps.zipIdx.foldlM (fun ok x =>
    if ok then destPut c r (at_ + x.2 * e) x.1.1 (x.1.2.1.map (·.1)) else pure false) true
  if held then do
    let bad := (poison.toList.filterMap fun x => x.2.1.map fun m => (x.2.2, e, m.1))
    modify fun s => s.modHead c q fun r => { r with pos := r.pos + 1, bad := r.bad ++ bad }
    stepDone c q (r.args.getD 10 0).toNat
  else copyLost c q

/-- One step of GATH: an element, in index order (R304). -/
def gatherStep (c q : Nat) (r : CopyReq) : M Unit := do
  let n := (r.args.getD 0 0).toNat
  let sz := (r.args.getD 1 0).toNat
  let i := r.pos
  let x ← about (fld (r.args.getD 3 0) 52 12) (fld (r.args.getD 3 0) 0 52 + 4 * i) (homeBytes c (placePlus r.idx (4 * i)) 4)
  let v := leVal x.1
  if v != 0xFFFFFFFF && (r.args.getD 2 0).toNat < (v + 1) * sz then
    copyFail c q 0x47 (pHnd r.w1) r.from_ (pOfs r.w1 + v * sz)
  else
    let b ← if v == 0xFFFFFFFF then pure (List.replicate sz 0, none) else homeBytes c (placePlus r.from_ (v * sz)) sz
    let mc := x.2.or b.2
    noteBad c r mc
    if ← destPut c r (i * sz) b.1 (mc.map (·.1)) then do
      let bad := mc.toList.map fun m => (v * sz, sz, m.1)
      modify fun s => s.modHead c q fun r => { r with pos := r.pos + 1, bad := r.bad ++ bad }
      stepDone c q n
    else copyLost c q

/-- The stamp value: SEQ and the status (R291). -/
def stampValue (r : CopyReq) : Word := word (pSeq r.w0 + r.status * 2 ^ 24)

/-- The stamp (R291): a release at SCP whose cover has been performed; a stamp to hbm is a checked access. -/
def copyStamp (c q : Nat) (r : CopyReq) : M Unit := do
  let s ← get
  let next : M Unit := modify fun s => s.modHead c q fun r => { r with got := none, due := false, stage := .append }
  let v := stampValue r
  if !pStamp r.w0 then next
  else
    match placePlus r.to_ (stampAt r.w0) with
    | .sp k off => do
      modify fun s => s.spWrite k off (leBytes 8 v.toNat)
      next
    | .mem x va _ il => do
      let t ← atHome c x va il true
      let s ← get
      match s.scopeCheck t.1 (s.scopeOf c (pScp r.w0)) with
      | .ok s => do
        setState (s.writeHome t.1 (leBytes 8 v.toNat) t.2)
        next
      | .error _ =>
        copyFail c q 0x4A (pHnd r.w2) (placePlus r.to_ (stampAt r.w0)) (pOfs r.w2 + stampAt r.w0)
        next
    | .win sp i ofs =>
      if r.got.isSome then next
      else if r.due then pure ()
      else
        let far := s.farSide (s.ctxOf c) i ofs
        let a := s.newReach c { kind := .copyWrite, src := .engine c, win := i, ofs := ofs, size := 8, os := 5 + pScp r.w0
                                args := [word q, word r.id] }
        setState ((a.1.send (if sp == 3 then
            .remote a.2 (bits (wTgt far.2) 0 9) (bits (wTgt far.2) 9 4) (wRkey far.2) far.1 8 none (5 + pScp r.w0) v 0
          else .write a.2 sp i far.1 (leBytes 8 v.toNat) [])).modHead c q fun r => { r with due := true })

/-- A request is complete and leaves its queue (R285); XREQ's count falls (R299). -/
def State.copyDone (s : State) (c q : Nat) (r : CopyReq) : State :=
  let s := s.modCore c fun k => { k with queues := mset k.queues q ((k.queue q).drop 1) }
  match r.src with
  | .elem c p => s.modElem c p fun e => { e with acks := e.acks - 1 }
  | _ => s

/-- The follow-on command (R293, R327): issued when the status is 0, abandoned with error 0x46 when a claim has changed, held
while the sequencer queue is full. -/
def copyFollow (c q : Nat) (r : CopyReq) (s : State) : State :=
  let k := s.core c
  if !pFollow r.w0 || r.status != 0 then s.copyDone c q r
  else if k.wordGens r.w3 != r.fgens || k.matCheck (s.own c).launch r.w3 != none then
    (s.asyncLate (.engine c) 0x46 0 (0, 0) 0 0 r.w3).copyDone c q r
  else if !k.seqRoom then s
  else
    let src := match r.src with | .elem c _ => Source.elem c 61 | a => a
    (s.enqueue c { word := r.w3, src := src, launch := (s.own c).launch }).copyDone c q r

/-- The append (R292): as STEF would fill the word; a full word leaves the fill in the writer queue. An append that finds no pool
record is neither performed nor queued, and its request is not complete until it takes one (R222). -/
def copyAppend (c q : Nat) (r : CopyReq) (s : State) : State :=
  let s := if pAppend r.w0 && !r.due then
      (feArrive s c { word := fld r.w1 48 16, write := true, val := stampValue r, cont := some (.append c q) }).modHead c q
        fun r => { r with due := true }
    else s
  if (s.core c).poolQ.any (·.cont == some (.append c q)) then s else s.modHead c q fun r => { r with due := false, stage := .follow }

/-- Handle index and byte offset of an address that a request reads from its source, or writes at its destination. -/
def CopyReq.nameOf (r : CopyReq) (va : Nat) (write : Bool) : Nat × Nat :=
  let side (l : Loc) (w : Word) : Nat × Nat := (pHnd w, pOfs w + (match l with | .mem _ b _ _ => va - b | _ => 0))
  if write then side r.to_ r.w2 else side r.from_ r.w1
/-- Run a step of a queue's head: a translation fault leaves it waiting (R418), reported as an engine's (R417). -/
def State.runCopy (s : State) (c q : Nat) (m : M Unit) : State :=
  match m s with
  | .ok (_, s') => s'
  | .error (.xfault x va cause write at_) =>
    let (s, n) := s.xreport (dieOf c) engineCore x va cause write
    s.modHead c q fun r => { r with xwait := some n, xat := if at_ == (0, 0) then r.nameOf va write else at_ }
  | .error _ => s

/-- One step of the engine on the head of a queue. -/
def copyStep (c q : Nat) (r : CopyReq) (s : State) : State :=
  match r.stage with
  | .read => s.runCopy c q (match r.kind with
      | .im2col => im2colStep c q r
      | .gather => gatherStep c q r
      | _ => copyRead c q r)
  | .write => s.runCopy c q (copyWrite c q r)
  | .stamp => s.runCopy c q (copyStamp c q r)
  | .append => copyAppend c q r s
  | .follow => copyFollow c q r s

/-- COPY_PERFORM (R289, R290): the engine moves the head of a queue on, when no fence holds it. -/
def execCopyPerform (core queue : Nat) (s : State) : Out :=
  match (s.core core).queue queue with
  | [] => .next s
  | r :: _ =>
    if r.kind == .fence || r.xwait.isSome || r.fences.any (s.core core).open_ then .next s
    else .next (copyStep core queue r s)

/-- FENCE_COMPLETE (R290): every request ahead in the joined queues is complete; then its append and follow-on act. -/
def execFenceComplete (core queue : Nat) (s : State) : Out :=
  match (s.core core).queue queue with
  | [] => .next s
  | r :: _ =>
    if r.kind != .fence || r.ahead.any (s.core core).open_ || r.fences.any (s.core core).open_ then .next s
    else .next (if r.stage == .follow then copyFollow core queue r s else copyAppend core queue r s)

/-! ### The instructions -/

/-- ORD (R298): every earlier access of the agent is performed at its home. -/
def copyOrder (ord : Bool) (c : Nat) (src : Source) : M Unit := if ord then releaseAt c src 4 everyLine else pure ()

/-- Accept a request of an actor; the firing goes on. -/
def acceptActor (c n : Nat) (r : CopyReq) : M Unit := do
  modify fun s => s.accept c r
  finishNone c n 0

/-- XFER (R298). -/
def opXfer (f : XForm) (c n : Nat) : M Unit := do
  let s ← get
  let src := s.actorSrc c n
  let w0 := s.reg c n f.sa
  copyOrder (bits f.xm.toNat 0 1 == 1) c src
  if !(s.core c).qRoom (pQ w0) then stop (.wait { kind := .copyQueue, on := pQ w0 })
  else
    let r ← checkPacket false c src w0 (s.reg c n (f.sa + 1)) (s.reg c n f.sb) (s.reg c n (f.sb + 1))
    acceptActor c n r

/-- W0 and W1 of the packet that XIM2C and GATH stand for: SEQ and APIDX from DST. -/
def standW0 (dst q scp dk len : Nat) (append stamp : Bool) : Word :=
  word (dst % 2 ^ 24 * 2 ^ 40 + (len - 1) % 2 ^ 24 * 2 ^ 16 + q * 2 ^ 13 + scp * 2 ^ 10 + b2n append * 64 + b2n stamp * 32 + dk * 8)

/-- XIM2C's descriptor (R302, R303): words other than IMG. -/
def im2colOk (d : List Word) (n : Nat) : Bool :=
  let w1 := d.getD 1 0
  let w2 := d.getD 2 0
  let w4 := d.getD 4 0
  let e := 2 ^ fld w4 0 2
  let dp := fld w4 16 16
  1 ≤ fld w1 0 16 && 1 ≤ fld w1 16 16 && 1 ≤ fld w1 32 16 && 1 ≤ fld w1 48 16 && fld w1 48 16 ≤ fld w1 32 16
    && 1 ≤ fld w2 0 8 && 1 ≤ fld w2 8 8 && 1 ≤ fld w2 16 8 && 1 ≤ fld w2 24 8 && fld w2 48 16 == 0
    && fld (d.getD 3 0) 52 12 == 0 && fld w4 0 2 != 3 && fld w4 2 14 == 0 && fld w4 32 32 == 0 && dp % 8 == 0
    && d.getD 5 0 == 0 && d.getD 6 0 == 0 && d.getD 7 0 == 0
    && 1 ≤ n && n ≤ 512 && fld w2 0 8 * fld w2 8 8 * fld w1 48 16 * e ≤ dp && n * dp ≤ 32768

/-- XIM2C (R302, R303). -/
def opXim2c (f : XForm) (c n : Nat) : M Unit := do
  let s ← get
  let src := s.actorSrc c n
  let q := ctlF f.ctl 5 3
  let slot := ctlF f.ctl 0 5
  let append := ctlF f.ctl 8 1 == 1
  let dst := if append then s.rd f.dst else 0
  let run := s.rd f.sc
  let r := s.reg c n f.sa
  copyOrder (bits f.xm.toNat 0 1 == 1) c src
  if !(s.core c).qRoom q then stop (.wait { kind := .copyQueue, on := q })
  else
    let h := fld r 52 12
    let o := fld r 0 52
    let e ← handle .actor c h o
    if hSpace e != 1 then stop (Who.actor.handle h o)
    else
      let l ← locate .actor c h e o 64 false
      if (placeAddr l) % 8 != 0 then trapAt 0x12 h o
      else
        let b ← homeBytes c l 64
        match b.2 with
        | some mc => stop (asyncErr 0x41 h (s.placeFmt c l).1 (s.placeFmt c l).2 o (some mc))
        | none =>
          let s ← get
          if append && !(s.core c).apOk (bits dst 24 16) then trap 0x11
          else if !(s.core c).holdsOp (s.own c).launch slot then trap 0x20
          else
            let d := wordsOf 8 b.1
            let bad : Stop := .trap 0x21 (word h) (word o)
            let w1 := d.getD 1 0
            let ext := (fld w1 16 16 - 1) * fld (d.getD 3 0) 0 52 + fld w1 0 16 * fld w1 32 16 * 2 ^ fld (d.getD 4 0) 0 2
            if !im2colOk d run then stop bad
            else
              let img ← sideRef bad c (d.getD 0 0) ext [1] false
              let s ← get
              acceptActor c n
                { kind := .im2col, w0 := standW0 dst q 0 1 1 append false
                  w1 := word ((if append then bits dst 24 16 * 2 ^ 48 else 0) + fld (d.getD 0 0) 52 12 * 2 ^ 36 + fld (d.getD 0 0) 0 36)
                  w2 := word slot, src := src, from_ := img
                  args := d ++ [word (s.rd f.sb % 2 ^ 32), word (s.rd f.sb / 2 ^ 32), word run, word (s.rd f.sd)]
                  gen := ((s.core c).opSlot slot).gen }

/-- GATH (R304): the checks follow R288, as traps. -/
def opGath (f : XForm) (c n : Nat) : M Unit := do
  let s ← get
  let src := s.actorSrc c n
  let q := ctlF f.ctl 3 3
  let scp := ctlF f.ctl 6 3
  let stamp := ctlF f.ctl 9 1 == 1
  let append := ctlF f.ctl 10 1 == 1
  let dk := ctlF f.ctl 11 1
  let slot := ctlF f.ctl 12 5
  let sz := 2 ^ ctlF f.ctl 0 3
  let dst := if stamp || append then s.rd f.dst else 0
  let cnt := s.rd f.sc
  copyOrder (bits f.xm.toNat 0 1 == 1) c src
  if !(s.core c).qRoom q then stop (.wait { kind := .copyQueue, on := q })
  else if cnt == 0 || 65536 < cnt || (if stamp then scp == 0 || 6 ≤ scp else scp != 0) then trap 0x16
  else
    let place (r : Word) (spaces : List Nat) (len : Nat) (write : Bool) : M (Loc × List Word) := do
      let h := fld r 52 12
      let o := fld r 0 52
      let e ← handle .actor c h o
      if spaces.contains (hSpace e) then do
        let l ← locate .actor c h (noEfmt e) o len write
        pure (l, e)
      else stop (Who.actor.handle h o)
    let base := s.reg c n f.sb
    let idx ← place (s.reg c n f.sa) [1] (4 * cnt) false
    let from' ← place base [1] 0 false
    let w0 := standW0 dst q scp dk (cnt * sz) append stamp
    let dest ← (if dk == 0 then do
        let t ← place (s.reg c n f.sd) [1, 2] (if stamp then stampAt w0 + 8 else cnt * sz) true
        pure t.1
      else if 32768 < cnt * sz then trap 0x11
      else pure (Loc.sp c 0))
    if dk == 0 && stamp && (placeAddr dest) % 8 != 0 then trap 0x16
    else
      let s ← get
      if append && !(s.core c).apOk (bits dst 24 16) then trap 0x11
      else if dk == 1 && !(s.core c).holdsOp (s.own c).launch slot then trap 0x20
      else
        acceptActor c n
          { kind := .gather, w0 := w0
            w1 := word ((if append then bits dst 24 16 * 2 ^ 48 else 0) + fld base 52 12 * 2 ^ 36 + fld base 0 36)
            w2 := if dk == 1 then word slot else word (fld (s.reg c n f.sd) 52 12 * 2 ^ 36 + fld (s.reg c n f.sd) 0 36)
            src := src, from_ := from'.1, to_ := dest, idx := idx.1
            args := [word cnt, word sz, word (hSize from'.2 - fld base 0 52), s.reg c n f.sa], gen := ((s.core c).opSlot slot).gen }

/-- FENCEQ (R300). -/
def opFenceq (f : IForm) (c n : Nat) : M Unit := do
  let s ← get
  let mask := ctlF f.imm 0 8
  let q := ((upTo 8).find? fun i => bitAt mask i).getD 0
  if !(s.core c).qRoom q then stop (.wait { kind := .copyQueue, on := q })
  else
    acceptActor c n { kind := .fence, w0 := word (q * 2 ^ 13 + 2), w2 := word (mask - 2 ^ q), src := s.actorSrc c n }

/-- Does a request lie on a path of DRAIN (R301)? -/
def CopyReq.onPath (r : CopyReq) (path : Nat) : Bool :=
  let dk := pDk r.w0
  if r.kind == .fence then false
  else match path with
    | 0 => dk == 0 && (match r.to_ with | .sp .. => true | _ => false)
    | 1 => dk == 1
    | 2 => dk == 2
    | 3 => dk == 0 && (match r.to_ with | .mem .. => true | _ => false)
    | _ => dk == 0 && (match r.to_ with | .sp .. => false | _ => true)

/-- DRAIN (R301): `on` is the first request identifier that it does not cover. -/
def opDrain (f : IForm) (c n : Nat) : M Unit := do
  let s ← get
  let path := ctlF f.imm 0 3
  let bound := match s.given c n .drain with
    | some p => p.on
    | none => s.nextId
  if (s.core c).requests.any fun r => r.id < bound && r.onPath path then parkNow c n { kind := .drain, on := bound, val := word path }
  else
    if 3 ≤ path then acquireAt c 1 everyLine
    finishNone c n 0

def execXfer (f : XForm) (s : State) : Out := s.runActor s.here.1 s.here.2 (opXfer f s.here.1 s.here.2)
def execXim2c (f : XForm) (s : State) : Out := s.runActor s.here.1 s.here.2 (opXim2c f s.here.1 s.here.2)
def execGath (f : XForm) (s : State) : Out := s.runActor s.here.1 s.here.2 (opGath f s.here.1 s.here.2)
def execFenceq (f : IForm) (s : State) : Out := s.runActor s.here.1 s.here.2 (opFenceq f s.here.1 s.here.2)
def execDrain (f : IForm) (s : State) : Out := s.runActor s.here.1 s.here.2 (opDrain f s.here.1 s.here.2)

end Sys2Proof.Machine
end

