-- ==== Sys2Proof/Machine/Arrivals.lean ====
section
/-!
DEFINITION. What arrives from other packages, the network and PCIe (10 R266, R269, R274 to R276, R280; 16 R430, R431): cells,
rem accesses, acknowledgments and time-outs, RDMA requests, inbound PCIe requests. What cannot be performed yet (a translation
fault, no reassembly entry, a range under reassignment) waits at its port: nothing happens, and the port presents it again.
-/
namespace Sys2Proof.Machine

/-- Is an arriving access admitted by an inbound descriptor of a context (R266, R276, R431)? -/
def State.admits (s : State) (x kind rkey addr size : Nat) (write : Bool) : Bool :=
  (upTo 64).any fun i =>
    let d := s.window x i
    let base := (d.getD 0 0).toNat
    wKind d == kind && wIn d && wClean d && (kind == 5 || wRkey d == rkey) && base ≤ addr && addr + size ≤ base + wSize d
      && !(write && wRdonly d)

/-! ### Cells (R274, R275) -/

/-- The arrival counter's raise (R275): AADD 1 as a release and checked access of an agent of its home die. -/
def raiseCounter (x caddr : Nat) (wide : Bool) (refused acked : Msg) : M Unit := do
  let t ← unitXlate none x caddr false true
  let s ← get
  let die := s.homeDie t.1
  let sc : ScopeRec := if wide then { lvl := 4, inst := s.pod } else { lvl := 3, inst := die }
  match s.scopeCheck t.1 sc with
  | .error _ => setState (s.send refused)
  | .ok s =>
    if s.poisoned t.1 8 then setState ((s.machineCheck (s.poisonCode (t.1 / 8)) x (some t.1)).send refused)
    else setState ((s.writeHome t.1 (leBytes 8 ((leVal (s.readHome t.1 8 t.2) + 1) % 2 ^ 64)) t.2).send acked)

/-- CELL_ARRIVAL (R274). -/
def execCellArrival (c : Cell) (s : State) : Out :=
  let spkg := fld c.p0 0 9
  let x := fld c.p0 18 4
  let rkey := fld c.p0 32 32
  let ncm1 := fld c.h0 16 16
  let cseq := fld c.h0 0 16
  let row := fld c.h1 0 32
  let cnt := fld c.h1 32 1 == 1
  let wide := fld c.h1 33 1 == 1
  let bad := fld c.h1 34 1 == 1
  let addr := fld c.p1 0 52 + 256 * cseq
  let caddr := fld c.p2 0 52
  let len := if cseq == ncm1 then fld c.h0 32 8 + 1 else 256
  if fld c.p0 9 9 != s.pod then .next s
  else if ncm1 < cseq then .next { s with linkErrors := s.linkErrors + 1 }
  else if !s.admits x 3 rkey addr len true || (cnt && (!s.admits x 3 rkey caddr 8 true || caddr % 8 != 0)) then
    .next (s.send (.refuse spkg row))
  else .next (s.runUnit 0 (.cellArrival c) (fun s => (s.unitFailed x).send (.refuse spkg row)) do
    let s ← get
    -- the entry, at the die that homes the counter
    let home ← (if cnt then do let t ← unitXlate none x caddr false true; pure (s.homeDie t.1) else pure 0)
    let it (r : Reassembly) : Bool := r.die == home && r.spkg == spkg && r.sdie == c.die && r.row == row
    let s ← get
    if cnt && !s.reasm.any it && 4096 ≤ (s.reasm.filter (·.die == home)).length then parkFor .busy
    else
      unitWrite none x addr false (c.data.take len)
      if bad then do
        unitPoison none x addr (6 * 2 ^ 12 + spkg) [(0, len)]
        modify fun s => s.machineCheck (6 * 2 ^ 12 + spkg) x none
      else pure ()
      if !cnt then modify fun s => s.send (.ack spkg row 0 false)
      else
        let s ← get
        let e := (s.reasm.find? it).getD { die := home, spkg := spkg, sdie := c.die, row := row, ncell := ncm1 + 1, cells := [] }
        let e := { e with cells := ladd e.cells cseq }
        if e.ncell ≤ e.cells.length then do
          setState { s with reasm := s.reasm.filter (!it ·) }
          raiseCounter x caddr wide (.refuse spkg row) (.ack spkg row 0 false)
        else setState { s with reasm := s.reasm.filter (!it ·) ++ [e] })

/-! ### Rem accesses (R266, R269, R270) -/

/-- The issuing agent's instance of a scope that an arriving access names (R253, R268): a pod group's members are those of the rank
table of a context here that belongs to it. -/
def State.farScope (s : State) (a : RemoteAccess) : ScopeRec :=
  let lvl := osLvl a.os
  let gid := if lvl == 5 then a.gid else none
  let here := (upTo 16).find? fun x => (s.ctx x).gv && some (s.ctx x).gid == gid
  { lvl := lvl, inst := a.pkg, gid := gid, pkgs := (here.map s.groupPkgs).getD [] }
/-- An access at its home, once it is admitted: a checked access that the slice's checker refuses performs nothing (R253). -/
def farAccess (a : RemoteAccess) (n : Nat) : M Unit := do
  if a.read then do
    let r ← unitRead none a.ctx a.addr n
    let bad ← unitBad none a.ctx a.addr n
    modify fun s => s.send (.answer a.pkg a.tag r.1 bad)
  else
    let t ← unitXlate none a.ctx a.addr false true
    let s ← get
    match (if a.os == 0 then .ok s else s.scopeCheck t.1 (s.farScope a)) with
    | .error r => setState (s.send (.scopeRefuse a.pkg a.tag r.lvl))
    | .ok s =>
      setState s
      match a.amo with
      | none => do
        unitWrite none a.ctx a.addr false a.data
        unitPoison none a.ctx a.addr (6 * 2 ^ 12 + a.pkg) a.bad
        modify fun s => s.send (.ack a.pkg a.tag 0 false)
      | some op =>
        let s ← get
        match s.memPoison t.1 n with
        | some mc => setState ((s.machineCheck mc.1 a.ctx mc.2).send (.ack a.pkg a.tag 0 true))
        | none =>
          let old := leVal (s.readHome t.1 n t.2)
          let v := amoNew op (Nat.log2 n) old a.val.toNat a.cmp.toNat
          setState ((s.writeHome t.1 (leBytes n v.1) t.2).send (.ack a.pkg a.tag (word old) false))

/-- REMOTE_ACCESS_ARRIVAL: admitted and performed at its home, or refused and reported to the sender. -/
def execRemoteAccessArrival (a : RemoteAccess) (s : State) : Out :=
  let n := if a.read || a.amo.isSome then a.size else a.data.length
  if !s.admits a.ctx 3 a.rkey a.addr n (!a.read) then .next (s.send (.refuse a.pkg a.tag))
  else .next (s.runUnit 0 (.remoteAccessArrival a) (fun s => (s.unitFailed a.ctx).send (.refuse a.pkg a.tag)) (farAccess a n))

/-! ### Acknowledgments and time-outs (R269, R280, R282) -/

/-- Change the core that an agent of a launch runs on, or the saved page that it is part of. -/
def State.modHome (s : State) (l : Option Nat) (c : Nat) (f : Core → Core) : State :=
  match l with
  | none => s.modCore c f
  | some l =>
    if (s.core c).own.map (·.launch) == some l then s.modCore c f
    else s.modLaunch l fun k => { k with saved := k.saved.map fun p => if p.place.core == c then { p with core := f p.core } else p }

/-- The queue and identifier of a copy that a reach request belongs to. -/
def ReachReq.copyOf (r : ReachReq) (q : CopyReq) : Bool := (r.args.getD 1 0).toNat == q.id

/-- The machine-check code of poison that comes through a window: a cell's, from the package that sends it (R425). -/
def State.windowCode (s : State) (r : ReachReq) : Nat :=
  let d := s.window r.ctx r.win
  6 * 2 ^ 12 + (if wKind d == 3 then bits (wTgt d) 0 9 else s.pod)
/-- Give a parked firing the answer of its reach access, if it is the one that waits. -/
def Core.answerReach (k : Core) (n serial req : Nat) (p : Park) : Core :=
  let x := k.slot n
  if x.serial == serial && (x.park.map fun q => (q.kind == .ramo || q.kind == .scope) && q.on == req) == some true then
    k.setSlot n { x with park := some p }
  else k
/-- REACH_ACKNOWLEDGE (R269, R270): the target's acknowledgment, with the old value of an atomic or the bytes of a read and the runs of
them that came from poisoned words. -/
def execReachAcknowledge (req : Nat) (data : List Byte) (bad : List (Nat × Nat)) (s : State) : Out :=
  match mget s.reach req with
  | none => .next s
  | some r =>
    let s' := s.dropReach req
    let code := s.windowCode r
    let poison := if bad.isEmpty then none else some code
    match r.kind, r.src with
    | .coll, _ => .next s
    | .rst, .actor c n serial =>
      .next (s'.modHome r.launch c fun k => k.answerReach n serial req { kind := .scope, done := true, flag := true, on := req })
    | .ramo, .actor c n serial =>
      .next (s'.modHome r.launch c fun k =>
        k.answerReach n serial req { kind := .ramo, done := true, val := word (leVal data), flag := poison.isSome, on := req })
    | .load, .elem c p => .next (s'.modHome r.launch c fun k => k.setElem p { k.elem p with got := some (data, poison), due := false })
    | .load, .actor c _ _ =>
      -- an expert's output row that RCOMB asked for (R347)
      .next { s' with belfry := mset s'.belfry (dieOf c) ((mgetD s'.belfry (dieOf c) []).map fun o =>
        if o.id == (r.args.getD 0 0).toNat then
          { o with got := o.got ++ [((r.args.getD 1 0).toNat, data, bad.map fun b => (b.1, b.2, code))] } else o) }
    | .store, .elem c p => .next (s'.modHome r.launch c fun k => k.setElem p { k.elem p with acks := (k.elem p).acks - 1 })
    | .copyRead, .engine c | .copyWrite, .engine c =>
      let q := (r.args.getD 0 0).toNat
      let s' := if r.kind == .copyRead && poison.isSome then s'.machineCheck code r.ctx none else s'
      .next (s'.modHome r.launch c fun k =>
        { k with queues := mset k.queues q ((k.queue q).map fun h =>
            if r.copyOf h then { h with got := some (data, none), due := false, bad := h.bad ++ bad.map fun b => (b.1, b.2, code) }
            else h) })
    | _, _ => .next s'

/-- REACH_TIMEOUT (R280): cause 1 refused, 2 timed out, 3 unreachable. A refusal by the target slice's checker comes with the level of
the recorded scope: it is precise trap 0x18 of an actor's release or acquire, and status 0x4A of a copy's stamp (R253, R291). -/
def execReachTimeout (req : Nat) (cause : ReachEnd) (s : State) : Out :=
  match mget s.reach req with
  | none => .next s
  | some r =>
    if r.kind == .coll then .next s
    else
      let s := s.dropReach req
      match r.kind, r.src, (if r.os == 0 then none else cause.scope) with
      | .rst, .actor c n serial, some lvl | .ramo, .actor c n serial, some lvl =>
        .next (s.modHome r.launch c fun k => k.answerReach n serial req { kind := .scope, done := true, val := word lvl, on := req })
      | .copyRead, .engine c, lvl | .copyWrite, .engine c, lvl =>
        let q := (r.args.getD 0 0).toNat
        let code := if lvl.isSome then 0x4A else 0x44
        let held := (s.core c).own.map (·.launch) == r.launch
        -- the request's stamp and append still follow (R297), in a saved team too
        let fail (h : CopyReq) : CopyReq :=
          if r.copyOf h then
            { h with status := code, due := false, got := none, stage := if h.stage == .stamp then CopyStage.append else .stamp }
          else h
        if held && !((s.core c).queue q).any r.copyOf then .next s
        else .next ((s.reachError r code (if lvl.isSome then 0 else cause.cause)).modHome r.launch c fun k =>
          { k with queues := mset k.queues q ((k.queue q).map fail) })
      | .store, .elem c p, _ =>
        .next ((s.modHome r.launch c fun k => k.setElem p { k.elem p with acks := (k.elem p).acks - 1 }).reachError r 0x44 cause.cause)
      | _, _, _ => .next (s.reachError r 0x44 cause.cause)

/-! ### RoCEv2 (R276, R430) -/

/-- The supervisor binds a queue pair: 4,096 at most on one port, with a path MTU of 1,024 to 4,096 bytes (R430). -/
def State.bindPair (s : State) (b : PairBind) : State :=
  let others := s.qpairs.filter fun q => q.1 != b.qp && q.2.port == b.port
  if 4096 ≤ others.length || b.mtu < 1024 || 4096 < b.mtu then s
  else { s with qpairs := mset s.qpairs b.qp { port := b.port, ctx := b.ctx, queue := b.queue, launch := b.launch, mtu := b.mtu } }

/-- RDMA_WRITE_ARRIVAL (R276): a plain write, admitted by an inbound net descriptor. -/
def execRdmaWriteArrival (qp rkey addr : Nat) (data : List Byte) (s : State) : Out :=
  match mget s.qpairs qp with
  | none => .next (s.send (.rdmaNak qp 0))
  | some q =>
    if !s.admits q.ctx 4 rkey addr data.length true then .next (s.send (.rdmaNak qp 2))
    else .next (s.runUnit 0 (.rdmaWriteArrival qp rkey addr data) (fun s => (s.unitFailed q.ctx).send (.rdmaNak qp 1)) do
      unitWrite none q.ctx addr false data
      modify fun s => s.send (.rdmaAck qp))

/-- RDMA_READ_ARRIVAL (R430). -/
def execRdmaReadArrival (qp rkey addr len : Nat) (s : State) : Out :=
  match mget s.qpairs qp with
  | none => .next (s.send (.rdmaNak qp 0))
  | some q =>
    if !s.admits q.ctx 4 rkey addr len false then .next (s.send (.rdmaNak qp 2))
    else .next (s.runUnit 0 (.rdmaReadArrival qp rkey addr len) (fun s => (s.unitFailed q.ctx).send (.rdmaNak qp 1)) do
      let r ← unitRead none q.ctx addr len
      match r.2 with
      | some mc => modify fun s => (s.machineCheck mc.1 q.ctx mc.2).send (.rdmaNak qp 1)
      | none => modify fun s => s.send (.rdmaRead qp r.1))

/-- RDMA_ATOMIC_ARRIVAL (R430): a NAK for an invalid request. -/
def execRdmaAtomicArrival (qp : Nat) (s : State) : Out := .next (s.send (.rdmaNak qp 0))

/-- Has a command queue room (R398)? -/
def State.queueRoom (s : State) (x q : Nat) : Bool := (mgetD (s.ctx x).queues q []).length < 64

/-- RDMA_SEND_LAUNCH (R430). A SEND on a queue pair without LAUNCH has no effect that the manual gives. -/
def execRdmaSendLaunch (qp : Nat) (data : List Byte) (s : State) : Out :=
  match mget s.qpairs qp with
  | none => .next (s.send (.rdmaNak qp 0))
  | some q =>
    let pkt := wordsOf 32 data
    if !q.launch then .next s
    else if data.length != 256 then .next ((s.dropRecord q.ctx q.queue 2 0 0).send (.rdmaNak qp 1))
    else if !s.queueRoom q.ctx q.queue then
      .next ((s.dropRecord q.ctx q.queue 1 (pkt.getD 0 0) (pkt.getD 7 0)).send (.rdmaNak qp 1))
    else .next ((s.appendPacket q.ctx q.queue pkt).send (.rdmaAck qp))

/-- CONGESTION_NOTIFICATION_PACKET (R430). -/
def execCongestionNotificationPacket (qp : Nat) (s : State) : Out :=
  match mget s.qpairs qp with
  | none => .next s
  | some q => .next { s with qpairs := mset s.qpairs qp { q with lowered := q.lowered + s.rateStep } }

/-! ### PCIe (R431) -/

/-- PCIE_INBOUND: a write admitted by an inbound pcie descriptor of the device's context; any other request is unsupported. -/
def execPcieInbound (requester : Nat) (write : Bool) (addr : Nat) (data : List Byte) (s : State) : Out :=
  match mget s.requesters requester with
  | none => .next (s.send (.pcieUr requester))
  | some x =>
    if !write || !s.admits x 5 0 addr data.length true then .next (s.send (.pcieUr requester))
    else .next (s.runUnit 0 (.pcieInbound requester write addr data) (fun s => (s.unitFailed x).send (.pcieUr requester))
      (unitWrite none x addr false data))

end Sys2Proof.Machine
end

