-- ==== Sys2Proof/Machine/Fabric.lean ====
section
/-!
DEFINITION. The fabric: tokens and their headers (R19 to R22, R64), input ports, heads, sticky counts and channels (R23 to
R26, R52, R391), the common firing rule (R129 to R133), commit points and their settle buffers (R37, R166, R167), quench
filters as the heads see them (R168, R169), the swap on eos (R390, R394) and the end of a page's sources (R392).
-/
namespace Sys2Proof.Machine

/-! ### Tokens -/

def TKind.code : TKind → Nat
  | .val => 0 | .crd => 1 | .ref => 2 | .stop => 3 | .done => 4 | .eos => 5 | .poison => 7
/-- Stop, D and eos (R21). -/
def Token.isCtl (t : Token) : Bool := t.kind == .stop || t.kind == .done || t.kind == .eos
/-- val, crd and ref (R131). -/
def Token.isData (t : Token) : Bool := t.kind == .val || t.kind == .crd || t.kind == .ref
def Token.isPoison (t : Token) : Bool := t.kind == .poison
/-- A control token (R21). -/
def ctlTok (k : TKind) (lvl : Nat) : Token := { kind := k, lvl := lvl }
def stopTok (lvl : Nat) : Token := ctlTok .stop lvl
def doneTok : Token := ctlTok .done 0
def eosTok : Token := ctlTok .eos 0
/-- The header word (R19, R64). -/
def Token.header (t : Token) : Word :=
  word (t.width * 2 ^ 46 + t.worth.toNat * 2 ^ 30 + t.set.toNat * 2 ^ 6 + t.lvl * 2 ^ 3 + t.kind.code)
/-- Width code of a payload of 32, 64 or 512 bits. -/
def owOf (bits : Nat) : Nat := if bits ≤ 32 then 0 else if bits ≤ 64 then 1 else 2
/-- A payload. -/
def payOf (n : Nat) : BitVec 512 := BitVec.ofNat 512 n
def Token.num (t : Token) : Nat := t.pay.toNat
/-- A poison token in place of a value (R22): the machine-check code in [15:0]. -/
def poisonTok (width code : Nat) (set : BitVec 24) (worth : BitVec 16) : Token :=
  { width := width, worth := worth, set := set, kind := .poison, pay := payOf (code % 2 ^ 16) }

/-! ### Source fields (R52) -/

def srcSel (v : Nat) : Nat := bits v 13 6
def srcPrt (v : Nat) : Nat := bits v 12 1
def srcLpg (v : Nat) : Nat := bits v 8 4
def srcDep (v : Nat) : Nat := bits v 5 3
def srcRnk (v : Nat) : Bool := bits v 4 1 == 1
def srcStk (v : Nat) : Nat := bits v 0 4
/-- The parts of a source that name its producer. -/
def srcWho (v : Nat) : Nat × Nat × Nat × Bool := (srcSel v, srcPrt v, srcLpg v, srcDep v == 7)

/-- Source of a port in the active and in the shadow bank: 0 a, 1 b, 2 c, 8 + i channel i of APORT (R355). -/
def Elem.src (e : Elem) (p : Nat) : Nat := if p < 8 then e.fld (1 + p) else bits (e.fld (8 + p)) 0 19
def Elem.src1 (e : Elem) (p : Nat) : Nat := if p < 8 then e.fld1 (1 + p) else bits (e.fld1 (8 + p)) 0 19
def Elem.port (e : Elem) (p : Nat) : Port :=
  if p == 0 then e.pa else if p == 1 then e.pb else if p == 2 then e.pc else mgetD e.chans (p - 8) {}
def Elem.setPort (e : Elem) (p : Nat) (x : Port) : Elem :=
  if p == 0 then { e with pa := x } else if p == 1 then { e with pb := x } else if p == 2 then { e with pc := x }
  else { e with chans := mset e.chans (p - 8) x }
def Elem.op1 (e : Elem) : Nat := bits (e.fld1 0) 11 8
def Elem.mode1 (e : Elem) : Nat := bits (e.fld1 14) 4 15
def Elem.sub1 (e : Elem) : Nat := bits (e.fld1 0) 4 4
/-- The input channels that a bank of APORT binds. -/
def boundIn (fld : Nat → Nat) : List Nat := (upTo 8).filter fun n => bits (fld (4 + n / 3)) (16 * (n % 3) + 15) 1 == 1
/-- The ports that a bank uses: DPORT and HEAD without a command source use none (R184, R389). -/
def portsOf (fld : Nat → Nat) (op mode sub : Nat) : List Nat :=
  if op == 0xB4 then (boundIn fld).map (8 + ·)
  else if op == 0xB6 || op == 0xB7 then (if fld 1 == 0 then [] else [0])
  else opPorts op mode sub
def Elem.ports (e : Elem) : List Nat :=
  if e.op == 0xB0 then (if e.routeX.isSome then [0] else []) ++ (if e.routeY.isSome then [1] else [])
  else portsOf e.fld e.op e.mode e.sub
def Elem.ports1 (e : Elem) : List Nat := portsOf e.fld1 e.op1 e.mode1 e.sub1
/-- Is a port fed by a register of its own element (R52, R130)? -/
def Elem.isReg (e : Elem) (p : Nat) : Bool := p < 8 && e.op != 0xB0 && srcDep (e.src p) == 7
/-- Is a port ranked (R171)? -/
def Elem.ranked (e : Elem) (p : Nat) : Bool := e.op != 0xB0 && srcRnk (e.src p)
/-- Slots of a port's buffer (R24, R52, R356); a boundary element, MPORT, DPORT and HEAD have their own eight. -/
def Elem.depth (e : Elem) (p : Nat) : Nat :=
  if e.op == 0xB0 || (p < 8 && 0xB5 ≤ e.op && e.op ≤ 0xB7) then 8 else 8 * (srcDep (e.src p) + 1)

/-- A configured value read as 64 bits (R53). -/
def Elem.wide (e : Elem) (f : Nat) : Nat := sext 49 64 (e.fld f)
def Elem.k (e : Elem) (i : Nat) : Nat := e.wide (4 + i)
/-- The token that a register source holds (R130). -/
def Elem.regTok (e : Elem) (sel : Nat) : Token :=
  { width := 1, pay := payOf (if sel == 4 then e.q0.toNat else if sel == 5 then e.q1.toNat else e.k sel) }

/-! ### Quench filters (R161, R168, R169) -/

/-- Is set a later than set b, where only identifiers are at hand (R161)? -/
def later (a b : BitVec 24) : Bool :=
  let m := 2 ^ 22 - 1
  let d := (bits a.toNat 0 22 + m - bits b.toNat 0 22) % m
  (1 ≤ d && d < 2 ^ 21) || (bits a.toNat 0 22 == bits b.toNat 0 22 && bits b.toNat 22 2 < bits a.toNat 22 2)
def Core.filtered (k : Core) (set : BitVec 24) : Bool := k.filter.contains set
def Core.inRange (k : Core) (set : BitVec 24) : Bool :=
  match k.range with
  | none => false
  | some (lo, hi) => !later lo set && !later set hi
/-- Is a head discarded unfired by the filter (R169)? -/
def Core.quenches (k : Core) (x : Slotted) : Bool := x.tok.isData && x.tok.set != 0 && k.filtered x.tok.set
/-- Must a head be looked up at its home damper first (R168)? -/
def Core.asks (k : Core) (x : Slotted) : Bool :=
  x.tok.isData && x.tok.set != 0 && !k.filtered x.tok.set && k.inRange x.tok.set && !x.looked

/-! ### Heads, sticky residents and consumption (R24, R26) -/

/-- The head: a resident token, or the oldest in the buffer. -/
def Port.head (p : Port) : Option Slotted :=
  match p.res with
  | some (t, _) => some t
  | none => p.q.head?
/-- Has an eos arrived in a buffer? -/
def hasEos (q : List Slotted) : Bool := q.any fun x => x.tok.kind == .eos

/-- Consume the head once, under a sticky count s: any token then stays resident for s firings more, and for s = 15 until an eos
arrives. The flag says whether a new token has been consumed. -/
def Port.take (p : Port) (stk : Nat) : Port × Bool :=
  match p.res, p.q with
  | some (t, none), q => ({ p with res := if hasEos q then none else some (t, none) }, false)
  | some (t, some n), _ => ({ p with res := if n ≤ 1 then none else some (t, some (n - 1)) }, false)
  | none, [] => (p, false)
  | none, x :: r =>
    if stk == 0 || (stk == 15 && hasEos (x :: r)) then ({ p with q := r }, true)
    else ({ p with q := r, res := some (x, if stk == 15 then none else some stk) }, true)
/-- An element is within a step or a firing that waits for an answer: its heads stay its heads (R169, R197). -/
def Elem.inStep (e : Elem) : Bool := (e.begun && 0x80 ≤ e.op && e.op ≤ 0x8C) || e.due || e.got.isSome
/-- A token enters a buffer: an eos removes a resident whose count is 15. Within a step on that resident the step's end does. -/
def Port.push (p : Port) (x : Slotted) (pin : Bool) : Port :=
  { p with q := p.q ++ [x], res := p.res.filter fun r => !(x.tok.kind == .eos && r.2.isNone && !pin) }

/-- Remove the head outright, as a quench does (R169). -/
def Port.discard (p : Port) : Port :=
  match p.res with
  | some _ => { p with res := none }
  | none => { p with q := p.q.drop 1 }

/-- The head of a port as a firing sees it: a register source always holds one; a head that a quench discards, or that must
be looked up first, is none yet. -/
def State.headAt (s : State) (c p r : Nat) : Option Slotted :=
  let e := s.elem c p
  if e.isReg r then some { tok := e.regTok (srcSel (e.src r)) }
  -- the check is made when a firing begins: one that waits for an answer goes on
  else (e.port r).head.filter fun x => e.inStep || (!(s.core c).quenches x && !(s.core c).asks x)

/-- An element that cannot go on yet: nothing of the firing happens. -/
def stall {α : Type} : M α := parkFor .bank
/-- The head that a firing needs. -/
def need (c p r : Nat) : M Slotted := do
  match (← get).headAt c p r with
  | some x => pure x
  | none => stall
/-- An element fault about a head (R135, R193): port, header and stream position. -/
def faultAt (code r : Nat) (x : Slotted) : Stop := .fault code (if r < 3 then r else 0) 0 0 x.tok.header x.ord
/-- Name the head at which a fault of an access was found. -/
def atHead {α : Type} (r : Nat) (x : Slotted) (m : M α) : M α := fun s =>
  match m s with
  | .error (.fault code _ hnd w5 _ _) => .error (.fault code (if r < 3 then r else 0) hnd w5 x.tok.header x.ord)
  | a => a

/-- A data head is consumed: each t-th sends a trigger event (R392). -/
def Elem.trigger (e : Elem) : Elem :=
  let t := bits (e.fld 13) 0 19
  if e.op == 0xB0 || e.op == 0xB7 || t == 0 then e
  else if t ≤ e.trig + 1 then { e with trig := 0, trigOut := e.trigOut + 1 }
  else { e with trig := e.trig + 1 }
/-- Consume the head of a port. -/
def Elem.take (e : Elem) (r : Nat) : Elem :=
  if e.isReg r then e
  else
    let p := e.port r
    let t := p.take (if e.op == 0xB0 then 0 else srcStk (e.src r))
    match p.head.filter fun _ => t.2 with
    | none => e.setPort r t.1
    | some x =>
      let e := e.setPort r { t.1 with ended := t.1.ended || (e.armed && x.tok.kind == .eos) }
      if x.tok.isData then e.trigger else e
def consume (c p r : Nat) : M Unit := modify fun s => s.modElem c p fun e => e.take r
def consumeAll (c p : Nat) (rs : List Nat) : M Unit := modify fun s => s.modElem c p fun e => rs.foldl Elem.take e

/-! ### Channels (R23 to R25, R171, R357, R391, R396) -/

/-- Is a launch `elastic` (R399)? -/
def Launch.elastic (k : Launch) : Bool := fld (k.pkt.getD 0 0) 32 2 == 2
/-- Do two cores host pages of one page set instance on one share? -/
def sameSet (a b : Owner) : Bool := a.launch == b.launch && a.pset == b.pset && a.inst == b.inst && a.share == b.share
/-- Does a source name output `out` of the producer at position p of a page? For APORT `out` is a channel (R357), and the
source of the job channel, 0x78000 exactly, names none (R356). -/
def srcNames (v p out lpg : Nat) (samePage chan : Bool) : Bool :=
  srcDep v != 7 && srcSel v == p
    && (if p == 60 then samePage && srcPrt v == 0 && srcLpg v == out && !(chan && v == 0x78000)
        else srcLpg v == lpg && srcPrt v == out)
/-- The ports that take the tokens of an output: core, position, port. -/
def State.consumers (s : State) (c p out : Nat) : List (Nat × Nat × Nat) :=
  match (s.core c).own with
  | none => []
  | some o =>
    s.cores.flatMap fun k =>
      match k.2.own with
      | none => []
      | some o' =>
        if o'.launch != o.launch then []
        else k.2.elems.flatMap fun e =>
          e.2.ports.filterMap fun r =>
            if e.2.op == 0xB0 then
              (if (if r == 0 then e.2.routeX else e.2.routeY) == some (c, p, out) then some (k.1, e.1, r) else none)
            else if sameSet o o' && srcNames (e.2.src r) p out o.lpg (k.1 == c) (8 ≤ r) then some (k.1, e.1, r)
            else none

/-- Slots taken at a port. -/
def Port.used (p : Port) : Nat :=
  p.q.length + b2n p.res.isSome + p.seg.length + (p.closing.map fun c => c.1.length + b2n c.2.isSome).sum + p.lane.length
/-- Does a channel of the actor port discard what arrives, after its slot has finished (R362)? -/
def Core.dropping (k : Core) (ch : Nat) : Option Nat := (k.slots.find? fun x => x.2.drop.contains ch).map (·.1)
/-- Has eos arrived at an armed consumer whose shadow names another producer (R391)? -/
def Elem.closedTo (e : Elem) (r : Nat) : Bool :=
  let p := e.port r
  e.armed && (hasEos p.q || p.closing.any (fun c => c.2.any (·.tok.kind == .eos)) || p.landing.any (·.tok.kind == .eos) || p.ended)
    && !(e.ports1.contains r && srcWho (e.src1 r) == srcWho (e.src r))

/-- Has a port room for a token (R25, R171, R174)? A data token may go to the landing register of a full ranked input. -/
def State.canTake (s : State) (dest : Nat × Nat × Nat) (ctl : Bool) : Bool :=
  let k := s.core dest.1
  let e := k.elem dest.2.1
  let r := dest.2.2
  let p := e.port r
  if 8 ≤ r && (k.dropping (r - 8)).isSome then true
  else if e.closedTo r then false
  else if e.ranked r then
    p.landing.isNone && p.lane.isEmpty && (!(s.launch (s.own dest.1).launch).elastic || !ctl || p.used < e.depth r)
  else p.used < e.depth r
/-- Has an output room for a token at every consumer of a fork? -/
def State.canEmit (s : State) (c p out : Nat) (ctl : Bool) : Bool := (s.consumers c p out).all fun t => s.canTake t ctl

/-- A token arrives at a port. -/
def State.arrive (s : State) (dest : Nat × Nat × Nat) (t : Token) : State :=
  let r := dest.2.2
  let elastic := (s.launch (s.own dest.1).launch).elastic
  s.modCore dest.1 fun k =>
    let e := k.elem dest.2.1
    let p := e.port r
    let x : Slotted := { tok := t, ord := p.seen }
    let p := { p with seen := p.seen + 1, ended := false }
    match (if 8 ≤ r then k.dropping (r - 8) else none) with
    | some n =>
      let k := k.setElem dest.2.1 (e.setPort r { p with ended := e.armed && t.kind == .eos })
      if t.kind == .eos then k.setSlot n { k.slot n with drop := ldel (k.slot n).drop (r - 8) } else k
    | none =>
      if e.ranked r && (p.landing.isSome || !p.lane.isEmpty) then k.setElem dest.2.1 (e.setPort r { p with lane := p.lane ++ [x] })
      else if e.ranked r && (!elastic || e.depth r ≤ p.used) then k.setElem dest.2.1 (e.setPort r { p with landing := some x })
      else k.setElem dest.2.1 (e.setPort r (p.push x e.inStep))
/-- Send a token on an output: each consumer receives its own copy. -/
def State.emit (s : State) (c p out : Nat) (t : Token) : State := (s.consumers c p out).foldl (fun s dest => s.arrive dest t) s

/-- Outputs that an element drives. -/
def Elem.outs (e : Elem) : List Nat := opOuts e.op e.mode

/-- The outputs of a firing: it takes place only when every output that the element drives has room (R25). -/
def emitNow (c p : Nat) (x y : Option Token) : M Unit := do
  let s ← get
  let outs := (s.elem c p).outs
  let pair := [(0, x), (1, y)].filter fun o => outs.contains o.1
  if pair.all fun o => s.canEmit c p o.1 (match o.2 with | some t => t.isCtl | none => false) then
    setState (pair.foldl (fun s o => match o.2 with | some t => s.emit c p o.1 t | none => s) s)
  else stall

/-! ### Swaps (R390, R394) and the end of sources (R392) -/

/-- Progress of a configuration starts afresh: q0 and q1 take their initial values (R130, R390). -/
def Elem.start (e : Elem) : Elem :=
  let port (p : Port) : Port := { p with prev := .start, lastCrd := none, ended := false }
  -- POPPFX keeps its running total in q0, from k0 (R201)
  { e with q0 := word (if e.op == 0x89 then e.k 0 % 2 ^ 32 else e.wide 8), q1 := word (e.wide 9), line := [], filled := false, acc := 0, accSet := false, folds := 0
           carry := none, prog := 0, begun := false, lo := 0, hi := 0, last := false, seenF := false, pend := none, j := 0
           p := 0, f := 0, fin := 0, lastStop := none, ending := false, holds := false, batch := [], hver := none
           pa := port e.pa, pb := port e.pb, pc := port e.pc, chans := e.chans.map fun x => (x.1, port x.2) }
/-- Exchange the banks of an armed element (R390). -/
def Elem.swapBanks (e : Elem) : Elem := Elem.start { e with b0 := e.b1, b1 := e.b0, armed := false }
/-- Armed positions of a page. -/
def Core.armedAll (k : Core) : List Nat := (k.elems.filter (·.2.armed)).map (·.1)
/-- REARM of HEAD (R388). -/
def Core.rearm (k : Core) : Bool := bitAt (k.elem 63).mode 5

/-- A position has swapped: with the last other armed element the armed NOPs swap too, and HEAD counts a completed page swap
once every element armed at the page end has swapped. -/
def State.afterSwap (s : State) (c pos : Nat) : State :=
  s.modCore c fun k =>
    let nops := k.armedAll
    let all := nops.all fun q => (k.elem q).op == 0
    let k := if all then nops.foldl (fun k q => k.setElem q (k.elem q).swapBanks) k else k
    let h := k.elem 63
    let swapped := (if all then nops else []).foldl ladd (ladd h.swapped pos)
    if h.armedAt.isEmpty || !(h.armedAt.all swapped.contains) then k.setElem 63 { h with swapped := swapped }
    else
      let k := k.setElem 63 { h with swapped := [], armedAt := [], swaps := h.swaps + 1 }
      if k.rearm then swapped.foldl (fun k q => k.setElem q { k.elem q with armed := true }) k else k
/-- An armed element swaps. -/
def State.swapAt (s : State) (c pos : Nat) : State := (s.modElem c pos Elem.swapBanks).afterSwap c pos

/-- An element has taken eos, or a source has sent it: it swaps when armed, and holds eos when not (R390, R402). -/
def State.tookEos (s : State) (c p : Nat) : State :=
  if (s.elem c p).armed then s.swapAt c p else s.modElem c p fun e => { e with holds := true }

/-- Is an element a source of R390: CNT, CONST with SRC, LDA, a scan with ROOT? -/
def Elem.isSource (e : Elem) : Bool :=
  let m0 := bitAt e.mode 0
  e.op == 0x40 || (e.op == 0x44 && m0) || e.op == 0xA0 || ((0x80 ≤ e.op && e.op ≤ 0x82) && m0)
/-- May the sources of a page fire (R388, R403)? -/
def State.sourcesRun (s : State) (c : Nat) : Bool := (s.core c).srcRun

/-- The end of a page's sources (R392): each closes its stream in its own firing; source actors become finished, at the end
of a firing in progress. -/
def State.endPage (s : State) (c : Nat) : State :=
  let k := s.core c
  let s := s.modCore c fun k =>
    let k := { k with elems := k.elems.map fun (e : Nat × Elem) =>
      if (e.2.isSource && e.2.fin == 0) || e.1 == 60 then (e.1, { e.2 with ending := true }) else e }
    k.setElem 63 { k.elem 63 with events := 0, armedAt := k.armedAll, swapped := [], endHeld := false }
  let ap := k.elem 60
  -- a source actor has no bound input
  (k.slots.filter fun x => x.2.status == .idle && (ap.inChans x.1).isEmpty).foldl (fun s x => s.finishSlot c x.1) s
/-- A page end: during a pre-emption's stop it is acted on after resume. -/
def State.pageEnd (s : State) (c : Nat) : State :=
  if s.sourcesRun c then s.endPage c else s.modElem c 63 fun e => { e with endHeld := true }

/-! ### Settle buffers (R37, R133, R166, R167) -/

def settleRoom (e : Elem) : Bool := e.settle.length < 32
/-- Is a parked effect decided: set 0, or answered? -/
def Parked.decided (x : Parked) : Bool := x.set == 0 || x.ans.isSome
def Parked.quenched (x : Parked) : Bool := x.ans == some true
/-- The CMT bit (R54). -/
def Elem.cmt (e : Elem) : Bool := bits (e.fld 11) 2 1 == 1

/-- Park an effect, with a commit request for its set unless the answer is known. -/
def parkEff (c p : Nat) (set : BitVec 24) (eff : Eff) : M Unit := do
  let s ← get
  let e := s.elem c p
  if !settleRoom e then stall
  else if set == 0 || set == e.lastSealed then
    setState (s.modElem c p fun e => { e with settle := e.settle ++ [{ set := set, ans := if set == 0 then none else some false, eff := eff }] })
  else
    let q := s.askCommit c set (.settle c p)
    setState (q.1.modElem c p fun e => { e with settle := e.settle ++ [{ set := set, req := some q.2, eff := eff }] })
/-- The outputs of a firing leave at once, or at a commit point in its order once decided (R133). -/
def sendOut (c p : Nat) (set : BitVec 24) (x y : Option Token) : M Unit := do
  if ((← get).elem c p).cmt then parkEff c p set (.emit x y) else emitNow c p x y

/-! ### Header rules (R54, R132) -/

def Elem.pol (e : Elem) : Nat := bits (e.fld 11) 0 2
def Elem.rsrc (e : Elem) : Nat := bits (e.fld 12) 0 2
def Elem.ow (e : Elem) : Nat := bits (e.fld 14) 2 2
def Elem.lf (e : Elem) : Nat := bits (e.fld 14) 0 2
def Elem.rnd (e : Elem) : Nat := bits (e.fld 10) 0 2

/-- The first pair of heads with different nonzero sets: the later one, which a mismatch names. -/
def setClash : List (Nat × Slotted) → Option (Nat × Slotted)
  | [] => none
  | (_, x) :: r =>
    if x.tok.set == 0 then setClash r
    else r.find? fun y => y.2.tok.set != 0 && y.2.tok.set != x.tok.set
/-- The token whose set is inherited: heads by their logical ports 0 a, 1 b, 2 c (R132). -/
def inherit (pol : Nat) (hs : List (Nat × Token)) : Option Token :=
  let at_ (i : Nat) : Option Token := (hs.find? (·.1 == i)).map (·.2)
  if pol == 0 then at_ 0
  else if pol == 1 then at_ 1
  else if pol == 2 then ((hs.find? fun h => h.2.set != 0).map (·.2)).or (at_ 0)
  else none
/-- Set and worth of a token that an element builds from heads; `lane0` is lane 0 of the result. Of a result lane narrower than 32 bits,
[31:16] is 0; [15:0] of a narrower lane of b reaches into the lanes above (DESIGN CHOICE, log 94). -/
def Elem.headerOf (e : Elem) (hs : List (Nat × Token)) (lane0 : Nat) : BitVec 24 × BitVec 16 :=
  let t := inherit e.pol hs
  let worth : BitVec 16 :=
    match e.rsrc with
    | 0 => match t with | some t => t.worth | none => 0
    | 1 => BitVec.ofNat 16 (bits lane0 16 16)
    | 2 => BitVec.ofNat 16 (e.k 3)
    | _ => match hs.find? (·.1 == 1) with | some b => BitVec.ofNat 16 b.2.num | none => Config.freeWorth lane0
  (match t with | some t => t.set | none => 0, worth)

/-- Refuse heads whose sets clash under POL "require equal" (R132): fault 0x21 at a physical port. -/
def checkSets (pol : Nat) (phys : Nat → Nat) (hs : List (Nat × Slotted)) : M Unit :=
  if pol == 2 then
    match setClash hs with
    | some (i, x) => stop (faultAt 0x21 (phys i) x)
    | none => pure ()
  else pure ()

/-! ### Control tokens (R131) -/

/-- Control tokens of the channel heads: none when every head is data; the common one; fault 0x22 where they differ. -/
def controlOf (phys : Nat → Nat) (hs : List (Nat × Slotted)) : M (Option Token) :=
  match hs.find? fun h => h.2.tok.isCtl with
  | none => pure none
  | some (_, k) =>
    match hs.find? fun h => !(h.2.tok.kind == k.tok.kind && h.2.tok.lvl == k.tok.lvl) with
    | some (i, x) => stop (faultAt 0x22 (phys i) x)
    | none => pure (some k.tok)

/-- Forward a control token on the driven outputs and consume it at the ports; an armed element passes eos once every
earlier parked effect is decided, and then swaps (R390). -/
def passCtl (c p : Nat) (rs : List Nat) (t : Token) : M Unit := do
  let e := (← get).elem c p
  if t.kind == .eos && e.armed then
    if !e.settle.isEmpty then stall
    else do
      emitNow c p (some t) (some t)
      consumeAll c p rs
      modify fun s => s.swapAt c p
  else
    sendOut c p 0 (some t) (some t)
    consumeAll c p rs
    if t.kind == .eos then modify fun s => s.modElem c p fun e => { e with holds := true } else pure ()

/-! ### Element types of field 0 -/

def Elem.ty (e : Elem) : Nat := bits (e.fld 0) 8 3

/-- SW exchanges ports a and b (R59). -/
def physPort (sw : Bool) (i : Nat) : Nat := if sw && i < 2 then 1 - i else i

/-- Read the heads of an operation under the common firing rule: a control token is passed and answers none; data heads are
answered by their logical ports. A poison head at a commit point is fault 0x23 (R133). -/
def commonHeads (c p : Nat) (sw : Bool) (ports : List Nat) : M (Option (List (Nat × Slotted))) := do
  let e := (← get).elem c p
  let phys := physPort sw
  let hs ← ports.mapM fun i => do
    let x ← need c p (phys i)
    pure (i, x)
  match (if e.cmt then hs.find? fun h => h.2.tok.isPoison else none) with
  | some (i, x) => stop (faultAt 0x23 (phys i) x)
  | none =>
    let chan := hs.filter fun h => !e.isReg (phys h.1)
    match ← controlOf phys chan with
    | some t => do
      passCtl c p (chan.map fun h => phys h.1) t
      pure none
    | none => do
      checkSets e.pol phys hs
      pure (some hs)

def tokensOf (hs : List (Nat × Slotted)) : List (Nat × Token) := hs.map fun h => (h.1, h.2.tok)
/-- The head at a logical port. -/
def headTok (hs : List (Nat × Slotted)) (i : Nat) : Token := ((hs.find? (·.1 == i)).map (·.2.tok)).getD {}
/-- The machine-check code of the lowest-lettered poison head. -/
def poisonOf (hs : List (Nat × Slotted)) : Option Nat := (hs.find? fun h => h.2.tok.isPoison).map fun h => bits h.2.tok.num 0 16
/-- The kind of a result: that of the head at port a (R131). -/
def kindOf (t : Token) : TKind := if t.isData then t.kind else .val

end Sys2Proof.Machine
end

