-- ==== Sys2Proof/Machine/Arith.lean ====
section
/-!
DEFINITION. The firings of arithmetic elements, opcodes 0x01–0x44 (05 R129 to R151). Each `op…` is one firing of the element
at a position of a core's page, or a stall.
-/
namespace Sys2Proof.Machine

/-! ### The common firing (R129, R131, R132) -/

/-- The lanes that a head supplies. -/
def Elem.lanesIn (e : Elem) (ty : Nat) (t : Token) : List Nat := inLanes e.lf ty (t.width == 2) t.num
/-- Complete a firing with a result: its lanes, their width, and whether it is a signed integer. -/
def finishLanes (c p : Nat) (sw : Bool) (hs : List (Nat × Slotted)) (kind : TKind) (signed : Bool) (w : Nat) (ls : List Nat)
    (fl : Flags) : M Unit := do
  let e := (← get).elem c p
  let lane0 := ls.headD 0 % 2 ^ w
  let pay := if e.lf == 3 then (if signed then sext w (owBits e.ow) lane0 else lane0) else packLanes w ls
  let h := e.headerOf (tokensOf hs) lane0
  sendOut c p h.1 (some { width := e.ow, worth := h.2, set := h.1, kind := kind, pay := payOf pay }) none
  consumeAll c p (hs.map fun x => physPort sw x.1)
  modify fun s => s.record c p fl
/-- Complete a firing that met poison (R132): poison on every output it drives, and no flag. -/
def finishPoison (c p : Nat) (sw : Bool) (hs : List (Nat × Slotted)) (code : Nat) : M Unit := do
  let e := (← get).elem c p
  let h := e.headerOf (tokensOf hs) 0
  let t := poisonTok e.ow code h.1 h.2
  sendOut c p h.1 (some t) (some t)
  consumeAll c p (hs.map fun x => physPort sw x.1)

/-- A firing of the common rule: the heads' lanes give the result lanes and flags. -/
def fireLanes (c p : Nat) (m : EMod) (ports : List Nat) (kind : Option TKind) (signed : Bool) (w : Elem → Nat)
    (f : Elem → List (Nat × Slotted) → List Nat × Flags) : M Unit := do
  match ← commonHeads c p (m.sw == 1) ports with
  | none => pure ()
  | some hs =>
    match poisonOf hs with
    | some code => finishPoison c p (m.sw == 1) hs code
    | none => do
      let e := (← get).elem c p
      let r := f e hs
      finishLanes c p (m.sw == 1) hs (kind.getD (kindOf (headTok hs 0))) signed (w e) r.1 r.2

/-- A lane-wise operation: result lane i from lane i of each input. -/
def laneOp (c p : Nat) (m : EMod) (ports : List Nat) (kind : Option TKind) (signed : Bool) (g : Elem → Nat → Nat → Nat → Nat × Flags) :
    M Unit :=
  let ty := m.ty.toNat
  fireLanes c p m ports kind signed (fun e => lfW e.lf ty) fun e hs =>
    let a := e.lanesIn ty (headTok hs 0)
    let b := e.lanesIn ty (headTok hs 1)
    let d := e.lanesIn ty (headTok hs 2)
    let rs := (upTo (lfLanes e.lf)).map fun i => g e (a.getD i 0) (b.getD i 0) (d.getD i 0)
    (rs.map (·.1), joinFlags (rs.map (·.2)))

/-! ### Integer operations (R136) -/

/-- An integer operation of two inputs. -/
def int2 (c p : Nat) (m : EMod) (g : Nat → Nat → Nat × Flags) : M Unit :=
  laneOp c p m [0, 1] none (tySigned m.ty.toNat) fun _ a b _ => g a b
/-- An integer operation of one input. -/
def int1 (c p : Nat) (m : EMod) (g : Nat → Nat × Flags) : M Unit :=
  laneOp c p m [0] none (tySigned m.ty.toNat) fun _ a _ _ => g a

def opIadd (m : EMod) (c p : Nat) : M Unit := int2 c p m fun a b => iAdd m.ty.toNat (m.sat == 1) a b
def opIsub (m : EMod) (c p : Nat) : M Unit := int2 c p m fun a b => iSub m.ty.toNat (m.sat == 1) a b
def opImul (m : EMod) (c p : Nat) : M Unit := int2 c p m fun a b => iMul m.ty.toNat (m.sat == 1) a b
def opImad (m : EMod) (c p : Nat) : M Unit :=
  laneOp c p m [0, 1, 2] none (tySigned m.ty.toNat) fun _ a b d => iMad m.ty.toNat (m.sat == 1) a b d
def opImin (m : EMod) (c p : Nat) : M Unit := int2 c p m fun a b => (iMin m.ty.toNat a b, noFlags)
def opImax (m : EMod) (c p : Nat) : M Unit := int2 c p m fun a b => (iMax m.ty.toNat a b, noFlags)
def opIabs (m : EMod) (c p : Nat) : M Unit := int1 c p m fun a => iAbs m.ty.toNat (m.sat == 1) a
def opAndElement (m : EMod) (c p : Nat) : M Unit := int2 c p m fun a b => (bAnd m.ty.toNat a b, noFlags)
def opOrElement (m : EMod) (c p : Nat) : M Unit := int2 c p m fun a b => (bOr m.ty.toNat a b, noFlags)
def opXorElement (m : EMod) (c p : Nat) : M Unit := int2 c p m fun a b => (bXor m.ty.toNat a b, noFlags)
def opNot (m : EMod) (c p : Nat) : M Unit := int1 c p m fun a => (bNot m.ty.toNat a, noFlags)
def opShlElement (m : EMod) (c p : Nat) : M Unit := int2 c p m fun a b => (shlN m.ty.toNat a b, noFlags)
def opShrElement (m : EMod) (c p : Nat) : M Unit := int2 c p m fun a b => (shrN m.ty.toNat a b, noFlags)
def opSarElement (m : EMod) (c p : Nat) : M Unit := int2 c p m fun a b => (sarN m.ty.toNat a b, noFlags)
def opIcmp (m : EMod) (c p : Nat) : M Unit := int2 c p m fun a b => (iCmp m.ty.toNat m.sub.toNat a b, noFlags)

/-! ### Floating-point operations (R137 to R140) -/

/-- A float operation on lanes. -/
def flt (c p : Nat) (m : EMod) (ports : List Nat) (g : Nat → Nat → Nat → Nat → Nat × Flags) : M Unit :=
  laneOp c p m ports none false fun e a b d => g e.rnd a b d

def opFaddElement (m : EMod) (c p : Nat) : M Unit := flt c p m [0, 1] fun r a b _ => fAdd m.ty.toNat r a b
def opFsubElement (m : EMod) (c p : Nat) : M Unit := flt c p m [0, 1] fun r a b _ => fSub m.ty.toNat r a b
def opFmulElement (m : EMod) (c p : Nat) : M Unit := flt c p m [0, 1] fun r a b _ => fMul m.ty.toNat r a b
def opFfmaElement (m : EMod) (c p : Nat) : M Unit := flt c p m [0, 1, 2] fun r a b d => fFma m.ty.toNat r a b d
def opFminElement (m : EMod) (c p : Nat) : M Unit := flt c p m [0, 1] fun _ a b _ => (fMin m.ty.toNat a b, noFlags)
def opFmaxElement (m : EMod) (c p : Nat) : M Unit := flt c p m [0, 1] fun _ a b _ => (fMax m.ty.toNat a b, noFlags)
def opFabs (m : EMod) (c p : Nat) : M Unit := flt c p m [0] fun _ a _ _ => (fAbs m.ty.toNat a, noFlags)
def opFneg (m : EMod) (c p : Nat) : M Unit := flt c p m [0] fun _ a _ _ => (fNeg m.ty.toNat a, noFlags)
def opFcmpElement (m : EMod) (c p : Nat) : M Unit :=
  laneOp c p m [0, 1] (some .val) false fun _ a b _ => fCmp m.ty.toNat m.sub.toNat a b
def opFclassElement (m : EMod) (c p : Nat) : M Unit :=
  laneOp c p m [0] (some .val) false fun _ a _ _ => (fClass m.ty.toNat a, noFlags)
def opFcpys (m : EMod) (c p : Nat) : M Unit := flt c p m [0, 1] fun _ a b _ => (fCpys m.ty.toNat a b, noFlags)
def opFexp (m : EMod) (c p : Nat) : M Unit :=
  laneOp c p m [0] none (m.sub.toNat % 2 == 1) fun _ a _ _ => (fExp m.ty.toNat m.sub.toNat a, noFlags)
def opFldx (m : EMod) (c p : Nat) : M Unit := flt c p m [0, 1] fun r a b _ => fLdx m.ty.toNat r a b

/-! ### CMPF (R141) -/

/-- Does candidate a win over candidate b? `exc` is the excluded index. -/
def candWins (ty sub : Nat) (exc : Option Nat) (a b : Nat) : Bool :=
  let f := tyFmt ty
  let score (x : Nat) : Num := if exc == some (bits x 32 32) then .nan else f.decode (bits x 0 (tyW ty))
  let sa := score a
  let sb := score b
  let index : Bool := bits a 32 32 ≤ bits b 32 32
  match sa.cmp sb with
  | some .eq => index
  | some .lt => sub == 1
  | some .gt => sub == 0
  | none => if sa.isNan && sb.isNan then index else sb.isNan

def opCmpf (m : EMod) (c p : Nat) : M Unit := do
  let e := (← get).elem c p
  let exc := bitAt e.mode 1
  match ← commonHeads c p (m.sw == 1) (if exc then [0, 1, 2] else [0, 1]) with
  | none => pure ()
  | some hs =>
    let a := headTok hs 0
    let b := headTok hs 1
    -- a poison head keeps its set, which must agree too in the vector form
    if e.lf != 3 && b.set != 0 && b.set != a.set then
      stop (faultAt 0x21 (physPort (m.sw == 1) 1) ((hs.find? (·.1 == 1)).map (·.2) |>.getD { tok := b }))
    else match poisonOf hs with
    | some code => finishPoison c p (m.sw == 1) hs code
    | none =>
      let wins := candWins m.ty.toNat m.sub.toNat (if exc then some (bits (headTok hs 2).num 0 32) else none)
      if e.lf == 3 then do
        let w := wins a.num b.num
        let x := if w then a else b
        let pair (t : Token) : Token := { t with width := 1, pay := payOf (t.num % 2 ^ 64) }
        -- the set whose commit a commit point awaits is that of the forwarded winner
        sendOut c p x.set (some (pair x)) (some (pair (if w then b else a)))
        consumeAll c p (hs.map fun h => physPort (m.sw == 1) h.1)
      else do
        let pairs (t : Token) : List Nat := if t.width == 2 then lanesOf 64 8 t.num else List.replicate 8 (t.num % 2 ^ 64)
        let rs := (pairs a).zip (pairs b)
        let pick (win : Bool) : BitVec 512 := payOf (packLanes 64 (rs.map fun r => if wins r.1 r.2 == win then r.1 else r.2))
        sendOut c p a.set (some { a with width := 2, pay := pick true }) (some { a with width := 2, pay := pick false })
        consumeAll c p (hs.map fun h => physPort (m.sw == 1) h.1)

/-! ### Selection and conversion (R142 to R144) -/

def opSelElement (m : EMod) (c p : Nat) : M Unit :=
  laneOp c p m [0, 1, 2] none (tySigned m.ty.toNat) fun _ a b d => (if d != 0 then a else b, noFlags)

/-- CVT: MODE holds PART, USC, SF and DF (R143). -/
def opCvtElement (m : EMod) (c p : Nat) : M Unit := do
  let e := (← get).elem c p
  let df := bits e.mode 0 4
  let sf := if bits e.mode 4 4 == 0 then tyCode m.ty.toNat else bits e.mode 4 4
  let scale := if bitAt e.mode 8 then some (e.k 0 % 256) else none
  fireLanes c p m [0] none (fmtSigned df) (fun _ => fmtW df) fun e hs =>
    let a := e.lanesIn m.ty.toNat (headTok hs 0)
    let dl := if e.lf == 3 then 1 else 512 / fmtW df
    let n := min a.length dl
    let rs := (upTo n).map fun j => convert sf df e.rnd (m.sat == 1) scale (a.getD (bits e.mode 9 2 * n + j) 0)
    (rs.map (·.1) ++ List.replicate (dl - n) 0, joinFlags (rs.map (·.2)))

/-- Result format of PACK and of UNPACK (R144). -/
def packFmt (ty : Nat) : Nat := if ty == 0 then 9 else if ty == 2 then 7 else 2
def unpackFmt (ty : Nat) : Nat := if ty == 2 then 10 else if ty == 3 then 9 else 1

def opPack (m : EMod) (c p : Nat) : M Unit :=
  let ty := m.ty.toNat
  fireLanes c p m [0, 1] none false (fun _ => fmtW (packFmt ty)) fun e hs =>
    let ls := e.lanesIn ty (headTok hs 0) ++ e.lanesIn ty (headTok hs 1)
    let rs := ls.map fun v => convert (tyCode ty) (packFmt ty) e.rnd (m.sat == 1) none v
    (rs.map (·.1), joinFlags (rs.map (·.2)))
def opUnpack (m : EMod) (c p : Nat) : M Unit :=
  let ty := m.ty.toNat
  fireLanes c p m [0] none false (fun _ => fmtW (unpackFmt ty)) fun e hs =>
    let ls := e.lanesIn ty (headTok hs 0)
    let half := ls.length / 2
    let rs := ((ls.drop (bits e.mode 0 1 * half)).take half).map fun v => convert (tyCode ty) (unpackFmt ty) 0 false none v
    (rs.map (·.1), noFlags)

/-! ### Lane operations (R145, R146) -/

/-- Operands of a lane operation: lanes of a, b and c, the lane count, and the lane index k. -/
structure LaneArgs where
  a : List Nat
  b : List Nat
  c : List Nat
  n : Nat
  k : Nat
  e : Elem
  bpay : Nat
  deriving DecidableEq, Repr

/-- A lane operation. `dyn` is the port that supplies k with DYN. -/
def laneMove (c p : Nat) (m : EMod) (base : List Nat) (dyn : Option Nat) (f : LaneArgs → List Nat) : M Unit := do
  let e := (← get).elem c p
  let dy := bitAt e.mode 0
  let ports := match dyn with | some d => if dy then base ++ [d] else base | none => base
  let ty := m.ty.toNat
  fireLanes c p m ports none false (fun e => lfW e.lf ty) fun e hs =>
    let b := e.lanesIn ty (headTok hs 1)
    let d := e.lanesIn ty (headTok hs 2)
    let n := lfLanes e.lf
    let k := match dyn with
      | some 1 => if dy then b.headD 0 % 64 else e.k 0 % 64
      | some _ => if dy then d.headD 0 % 64 else e.k 0 % 64
      | none => e.k 0 % 64
    (f { a := e.lanesIn ty (headTok hs 0), b := b, c := d, n := n, k := k % n, e := e, bpay := (headTok hs 1).num }, noFlags)

def opShuf (m : EMod) (c p : Nat) : M Unit := laneMove c p m [0, 1] none fun x => x.b.map fun i => x.a.getD (i % x.n) 0
def opBcast (m : EMod) (c p : Nat) : M Unit := laneMove c p m [0] (some 1) fun x => List.replicate x.n (x.a.getD x.k 0)
def opLext (m : EMod) (c p : Nat) : M Unit :=
  laneMove c p m [0] (some 1) fun x => x.a.getD x.k 0 :: List.replicate (x.n - 1) 0
def opLins (m : EMod) (c p : Nat) : M Unit := laneMove c p m [0, 1] (some 2) fun x => x.a.set x.k (x.b.headD 0)
def opRot (m : EMod) (c p : Nat) : M Unit :=
  laneMove c p m [0] (some 1) fun x => (upTo x.n).map fun i => x.a.getD ((i + x.k) % x.n) 0
def opLmask (m : EMod) (c p : Nat) : M Unit := laneMove c p m [0, 1] none fun x =>
  (upTo x.n).map fun i => if bitAt (x.bpay % 2 ^ 64) i then x.a.getD i 0 else x.e.k 1 % 2 ^ lfW x.e.lf m.ty.toNat

def opLred (m : EMod) (c p : Nat) : M Unit :=
  let ty := m.ty.toNat
  fireLanes c p m [0] none false (fun e => lfW e.lf ty) fun e hs =>
    let n := lfLanes e.lf
    let r := treeFold (foldOp ty e.rnd (m.sat == 1) m.sub.toNat) (Nat.log2 n) (e.lanesIn ty (headTok hs 0))
    let t := r.1.headD 0
    (if bitAt e.mode 0 then List.replicate n t else t :: List.replicate (n - 1) 0, r.2)

/-- LSCAN: with CARRY the carry-in is the last inclusive lane of the previous data token, k0 after a control token. -/
def opLscan (m : EMod) (c p : Nat) : M Unit := do
  let e0 := (← get).elem c p
  let ty := m.ty.toNat
  let w := lfW e0.lf ty
  match ← commonHeads c p (m.sw == 1) [0] with
  | none => modify fun s => s.modElem c p fun e => { e with carry := none }
  | some hs =>
    match poisonOf hs with
    | some code => do
      finishPoison c p (m.sw == 1) hs code
      modify fun s => s.modElem c p fun e => { e with carry := some (Config.freeLane s.tick % 2 ^ w) }
    | none =>
      let init := if bitAt e0.mode 1 then e0.carry.getD (e0.k 0 % 2 ^ w) else e0.k 0 % 2 ^ w
      let r := scanFold (foldOp ty e0.rnd (m.sat == 1) m.sub.toNat) init (e0.lanesIn ty (headTok hs 0))
      let ls := if bitAt e0.mode 0 then init :: r.1.dropLast else r.1
      finishLanes c p (m.sw == 1) hs (kindOf (headTok hs 0)) false w ls r.2
      modify fun s => s.modElem c p fun e => { e with carry := r.1.getLast? }

/-! ### Sources, AFF, DELAY, CONST (R147 to R149, R151) -/

/-- A source has ended: it sends eos once, and swaps when armed (R147, R390, R392). -/
def endSource (c p : Nat) : M Unit := do
  let e := (← get).elem c p
  if e.armed then
    if !e.settle.isEmpty then stall
    else do
      emitNow c p (some eosTok) (some eosTok)
      modify fun s => s.swapAt c p
  else
    sendOut c p 0 (some eosTok) (some eosTok)
    modify fun s => s.modElem c p fun e => { e with fin := 2, ending := false, holds := true }
/-- The lanes of an arithmetic sequence base + j × step from index j, computed in TY; lanes from `top` on are 0. -/
def seqLanes (ty n : Nat) (base step : Int) (j top : Nat) : List Nat :=
  (upTo n).map fun i => if j + i < top then ofInt (tyW ty) (base + (j + i : Nat) * step) else 0
/-- max(0, k) of a constant register. -/
def kCount (e : Elem) (i : Nat) : Nat := (sgn 64 (e.k i)).toNat
/-- Index j held in q0. -/
def qIndex (e : Elem) : Int := sgn 64 e.q0.toNat

/-- CNT. -/
def opCnt (m : EMod) (c p : Nat) : M Unit := do
  let s ← get
  let e := s.elem c p
  if e.fin != 0 || !s.sourcesRun c then stall
  else if e.ending || (kCount e 2 : Int) ≤ qIndex e then endSource c p
  else
    let ty := m.ty.toNat
    let n := lfLanes e.lf
    let j := qIndex e
    let left := ((kCount e 2 : Int) - j).toNat
    let k0 := sgn 64 (e.k 0) + j * sgn 64 (e.k 1)
    finishLanes c p false [] .val (tySigned ty) (lfW e.lf ty) (seqLanes ty n k0 (sgn 64 (e.k 1)) 0 left) noFlags
    modify fun s => s.modElem c p fun e => { e with q0 := wordI (j + (min n left : Nat)) }

/-- The token of an AFF run, and its header from the head at a. -/
def affToken (c p ty : Nat) (x : Slotted) (j : Int) (left : Nat) : M Unit := do
  let e := (← get).elem c p
  let hs := [(0, x)]
  match (if x.tok.isPoison then some (bits x.tok.num 0 16) else none) with
  | some code => do
    let h := e.headerOf (tokensOf hs) 0
    sendOut c p h.1 (some (poisonTok e.ow code h.1 h.2)) none
  | none => do
    let n := lfLanes e.lf
    let base := rdInt ty x.tok.num
    let ls := seqLanes ty n (base + j * sgn 64 (e.k 1)) (sgn 64 (e.k 1)) 0 left
    let w := lfW e.lf ty
    let lane0 := ls.headD 0
    let pay := if e.lf == 3 then (if tySigned ty then sext w (owBits e.ow) lane0 else lane0) else packLanes w ls
    let h := e.headerOf (tokensOf hs) lane0
    sendOut c p h.1 (some { width := e.ow, worth := h.2, set := h.1, kind := kindOf x.tok, pay := payOf pay }) none

/-- AFF. `last` says that a run's S0 is still due. -/
def opAff (m : EMod) (c p : Nat) : M Unit := do
  let e := (← get).elem c p
  let stope := bitAt e.mode 0
  if e.last then do
    sendOut c p 0 (some (stopTok 0)) none
    modify fun s => s.modElem c p fun e => { e with last := false }
  else
    let x ← need c p 0
    if x.tok.isCtl then
      if stope && x.tok.kind == .stop then
        (if x.tok.lvl == 6 then stop (faultAt 0x24 0 x)
         else do
          sendOut c p 0 (some (stopTok (x.tok.lvl + 1))) none
          consume c p 0)
      else passCtl c p [0] x.tok
    else if e.cmt && x.tok.isPoison then stop (faultAt 0x23 0 x)
    else
      let n := lfLanes e.lf
      let j := qIndex e
      let top : Int := kCount e 2
      if top ≤ j then do
        -- an empty run; under STOPE its firing emits the S0
        (if stope then sendOut c p 0 (some (stopTok 0)) none else pure ())
        consume c p 0
        modify fun s => s.modElem c p fun e => { e with q0 := word (e.wide 8) }
      else do
        let left := (top - j).toNat
        affToken c p m.ty.toNat x j left
        (if left ≤ n then do
          consume c p 0
          modify fun s => s.modElem c p fun e => { e with q0 := word (e.wide 8), last := stope }
        else modify fun s => s.modElem c p fun e => { e with q0 := wordI (j + n) })

/-- The tokens that DELAY's line starts with (R149). -/
def Elem.delayFill (e : Elem) (ty : Nat) : List Token :=
  let k1 := e.k 1
  let pay := if e.ow == 0 then k1 % 2 ^ 32 else if e.ow == 1 then k1 else packLanes (lfW e.lf ty) (List.replicate (lfLanes e.lf) k1)
  List.replicate (kCount e 0) { width := e.ow, pay := payOf pay }
/-- DELAY. -/
def opDelay (m : EMod) (c p : Nat) : M Unit := do
  let e := (← get).elem c p
  let line := if e.filled then e.line else e.delayFill m.ty.toNat
  let x ← need c p 0
  if e.cmt && x.tok.isPoison then stop (faultAt 0x23 0 x)
  else if x.tok.kind == .eos then do
    passCtl c p [0] x.tok
    -- the line's contents are discarded; a swapped element starts with its own
    modify fun s => s.modElem c p fun e => if e.holds then { e with line := [], filled := true } else e
  else
    match line with
    | [] => do
      sendOut c p x.tok.set (some x.tok) none
      consume c p 0
    | t :: r => do
      sendOut c p t.set (some t) none
      consume c p 0
      modify fun s => s.modElem c p fun e => { e with line := r ++ [x.tok], filled := true }

/-- CONST. -/
def opConst (m : EMod) (c p : Nat) : M Unit := do
  let s ← get
  let e := s.elem c p
  let ty := m.ty.toNat
  let w := lfW e.lf ty
  let ls := List.replicate (lfLanes e.lf) (e.k 0 % 2 ^ w)
  if bitAt e.mode 0 then
    if e.fin != 0 || !s.sourcesRun c then stall
    else if e.ending || (kCount e 1 : Int) ≤ qIndex e then endSource c p
    else do
      finishLanes c p false [] .val (tySigned ty) w ls noFlags
      modify fun s => s.modElem c p fun e => { e with q0 := e.q0 + 1 }
  else
    match ← commonHeads c p (m.sw == 1) [0] with
    | none => pure ()
    | some hs =>
      match poisonOf hs with
      | some code => finishPoison c p false hs code
      | none => finishLanes c p false hs .val (tySigned ty) w ls noFlags

/-! ### ACC (R150) -/

/-- q0 in every lane of an accumulator of OW width. -/
def Elem.accInit (e : Elem) (ty : Nat) : BitVec 512 :=
  payOf (packLanes (lfW e.lf ty) (List.replicate (lfLanes e.lf) (e.q0.toNat % 2 ^ lfW e.lf ty)))
/-- The accumulator as it stands. -/
def Elem.accNow (e : Elem) (ty : Nat) : BitVec 512 := if e.accSet then e.acc else e.accInit ty
/-- A fold applied: one rounding in each lane. -/
def Elem.foldIn (e : Elem) (ty rnd : Nat) (sat : Bool) (sub : Nat) (t : Token) : Elem :=
  let w := lfW e.lf ty
  let n := lfLanes e.lf
  let a := lanesOf w n (e.accNow ty).toNat
  let b := e.lanesIn ty t
  let rs : List (Nat × Flags) := (upTo n).map fun i => foldOp ty rnd sat sub (a.getD i 0) (b.getD i 0)
  let e : Elem := { e with acc := payOf (packLanes w (rs.map (·.1))), accSet := true, folds := e.folds + 1 }
  e.record (joinFlags (rs.map (·.2)))
/-- The total as a token of set 0. -/
def Elem.total (e : Elem) (ty : Nat) : Token :=
  let w := lfW e.lf ty
  let n := (e.accNow ty).toNat
  let lane0 := n % 2 ^ w
  let pay := if e.lf == 3 then (if tySigned ty then sext w (owBits e.ow) lane0 else lane0) else n
  { width := e.ow, worth := (e.headerOf [] lane0).2, pay := payOf pay }
def Elem.accReset (e : Elem) : Elem := { e with acc := 0, accSet := false, folds := 0 }

/-- A sequence of tokens on x in one effect: the first leaves now, the others follow one firing each (R25). -/
def emitSeq (c p : Nat) (ts : List Token) : M Unit :=
  match ts with
  | [] => pure ()
  | t :: r => do
    emitNow c p (some t) none
    modify fun s => s.modElem c p fun e => { e with outQ := r.map fun (t : Token) => ((some t, none) : Option Token × Option Token) }
/-- An ordered commit point has handled eos while it was not armed (R402). -/
def eosHeld (c p : Nat) (t : Token) : M Unit :=
  if t.kind == .eos then modify fun s => s.modElem c p fun e => { e with holds := true } else pure ()
/-- A control token that a commit point handles in its order: parked, or for the eos of an armed element handled once every
earlier effect is decided, and followed by the swap (R390). -/
def parkCtls (c p : Nat) (rs : List Nat) (x : Slotted) (effect : Eff → M Unit) : M Unit := do
  let e := (← get).elem c p
  if x.tok.kind == .eos && e.armed then
    if !e.settle.isEmpty then stall
    else do
      effect (.ctl x)
      consumeAll c p rs
      modify fun s => s.swapAt c p
  else
    parkEff c p 0 (.ctl x)
    consumeAll c p rs
def parkCtl (c p r : Nat) (x : Slotted) (effect : Eff → M Unit) : M Unit := parkCtls c p [r] x effect

/-- ACC's effects, once decided. -/
def accEffect (c p : Nat) (eff : Eff) : M Unit := do
  let e := (← get).elem c p
  let ty := e.ty
  let mode := bits e.mode 0 2
  match eff with
  | .fold t => do
    let e' := e.foldIn ty e.rnd false e.sub t
    (if mode == 0 then emitNow c p (some (e'.total ty)) none else pure ())
    modify fun s => s.modElem c p fun e => e.foldIn ty e.rnd false e.sub t
  | .ctl x =>
    let t := x.tok
    if mode == 1 && t.kind == .stop then do
      emitSeq c p (e.total ty :: (if t.lvl == 0 then [] else [stopTok (t.lvl - 1)]))
      modify fun s => s.modElem c p Elem.accReset
    else if mode == 1 || (mode == 2 && t.kind == .eos) then do
      emitSeq c p ((if mode == 2 || e.folds != 0 then [e.total ty] else []) ++ [t])
      modify fun s => s.modElem c p fun e => if mode == 1 then e.accReset else e
      eosHeld c p t
    else do
      emitNow c p (some t) none
      eosHeld c p t
  | _ => pure ()

/-- ACC: a head is parked, a fold or a control token in its order. -/
def opAcc (_m : EMod) (c p : Nat) : M Unit := do
  let x ← need c p 0
  if x.tok.isPoison then stop (faultAt 0x23 0 x)
  else if x.tok.isCtl then parkCtl c p 0 x (accEffect c p)
  else do
    parkEff c p x.tok.set (.fold x.tok)
    consume c p 0

end Sys2Proof.Machine
end

