-- ==== Sys2Proof/Machine/Omission.lean ====
section
/-!
DEFINITION. Omission (06 R160 to R180, R184, R186; 21 R444): dampers and their requests, fate bits, quench filters, ranked inputs
in both modes, settled frontiers, notices and the flue.
-/
namespace Sys2Proof.Machine

/-! ### Entries, fate bits and state codes (R160, R163, R164, R184) -/

/-- Is this an entry of a launch's set at a die? -/
def isEntry (die l : Nat) (set : BitVec 24) (e : Nat × DEntry) : Bool := e.1 == die && e.2.launch == l && e.2.set == set
def State.entry (s : State) (die l : Nat) (set : BitVec 24) : Option DEntry := (s.entries.find? (isEntry die l set)).map (·.2)
def State.dropEntry (s : State) (die l : Nat) (set : BitVec 24) : State :=
  { s with entries := s.entries.filter fun e => !isEntry die l set e }
/-- Device virtual address of the damper area (R163, R399). -/
def State.damperArea (s : State) (l : Nat) : Option Nat :=
  let k := s.launch l
  if k.img.osnew.isEmpty then none else some k.damp
/-- The fate bit of an identifier: 0 for a team without OSNEW, which has no fate map. -/
def State.fate (s : State) (l : Nat) (set : BitVec 24) : Bool :=
  match (s.damperArea l).bind fun va => s.ctxRead (s.launch l).ctx (va + set.toNat / 8) 1 with
  | some bs => bitAt (bs.headD 0).toNat (set.toNat % 8)
  | none => false
def State.setFate (s : State) (l : Nat) (set : BitVec 24) (b : Bool) : State :=
  match s.damperArea l with
  | none => s
  | some va =>
    let x := (s.launch l).ctx
    let a := va + set.toNat / 8
    match s.ctxRead x a 1 with
    | none => s
    | some bs =>
      let old := (bs.headD 0).toNat
      let i := set.toNat % 8
      let new := old - 2 ^ i * b2n (bitAt old i) + 2 ^ i * b2n b
      (s.ctxWrite x a [BitVec.ofNat 8 new]).getD s
/-- A set retires: its entry is freed and its fate bit written (R164). -/
def State.retireSet (s : State) (die l : Nat) (set : BitVec 24) (quenched : Bool) : State :=
  (s.dropEntry die l set).setFate l set quenched

/-- The declaration indices of an element's OSNEW configurations, in either bank (R160). -/
def Elem.declares (e : Elem) : List Nat :=
  (if e.op == 0x55 then [bits e.mode 0 8] else []) ++
    (if e.op1 == 0x55 && !(e.op == 0x55 && bits e.mode 0 8 == bits e.mode1 0 8) then [bits e.mode1 0 8] else [])
/-- Cores of a launch's share. -/
def State.coresOf (s : State) (l : Nat) (share : Option Nat) : List (Nat × Core) :=
  s.cores.filter fun k => match k.2.own with
    | some o => o.launch == l && (share.isNone || share == some o.share)
    | none => false
/-- The OSNEW replicas of a launch's share: declaration index, items stamped, eos forwarded. -/
def State.replicas (s : State) (l share : Nat) : List (Nat × Nat × Bool) :=
  (s.coresOf l (some share)).flatMap fun k => k.2.elems.flatMap fun e =>
    e.2.declares.map fun j => (j, mgetD e.2.decls j 0, e.2.osEos.contains j)
/-- The next share sequences of the replicas that have not forwarded eos (R177). -/
def State.undeclared (s : State) (l share : Nat) : List Nat :=
  ((s.replicas l share).filter fun r => !r.2.2).map fun r => r.2.1 * (s.launch l).img.ndecl + r.1
/-- Low part of an identifier's numbers: the share sequences that it stands for are those with this residue (R160). -/
def setLow (set : BitVec 24) : Nat := bits set.toNat 0 22
def setShare (set : BitVec 24) : Nat := bits set.toNat 22 2
/-- Identifier of share sequence s of a share. -/
def setOf (share s : Nat) : BitVec 24 := BitVec.ofNat 24 (share * 2 ^ 22 + (s % (2 ^ 22 - 1) + 1))
/-- Has a share issued an identifier in the launch? -/
def State.issued (s : State) (l : Nat) (set : BitVec 24) : Bool :=
  let n := (s.launch l).img.ndecl
  setLow set != 0 && (s.replicas l (setShare set)).any fun r =>
    (upTo (r.2.1 * n / (2 ^ 22 - 1) + 1)).any fun i =>
      let q := setLow set - 1 + i * (2 ^ 22 - 1)
      q % n == r.1 && q / n < r.2.1
/-- State code of a set (R184). -/
def State.stateCode (s : State) (l : Nat) (set : BitVec 24) : Nat :=
  if (s.launch l).dies.length ≤ setShare set then 0
  else
    match s.entry (s.homeOf l set) l set with
    | some e => if e.quenched then 3 else 1
    | none => if !s.issued l set then 0 else if s.fate l set then 5 else 4
/-- Lowest share sequence of a share that holds an entry. -/
def State.lowest (s : State) (l share : Nat) (live : Bool) : Option Nat :=
  ((s.entries.filter fun e => e.2.launch == l && e.2.share == share && !(live && e.2.quenched)).map fun e => e.2.s).min?

/-! ### Requests (R164) -/

/-- A damper answers a request. -/
def State.answer (s : State) (req : Nat) (r : DReq) (quenched : Bool) (code : Nat) (low : Option Nat := none) : State :=
  { s with dreqs := mdel s.dreqs req, nextId := s.nextId + 1
           dans := mset s.dans s.nextId
             { die := r.die, req := req, launch := r.launch, set := r.set, kind := r.kind, src := r.src, quenched := quenched
               code := code, low := low } }
/-- The request a damper handles, if it is one of its own and of this kind. -/
def State.request (s : State) (die req : Nat) (k : DKind) : Option DReq :=
  (mget s.dreqs req).filter fun r => r.die == die && r.kind == k
/-- Answer a request for a set that holds no entry (R164). -/
def State.answerFate (s : State) (req : Nat) (r : DReq) : State :=
  s.answer req r (s.fate r.launch r.set) (s.stateCode r.launch r.set)

/-- Has a damper no entry left for a context: none free, or the tenant's cap reached (R163)? -/
def State.damperFull (s : State) (die x : Nat) : Bool :=
  let here := s.entries.filter (·.1 == die)
  let cap := fld (s.ctx x).caps 0 14
  16384 ≤ here.length || (cap != 0 && cap ≤ (here.filter fun e => (s.launch e.2.launch).ctx == x).length)
/-- DECLARE (R164). An identifier that still has an entry keeps it (DEDUCED, log 30); a full damper leaves the request waiting. -/
def execDeclare (die req : Nat) (s : State) : Out :=
  match s.request die req .declare with
  | none => .next s
  | some r =>
    if (s.entry die r.launch r.set).isSome then .next (s.answer req r false 1)
    else if s.damperFull die (s.launch r.launch).ctx then .next s
    else
      let d := (s.launch r.launch).dies.length
      let e : DEntry := { launch := r.launch, share := setShare r.set, set := r.set, s := r.s, u := r.s * d + setShare r.set }
      let s := { s with entries := s.entries ++ [(die, e)] }
      .next ((s.setFate r.launch r.set false).answer req r false 1)

/-- COMMIT_IF_LIVE (R164). -/
def execCommitIfLive (die req : Nat) (s : State) : Out :=
  match s.request die req .commit with
  | none => .next s
  | some r =>
    match s.entry die r.launch r.set with
    | none => .next (s.answerFate req r)
    | some e =>
      if e.quenched then .next (s.answer req r true 3)
      else .next ((s.retireSet die r.launch r.set false).answer req r false 2)

/-- A quench on its way to every core that hosts the team (R170). -/
def State.broadcast (s : State) (l : Nat) (set : BitVec 24) (die : Nat) : State :=
  (s.coresOf l none).foldl (fun s k =>
    { s with casts := mset s.casts s.nextId { die := die, launch := l, core := k.1, set := set }, nextId := s.nextId + 1 }) s
/-- QUENCH_IF_LIVE (R164): the notice's fields are those of this request. -/
def execQuenchIfLive (die req : Nat) (s : State) : Out :=
  match s.request die req .quench with
  | none => .next s
  | some r =>
    match s.entry die r.launch r.set with
    | none => .next (s.answerFate req r)
    | some e =>
      if e.quenched then .next (s.answer req r true 3)
      else
        let note : DEntry :=
          { e with quenched := true, cause := r.cause, worth := r.worth, pset := r.pset, lpg := r.lpg, port := r.port, elem := r.elem
                   time := s.cycle.toNat }
        let s := { s with entries := s.entries.map fun x => if isEntry die r.launch r.set x then (x.1, note) else x }
        .next ((s.broadcast r.launch r.set die).answer req r true 3)

/-- A damper acts on a QUERY, SETTLE or OLDEST of the damper port, in its own arrival order (R184). -/
def State.damperAct (s : State) (die req : Nat) : State :=
  match (mget s.dreqs req).filter (·.die == die) with
  | none => s
  | some r =>
    let live := s.entries.filter fun e => e.1 == die && e.2.launch == r.launch && !e.2.quenched
    match r.kind with
    | .query => s.answer req r false (s.stateCode r.launch r.set)
    | .settle =>
      ((live.filter fun e => e.2.u < r.s).foldl (fun s e => s.retireSet die r.launch e.2.set false) s).answer req r false 0
    | .oldest => s.answer req r false 0 (live.map fun e => e.2.u).min?
    | .declare | .commit | .quench => s

/-! ### Quench filters (R168, R170) -/

/-- The earliest identifier of a list. -/
def earliest : List (BitVec 24) → Option (BitVec 24)
  | [] => none
  | a :: r => match earliest r with
    | none => some a
    | some b => if later a b then some b else some a
/-- Store a quench in a core's filter. -/
def Core.quench (k : Core) (set : BitVec 24) : Core :=
  if k.filter.contains set then k
  else if k.filter.length < 1024 then { k with filter := k.filter ++ [set] }
  else
    match earliest k.filter with
    | none => k
    | some a =>
      let range := match k.range with
        | none => (a, a)
        | some (lo, hi) => (if later lo a then a else lo, if later a hi then a else hi)
      { k with filter := k.filter.filter (· != a) ++ [set], range := some range }
/-- QUENCH_BROADCAST (R170). -/
def execQuenchBroadcast (die cast : Nat) (s : State) : Out :=
  match (mget s.casts cast).filter (·.die == die) with
  | none => .next s
  | some b =>
    let s := { s with casts := mdel s.casts cast }
    if (s.core b.core).own.map (·.launch) == some b.launch then .next (s.modCore b.core fun k => k.quench b.set) else .next s

/-- A quenched head is removed as if consumed (R169). A firing that waits for an answer, and a fibre step once begun (R197), complete;
an AFF run whose base is gone ends, with its S0 if it had begun (DEDUCED, log 34). -/
def State.discardHead (s : State) (c p r : Nat) : State :=
  let e := s.elem c p
  if e.inStep then s
  else s.modElem c p fun e =>
    let e := e.setPort r (e.port r).discard
    if e.op == 0x41 then { e with q0 := word (e.wide 8), last := e.last || (bitAt e.mode 0 && e.q0 != word (e.wide 8)) } else e
/-- DISCARD_UNFIRED (R169). -/
def execDiscardUnfired (core pos port : Nat) (s : State) : Out :=
  let e := s.elem core pos
  match (e.port port).head with
  | some x =>
    if (s.core core).quenches x then .next (s.discardHead core pos port) else .next s
  | none => .next s
/-- Mark the head of a port looked up. -/
def Port.lookedUp (p : Port) : Port :=
  match p.res with
  | some (x, n) => { p with res := some ({ x with looked := true }, n) }
  | none => match p.q with
    | x :: r => { p with q := { x with looked := true } :: r }
    | [] => p
/-- OVERFLOW_LOOKUP (R168): the lookup reads the set's state and changes nothing; a QUENCHED answer discards the head. -/
def execOverflowLookup (core pos port : Nat) (s : State) : Out :=
  let e := s.elem core pos
  match (e.port port).head with
  | some x =>
    if !(s.core core).asks x then .next s
    else
      let l := (s.own core).launch
      let quenched := match s.entry (s.homeOf l x.tok.set) l x.tok.set with
        | some e => e.quenched
        | none => s.fate l x.tok.set
      .next (if quenched then s.discardHead core pos port else s.modElem core pos fun e => e.setPort port (e.port port).lookedUp)
  | none => .next s

/-! ### Worth (R172) -/

def Elem.tie (e : Elem) : Nat := bits (e.fld 12) 2 2
def Elem.segLvl (e : Elem) : Nat := bits (e.fld 12) 4 3
def Elem.quota (e : Elem) : Nat := bits (e.fld 12) 7 5 + 1
def Elem.window (e : Elem) : Nat := bits (e.fld 12) 12 7
/-- Rank of a worth: BF16 codes in numeric order, a NaN below every number, −0 with +0. -/
def worthRank (w : BitVec 16) : Int :=
  let m : Nat := w.toNat % 2 ^ 15
  if 0x7F80 < m then -(2 ^ 16 : Nat)
  else if w.toNat / 2 ^ 15 == 1 then -(m : Int) else m
/-- Is token a less worthy than token b? Ordinals give the arrival order. -/
def lessWorthy (tie : Nat) (a b : Slotted) : Bool :=
  let x := worthRank a.tok.worth
  let y := worthRank b.tok.worth
  if x != y then x < y
  else if tie == 1 then b.ord < a.ord
  else if a.tok.set == b.tok.set then b.ord < a.ord
  else later a.tok.set b.tok.set
/-- The least worthy of a list (R172). Of two equally worthy tokens of one set the later arrival is least (DEDUCED, log 31). -/
def leastWorthy (tie : Nat) : List Slotted → Option Slotted
  | [] => none
  | a :: r => match leastWorthy tie r with
    | none => some a
    | some b => if lessWorthy tie b a then some b else some a

/-! ### Ranked inputs -/

/-- May the elements of a core's page act: a page is placed, and its team is neither stopped nor saved (R135, R403)? -/
def State.pageLive (s : State) (c : Nat) : Bool :=
  match (s.core c).own with
  | none => false
  | some o =>
    let k := s.launch o.launch
    k.failed.isNone && k.phase != .halted && k.phase != .saved

/-- Port number that notices and faults give for a port of an element: a channel of the actor port has none (R180). -/
def portName (r : Nat) : Nat := if r < 3 then r else 3
/-- QUENCH-if-LIVE from a ranked input (R171, R174). -/
def State.askEvict (s : State) (c p r : Nat) (v : Token) : State × Nat :=
  let o := s.own c
  s.ask { die := s.homeOf o.launch v.set, launch := o.launch, kind := .quench, set := v.set, src := .ranked c p r, cause := 1
          worth := v.worth, pset := o.pset, lpg := o.lpg, elem := p, port := portName r }
def State.modPort (s : State) (c p r : Nat) (f : Port → Port) : State := s.modElem c p fun e => e.setPort r (f (e.port r))
/-- May a ranked token be quenched in `elastic` mode (R171)? -/
def candidate (x : Slotted) : Bool := x.tok.isData && x.tok.set != 0 && !x.sealed
/-- Admit the token of the landing register. -/
def Port.letIn (p : Port) : Port :=
  match p.landing with
  | some t => { p with q := p.q ++ [t], landing := none, evict := none }
  | none => { p with evict := none }

/-- Remove tokens from a buffer, though never the head of a step in flight (R197; DEDUCED, log 34). -/
def Port.sweep (p : Port) (pin : Bool) (gone : Slotted → Bool) : Port :=
  let n := b2n pin
  { p with q := p.q.take n ++ (p.q.drop n).filter fun x => !gone x }
/-- The next token on its way reaches a free landing register. -/
def Port.land (p : Port) : Port :=
  match p.landing, p.lane with
  | none, x :: r => { p with landing := some x, lane := r }
  | _, _ => p
/-- RANKED_ARRIVAL_ELASTIC (R171): one step of the procedure for the token in the landing register. -/
def execRankedArrivalElastic (core pos port : Nat) (s : State) : Out :=
  let k := s.core core
  let e := k.elem pos
  let p := e.port port
  match p.landing with
  | none => .next (s.modPort core pos port Port.land)
  | some t =>
    if !s.pageLive core || !(s.launch (s.own core).launch).elastic || (p.evict.any fun v => v.req.isSome) then .next s
    else
      -- on entry, residents that the filter holds are removed, and a slot that is free is taken
      let begins := p.evict.isNone
      let p := if begins then { p.sweep e.inStep k.quenches with evict := some {} } else p
      let s := s.modPort core pos port fun _ => p
      match leastWorthy e.tie ((p.q.drop (b2n e.inStep) ++ [t]).filter candidate) with
      | none => .next (if p.used < e.depth port then s.modPort core pos port Port.letIn else s)
      | some v =>
        if begins && p.used < e.depth port then .next (s.modPort core pos port Port.letIn)
        else
          let q := s.askEvict core pos port v.tok
          .next (q.1.modPort core pos port fun p => { p with evict := some { req := some (q.2, v.tok.set), own := v.ord == t.ord } })
/-- The answer to an `elastic` eviction. -/
def Port.evicted (p : Port) (v : Evict) (set : BitVec 24) (quenched pin : Bool) : Port :=
  if quenched then
    let p := p.sweep pin fun x => x.tok.isData && x.tok.set == set
    if v.own then { p with landing := none, evict := none } else p.letIn
  else
    let mark (x : Slotted) : Slotted := if candidate x && x.tok.set == set then { x with sealed := true } else x
    { p with q := p.q.map mark, landing := p.landing.map mark, evict := some {} }

/-- Tokens of an open segment that count toward Q (R174). -/
def counted (x : Slotted) : Bool := x.tok.isData && x.tok.set != 0
/-- Does a control token close a segment (R174)? -/
def closes (lvl : Nat) (t : Token) : Bool := t.kind == .done || t.kind == .eos || (t.kind == .stop && lvl ≤ t.lvl)
/-- The open segment begins to close (R174, R444). -/
def Port.close (p : Port) (ctl : Option Slotted) : Port := { p with closing := [(p.seg, ctl)], seg := [], segN := 0 }
/-- Close the segment after the arrival that fills its window. -/
def Port.windowed (p : Port) (w : Nat) : Port := if w != 0 && w ≤ p.segN then p.close none else p
/-- RANKED_ARRIVAL_REPRO (R174, R175): the token in the landing register is held, dropped, or closes the segment. -/
def execRankedArrivalRepro (core pos port : Nat) (s : State) : Out :=
  let e := s.elem core pos
  let p := e.port port
  match p.landing with
  | none => .next (s.modPort core pos port Port.land)
  | some t =>
    if !s.pageLive core || (s.launch (s.own core).launch).elastic || !p.closing.isEmpty then .next s
    else
      let room := p.used < e.depth port
      let full := e.depth port ≤ p.seg.length
      let fault : State := s.runElem core pos (stop (faultAt 0x27 port t))
      let data := t.tok.isData
      let hold (p : Port) : Port :=
        Port.windowed { p with seg := p.seg ++ [t], landing := none, segN := p.segN + b2n data } e.window
      if t.tok.isCtl && closes e.segLvl t.tok then
        if room then .next (s.modPort core pos port fun p => { p.close (some t) with landing := none })
        else if !full then .next s
        -- a full segment of counted tokens closes first; the control token then has a slot to take
        else if p.seg.all counted then .next (s.modPort core pos port fun p => p.close none)
        else .next fault
      else if counted t && full && !p.seg.all counted then .next fault
      else if counted t && e.quota ≤ (p.seg.filter counted).length then
        match leastWorthy e.tie (p.seg.filter counted ++ [t]) with
        | none => .next s
        | some v =>
          let q := s.askEvict core pos port v.tok
          .next (q.1.modPort core pos port fun p =>
            let seg := if v.ord == t.ord then p.seg else p.seg.filter (·.ord != v.ord) ++ [t]
            Port.windowed { p with seg := seg, landing := none, segN := p.segN + 1, segReqs := q.2 :: p.segReqs } e.window)
      else if room then .next (s.modPort core pos port hold)
      else if full then .next fault
      else .next s
/-- SEGMENT_CLOSE (R444): once every quench of the segment is answered and its broadcasts are complete, the held tokens become
heads, followed by the closing control token. -/
def execSegmentClose (core pos port : Nat) (s : State) : Out :=
  let l := (s.own core).launch
  let p := (s.elem core pos).port port
  match p.closing with
  | [] => .next s
  | (held, ctl) :: r =>
    if !s.pageLive core || !p.segReqs.isEmpty || s.casts.any fun b => b.2.launch == l && p.segSets.contains b.2.set then .next s
    else .next (s.modPort core pos port fun p =>
      { p with closing := r, segSets := [], q := p.q ++ held ++ (match ctl with | some t => [t] | none => []) })

/-! ### Answers (R36, R164, R167) -/

/-- A command's answer token. -/
def answerTok (n : Nat) : Token := { width := 1, pay := payOf (n % 2 ^ 64) }
/-- A damper has acted on the damper port's command: SETTLE and OLDEST are answered once every share's has (R184). -/
def DCmd.told (x : DCmd) (a : DAns) : DCmd :=
  let reqs := ldel x.reqs a.req
  let low := match x.low, a.low with
    | some u, some v => some (min u v)
    | u, v => u.or v
  let done (n : Nat) : DCmd := { x with reqs := reqs, low := low, ans := if reqs.isEmpty then some (answerTok n) else none }
  match a.kind with
  | .settle => done x.val
  | .oldest => done (low.getD (2 ^ 63))
  | .declare | .commit | .quench | .query => done (a.set.toNat + a.code * 2 ^ 24)

/-- DAMPER_ANSWER: an answer arrives at the agent that asked. -/
def execDamperAnswer (die answer : Nat) (s : State) : Out :=
  match (mget s.dans answer).filter (·.die == die) with
  | none => .next s
  | some a =>
    let s := { s with dans := mdel s.dans answer }
    match a.src with
    | .settle c p =>
      .next (s.modElem c p fun e =>
        { e with settle := e.settle.map fun x => if x.req == some a.req then { x with ans := some a.quenched } else x
                 lastSealed := if a.quenched || a.kind != .commit then e.lastSealed else a.set })
    | .osnew c p => .next (s.modElem c p fun e => { e with declReq := none, begun := true })
    | .ranked c p r =>
      if (s.launch a.launch).elastic then
        .next (s.modPort c p r fun x => match x.evict with
          | some v => if v.req.map (·.1) == some a.req then x.evicted v a.set a.quenched (s.elem c p).inStep else x
          | none => x)
      else
        let s := s.modPort c p r fun x =>
          { x with segReqs := ldel x.segReqs a.req, segSets := if a.quenched then a.set :: x.segSets else x.segSets }
        .next (if a.quenched then s else
          s.runElem c p (stop (.fault 0x26 (if r < 3 then r else 0) 0 0 ({ set := a.set : Token }).header 0)))
    | .dport c => .next (s.modElem c 62 fun e => { e with cmds := e.cmds.map fun x => if x.reqs.contains a.req then x.told a else x })
    | .actor c n =>
      .next (s.modSlot c n fun x => match x.park with
        | some p =>
          if !p.done && (p.kind == .rsend || (p.kind == .recv && p.val != 0)) && p.on == a.req then
            { x with park := some { p with done := true, flag := a.quenched } }
          else x
        | none => x)
    | .belfry d id g =>
      .next { s with belfry := mset s.belfry d ((mgetD s.belfry d []).map fun o =>
        if o.id == id then { o with asks := o.asks.map fun q => if q.1 == g then (g, some a.quenched) else q } else o) }

/-! ### Frontiers, notices and the flue (R177 to R180) -/

/-- Settled frontier of a share: every share sequence below it has settled; none when all have. From stage 2 of the launch's end
nothing more is declared (R186). -/
def State.settledTo (s : State) (l share : Nat) : Option Nat :=
  let undeclared := if (s.launch l).phase == .retiring then [] else s.undeclared l share
  match s.lowest l share true with
  | some a => (a :: undeclared).min?
  | none => undeclared.min?
/-- FRONTIER_REPORT (R177). -/
def execFrontierReport (launch share : Nat) (s : State) : Out :=
  if (mget s.launches launch).isNone || (s.launch launch).phase == .saved then .next s
  else .next (s.modLaunch launch fun k => { k with frontier := mset k.frontier share (s.settledTo launch share) })
/-- Do all shares' reported frontiers allow the release of sequence u? -/
def Launch.settledBelow (k : Launch) (u : Nat) : Bool :=
  let d := k.dies.length
  (upTo d).all fun i => match mget k.frontier i with
    | some none => true
    | some (some f) => u ≤ f * d + i
    | none => k.img.osnew.isEmpty
/-- The QUENCHED entry of the lowest sequence of a launch. -/
def State.firstQuenched (s : State) (l : Nat) : Option (Nat × DEntry) :=
  (s.entries.filter fun e => e.2.launch == l && e.2.quenched).foldl (fun b e => match b with
    | none => some e
    | some b => if e.2.u < b.2.u then some e else some b) none
/-- A notice (R180). -/
def DEntry.notice (e : DEntry) : Notice where
  w0 := word (e.set.toNat + e.cause * 2 ^ 24 + e.worth.toNat * 2 ^ 32 + e.share * 2 ^ 48 + e.pset * 2 ^ 50)
  w1 := word (e.elem % 64 + e.port % 4 * 2 ^ 6 + e.lpg * 2 ^ 12 + e.u % 2 ^ 40 * 2 ^ 16)
  w2 := word e.time
/-- NOTICE_RELEASE (R177): notices leave one at a time in ascending sequence; the set retires with fate bit 1. -/
def execNoticeRelease (launch : Nat) (s : State) : Out :=
  let k := s.launch launch
  match s.firstQuenched launch with
  | none => .next s
  | some (die, e) =>
    if k.settledBelow e.u && k.flue.length < 512 then
      .next ((s.modLaunch launch fun k => { k with flue := k.flue ++ [e.notice], released := k.released + 1 }).retireSet
        die launch e.set true)
    else .next s

/-- Device virtual address of the notice area (R179, R399). -/
def State.noteArea (s : State) (l : Nat) : Option Nat :=
  let k := s.launch l
  if k.img.osnew.isEmpty then none else some k.note
def State.noteWord (s : State) (l va : Nat) : Nat := match s.ctxRead (s.launch l).ctx va 8 with
  | some bs => leVal bs
  | none => 0
/-- Write words of the notice area. -/
def State.noteWrite (s : State) (l va : Nat) (ws : List Word) : State := (s.ctxWrite (s.launch l).ctx va (bytesOf ws)).getD s
/-- A word of the notice area at its home, read by the flue. -/
def flueWord (x va : Nat) : M Nat := do
  let r ← unitRead none x va 8
  pure (leVal r.1)
/-- The flue writes a notice to the ring, and WR behind it, where RD leaves room. -/
def flueWork (launch va : Nat) (n : Notice) (rest : List Notice) : M Unit := do
  let s ← get
  let k := s.launch launch
  let cap ← flueWord k.ctx va
  let rd ← flueWord k.ctx (va + 16)
  if cap == 0 || rd + cap ≤ k.wr then pure ()
  else do
    unitWrite none k.ctx (va + 64 + 32 * (k.wr % cap)) false (bytesOf [n.w0, n.w1, n.w2, word k.wr])
    modify fun s => s.pkgRelease k.ctx (va + 8)
    unitWrite none k.ctx (va + 8) false (leBytes 8 (k.wr + 1))
    modify fun s => s.modLaunch launch fun k => { k with flue := rest, wr := k.wr + 1 }
/-- FLUE_WRITE (R179). -/
def execFlueWrite (launch : Nat) (s : State) : Out :=
  let k := s.launch launch
  match k.flue, s.noteArea launch with
  | n :: r, some va =>
    if k.phase == .saved then .next s
    else .next (s.runUnit 0 (.flueWrite launch) (·.unitFailed k.ctx) (flueWork launch va n r))
  | _, _ => .next s

/-- Where the record at the cursor RD lies in the ring, once it is written there. -/
def State.noteRecord (s : State) (l : Nat) : Option Nat :=
  (s.noteArea l).bind fun va =>
    let rd := s.noteWord l (va + 16)
    if rd < (s.launch l).wr then some (va + 64 + 32 * (rd % Nat.max 1 (s.noteWord l va))) else none
/-- A reader's accesses to the notice area, translated before they are made (R417). -/
def noteTouch (c l : Nat) : M Unit := do
  let s ← get
  match s.noteArea l with
  | none => pure ()
  | some va =>
    if (s.launch l).released == 0 then pure ()
    else
      let _ ← xlate c (s.launch l).ctx va true
      match (← get).noteRecord l with
      | some a => do
        let _ ← xlate c (s.launch l).ctx a false
        pure ()
      | none => pure ()
/-- The notice at the cursor RD, from the flue or from the ring; taking it advances RD (R185, R368). -/
def State.noticeAt (s : State) (l : Nat) : Option (Notice × Nat) :=
  let k := s.launch l
  match s.noteArea l with
  | none => none
  | some va =>
    let rd := s.noteWord l (va + 16)
    if k.released ≤ rd then none
    else if k.wr ≤ rd then k.flue[rd - k.wr]?.map fun n => (n, rd)
    else
      let a := va + 64 + 32 * (rd % Nat.max 1 (s.noteWord l va))
      some ({ w0 := word (s.noteWord l a), w1 := word (s.noteWord l (a + 8)), w2 := word (s.noteWord l (a + 16)) }, rd)
def State.noticeTaken (s : State) (l rd : Nat) : State :=
  match s.noteArea l with
  | none => s
  | some va => s.noteWrite l (va + 16) [word (rd + 1)]

end Sys2Proof.Machine
end

