-- ==== Sys2Proof/Machine/Channel.lean ====
section
/-!
DEFINITION. The channel operations 0x50–0x57 (06 R181 to R183), the damper port's commands and notices (R184, R185), the head
element's commands (15 R389), page ends (R392) and boundary elements (R396).
-/
namespace Sys2Proof.Machine

/-- The element whose step is being made. -/
def State.hereElem (s : State) : Nat × Nat := match s.cur with | .elem c p => (c, p) | _ => (0, 0)
/-- Do this, or that where this has to wait. -/
def orElse (a b : M Unit) : M Unit := fun s => match a s with
  | .error (.wait p) => match b s with
    | .error (.wait _) => .error (.wait p)
    | r => r
  | r => r
/-- Send a token on one output. -/
def emitOn (c p out : Nat) (t : Token) : M Unit := do
  let s ← get
  if s.canEmit c p out t.isCtl then setState (s.emit c p out t) else stall

/-! ### FORK to GATE (R183) -/

/-- The condition in lane 0 of input b (R181, R183). -/
def condOf (ty : Nat) (inv : Bool) (b : Token) : Bool := (b.num % 2 ^ tyW ty != 0) != inv
/-- A token with another set and worth. -/
def Token.stamp (t : Token) (h : BitVec 24 × BitVec 16) : Token := { t with set := h.1, worth := h.2 }

/-- FORK. -/
def opFork (_m : EMod) (c p : Nat) : M Unit := do
  match ← commonHeads c p false [0] with
  | none => pure ()
  | some hs => do
    let e := (← get).elem c p
    let a := headTok hs 0
    emitNow c p (some a) (some (a.stamp (e.headerOf (tokensOf hs) (a.num % 2 ^ 32))))
    consumeAll c p [0]
/-- JOIN. -/
def opJoin (m : EMod) (c p : Nat) : M Unit := do
  match ← commonHeads c p (m.sw == 1) [0, 1] with
  | none => pure ()
  | some hs => do
    let e := (← get).elem c p
    let a := headTok hs 0
    let b := headTok hs 1
    let h := e.headerOf (tokensOf hs) (a.num % 2 ^ 32)
    (match poisonOf hs with
     | some code => sendOut c p h.1 (some (poisonTok a.width code h.1 h.2)) (some (poisonTok b.width code h.1 h.2))
     | none => sendOut c p h.1 (some (a.stamp h)) (some (b.stamp h)))
    consumeAll c p [0, 1]
/-- STEER and FILTER: what goes to x and what to y. -/
def steerBy (m : EMod) (c p : Nat) (reject : Token → Option Token) : M Unit := do
  match ← commonHeads c p (m.sw == 1) [0, 1] with
  | none => pure ()
  | some hs => do
    let e := (← get).elem c p
    let a := headTok hs 0
    let b := headTok hs 1
    (if b.isPoison then emitNow c p (some (poisonTok a.width b.num a.set a.worth)) none
     else if condOf m.ty.toNat (bitAt e.mode 0) b then emitNow c p (some a) none
     else emitNow c p none (reject a))
    consumeAll c p [0, 1]
def opSteer (m : EMod) (c p : Nat) : M Unit := steerBy m c p some
def opFilter (m : EMod) (c p : Nat) : M Unit := steerBy m c p fun _ => none

/-- GATE has taken eos on one input: it swaps, or holds eos, once it has taken eos on every channel input (R390; DEDUCED, log 32). -/
def gateEos (sw : Bool) (c p : Nat) (a : Bool) : M Unit := do
  modify fun s => s.modElem c p fun e =>
    { e with last := a || e.last || e.isReg (physPort sw 0), seenF := !a || e.seenF || e.isReg (physPort sw 1) }
  let e := (← get).elem c p
  (if e.last && e.seenF then modify fun s => s.tookEos c p else pure ())
/-- GATE's input a. -/
def gateData (sw : Bool) (c p : Nat) : M Unit := do
  let e := (← get).elem c p
  let r := physPort sw 0
  let x ← need c p r
  if e.armed && e.last then stall
  else if x.tok.isCtl then do
    emitNow c p (some x.tok) none
    consume c p r
    (if x.tok.kind == .eos then gateEos sw c p true else pure ())
  else if 0 < sgn 64 e.q0.toNat then do
    emitNow c p (some x.tok) none
    consume c p r
    modify fun s => s.modElem c p fun e => { e with q0 := e.q0 - 1 }
  else stall
/-- GATE's input b. -/
def gateCredit (ty : Nat) (sw : Bool) (c p : Nat) : M Unit := do
  let e := (← get).elem c p
  let r := physPort sw 1
  if e.armed && e.seenF then stall
  else
    let x ← need c p r
    let q0 := wordI (min (2 ^ 32 - 1 : Int) (sgn 64 e.q0.toNat + (x.tok.num % 2 ^ tyW ty : Nat)))
    -- a register source gives its credit at every firing; one that adds nothing is no firing
    if e.isReg r && q0 == e.q0 then stall
    else do
      consume c p r
      (if x.tok.kind == .eos then gateEos sw c p false
       else if x.tok.isData then modify fun s => s.modElem c p fun e => { e with q0 := q0 }
       else pure ())
/-- GATE: its inputs fire independently of each other. -/
def opGate (m : EMod) (c p : Nat) : M Unit := orElse (gateData (m.sw == 1) c p) (gateCredit m.ty.toNat (m.sw == 1) c p)

/-! ### OSNEW, OSQUENCH, OSCOMMIT (R160 to R162, R183) -/

/-- Must OSNEW stall: no free entry, its tenant's cap, or the window (R162, R163)? A sequence that a replica is still to declare has not
retired (DEDUCED, log 105). -/
def State.declStall (s : State) (c share q : Nat) : Bool :=
  let l := (s.own c).launch
  s.damperFull (s.dieOfShare l share) (s.ctxOf c)
    || ((s.lowest l share false).toList ++ s.undeclared l share).any fun low => low + 2 ^ 21 ≤ q
/-- OSNEW: it declares the set first, and fires when the damper has answered. -/
def opOsnew (_m : EMod) (c p : Nat) : M Unit := do
  let s ← get
  let e := s.elem c p
  let j := bits e.mode 0 8
  let x ← need c p 0
  if x.tok.isCtl then do
    passCtl c p [0] x.tok
    (if x.tok.kind == .eos then modify fun s => s.modElem c p fun e => { e with osEos := ladd e.osEos j } else pure ())
  else if x.tok.set != 0 then stop (faultAt 0x25 0 x)
  else if x.tok.isPoison then do
    emitNow c p (some x.tok) none
    consume c p 0
  else
    let o := s.own c
    let n := (s.launch o.launch).img.ndecl
    let m := mgetD e.decls j 0
    let q := m * n + j
    let set := setOf o.share q
    if e.begun then do
      emitNow c p (some (x.tok.stamp (set, (e.headerOf [(0, x.tok)] (x.tok.num % 2 ^ 32)).2))) none
      consume c p 0
      modify fun s => s.modElem c p fun e => { e with decls := mset e.decls j (m + 1), begun := false }
    else if e.declReq.isSome || s.declStall c o.share q then stall
    else
      let a := s.ask { die := s.dieOfShare o.launch o.share, launch := o.launch, kind := .declare, set := set, s := q, src := .osnew c p }
      setState (a.1.modElem c p fun e => { e with declReq := some a.2 })

/-- Effects of OSQUENCH and OSCOMMIT, once decided. -/
def chanEffect (c p : Nat) (eff : Eff) : M Unit := do
  let s ← get
  match eff with
  | .emit x y => emitNow c p x y
  | .pass x =>
    -- answered SEALED (R176)
    if (s.launch (s.own c).launch).elastic then emitNow c p (some x.tok) none else stop (faultAt 0x26 0 x)
  | .ctl x => do
    emitNow c p (some x.tok) none
    eosHeld c p x.tok
  | _ => pure ()
/-- OSQUENCH. -/
def opOsquench (m : EMod) (c p : Nat) : M Unit := do
  let s ← get
  let e := s.elem c p
  let rs := if bitAt e.mode 0 then [0, 1] else [0]
  let hs ← rs.mapM fun i => do
    let x ← need c p i
    pure (i, x)
  match ← controlOf id (hs.filter fun h => !e.isReg h.1) with
  | some t => parkCtls c p (rs.filter fun i => !e.isReg i) { (hs.headD default).2 with tok := t } (chanEffect c p)
  | none => do
    checkSets e.pol id hs
    let x := (hs.headD default).2
    let a := x.tok
    let b := headTok hs 1
    let quench := rs.length == 1 || condOf m.ty.toNat (bitAt e.mode 1) b
    (if (poisonOf hs).isSome || !quench || a.set == 0 then parkEff c p 0 (.emit (some a) none)
     else if !settleRoom e then stall
     else
       let o := s.own c
       let q := s.ask { die := s.homeOf o.launch a.set, launch := o.launch, kind := .quench, set := a.set, src := .settle c p, cause := 2
                        worth := a.worth, pset := o.pset, lpg := o.lpg, elem := p, port := 0 }
       setState (q.1.modElem c p fun e => { e with settle := e.settle ++ [{ set := a.set, req := some q.2, eff := .pass x }] }))
    consumeAll c p rs
/-- OSCOMMIT. -/
def opOscommit (_m : EMod) (c p : Nat) : M Unit := do
  let e := (← get).elem c p
  let x ← need c p 0
  if x.tok.isCtl then parkCtl c p 0 x (chanEffect c p)
  else do
    parkEff c p (if x.tok.isPoison then 0 else x.tok.set) (if bitAt e.mode 0 then .emit (some x.tok) none else .nothing)
    consume c p 0

/-! ### Command ports (R184, R389) -/

/-- Queue an answer, or a control token, in command order. -/
def pushAns (c p : Nat) (t : Token) : M Unit := modify fun s => s.modElem c p fun e => { e with cmds := e.cmds ++ [{ ans := some t }] }
/-- The head of a command input, which eos ends (R184, R389). -/
def commandHead (c p : Nat) : M Slotted := do
  if ((← get).elem c p).last then stall else need c p 0
/-- Take a command whose operand lies in its low bits; any other bit beneath the code is refused. -/
def takeCommand (c p fault low : Nat) : M (Token × Nat) := do
  let x ← commandHead c p
  let n := x.tok.num % 2 ^ 64
  if x.tok.isCtl then stall
  else if x.tok.isPoison || bits n low (60 - low) != 0 then stop (faultAt fault 0 x)
  else do
    consume c p 0
    pure (x.tok, bits n 0 low)
/-- A command with an unassigned code. -/
def badCommand (c p fault : Nat) : M Unit := do
  let x ← commandHead c p
  if x.tok.isCtl then stall else stop (faultAt fault 0 x)

/-- DPORT's QUENCH, SEAL and QUERY, at the home of their set. -/
def dportAsk (kind : DKind) (c p : Nat) : M Unit := do
  let t ← takeCommand c p 0x28 24
  let s ← get
  let o := s.own c
  let set := BitVec.ofNat 24 t.2
  let q := s.ask { die := s.homeOf o.launch set, launch := o.launch, kind := kind, set := set, src := .dport c, cause := 2
                   worth := t.1.worth, pset := o.pset, lpg := o.lpg, elem := 62, port := 0 }
  setState (q.1.modElem c p fun e => { e with cmds := e.cmds ++ [{ reqs := [q.2] }] })
/-- A command to the damper of every share of the team. -/
def askShares (kind : DKind) (v c p : Nat) : M Unit := do
  let s ← get
  let l := (s.own c).launch
  let q := (s.launch l).dies.foldl (fun (a : State × List Nat) die =>
    let b := a.1.ask { die := die, launch := l, kind := kind, s := v, src := .dport c }
    (b.1, a.2 ++ [b.2])) (s, [])
  setState (q.1.modElem c p fun e => { e with cmds := e.cmds ++ [{ reqs := q.2, val := v }] })
/-- DPORT's SETTLE. -/
def dportSettle (c p : Nat) : M Unit := do
  let t ← takeCommand c p 0x28 40
  askShares .settle t.2 c p
/-- DPORT's OLDEST. -/
def dportOldest (c p : Nat) : M Unit := do
  let _ ← takeCommand c p 0x28 0
  askShares .oldest 0 c p
/-- The token of a notice (R185). -/
def noticeTok (n : Notice) : Token :=
  { width := 1, worth := BitVec.ofNat 16 (fld n.w0 32 16)
    pay := payOf (fld n.w0 0 28 + fld n.w1 12 4 * 2 ^ 32 + fld n.w1 0 6 * 2 ^ 36 + fld n.w1 6 2 * 2 ^ 42 + fld n.w0 50 6 * 2 ^ 44) }
/-- The damper port takes a notice. -/
def dportNotice (c p : Nat) : M Unit := do
  let s ← get
  let l := (s.own c).launch
  if !bitAt (s.elem c p).mode 0 then stall
  else
    noteTouch c l
    match (← get).noticeAt l with
    | none => stall
    | some (n, rd) => do
      emitOn c p 0 (noticeTok n)
      modify fun s => s.noticeTaken l rd

/-- HEAD's FLAGS. -/
def headFlags (c p : Nat) : M Unit := do
  let t ← takeCommand c p 0x2E 6
  pushAns c p (answerTok ((← get).elem c t.2).flags.toNat)
/-- HEAD's CLEAR. -/
def headClear (c p : Nat) : M Unit := do
  let t ← takeCommand c p 0x2E 7
  let all := bitAt t.2 6
  modify fun s => s.modCore c fun k =>
    { k with elems := k.elems.map fun (e : Nat × Elem) => if all || e.1 == t.2 % 64 then (e.1, { e.2 with flags := 0 }) else e }
  pushAns c p (answerTok 0)
/-- HEAD's ARMED. -/
def headArmed (c p : Nat) : M Unit := do
  let _ ← takeCommand c p 0x2E 0
  pushAns c p (answerTok (((← get).core c).armedAll.map (2 ^ ·)).sum)
/-- HEAD's END. -/
def headEnd (c p : Nat) : M Unit := do
  let _ ← takeCommand c p 0x2E 0
  modify fun s => s.pageEnd c
  pushAns c p (answerTok 0)
/-- HEAD's COUNT. -/
def headCount (c p : Nat) : M Unit := do
  let _ ← takeCommand c p 0x2E 0
  let e := (← get).elem c p
  pushAns c p (answerTok (e.events % 2 ^ 32 + e.swaps % 2 ^ 32 * 2 ^ 32))

/-- Has the team's last notice been read (R185, R186)? A team without OSNEW produces none. -/
def State.noticesOver (s : State) (l : Nat) : Bool :=
  let k := s.launch l
  k.img.osnew.isEmpty || (k.phase == .retiring && (s.firstQuenched l).isNone && (s.noticeAt l).isNone)
/-- A command port's own work between commands: the oldest answer leaves on y, a control token takes its place among the answers,
and at the damper port eos leaves on x after the last notice. -/
def portWork (c p : Nat) : M Unit := do
  let s ← get
  let e := s.elem c p
  let flush : M Unit := do
    match e.cmds with
    | { ans := some t, .. } :: r => do
      emitOn c p 1 t
      modify fun s => s.modElem c p fun e => { e with cmds := r }
      (if t.kind == .eos then modify fun s => s.tookEos c p else pure ())
    | _ => stall
  let control : M Unit := do
    let x ← commandHead c p
    if !x.tok.isCtl then stall
    else do
      consume c p 0
      modify fun s => s.modElem c p fun e => { e with last := x.tok.kind == .eos }
      pushAns c p x.tok
  let last : M Unit := do
    if e.op == 0xB6 && bitAt e.mode 0 && e.fin != 2 && s.sourcesRun c && s.noticesOver (s.own c).launch then do
      emitOn c p 0 eosTok
      modify fun s => s.modElem c p fun e => { e with fin := 2 }
    else stall
  orElse flush (orElse control last)

/-! ### Boundary elements (R396) -/

/-- Carry a token from a boundary input to the output of the same channel. -/
def broute (c p r : Nat) : M Unit := do
  let x ← need c p r
  emitOn c p r x.tok
  consume c p r
/-- BROUTE: its two channels move independently. -/
def opBroute (_m : BitVec 11) (c p : Nat) : M Unit := orElse (broute c p 0) (broute c p 1)

end Sys2Proof.Machine
end

