-- ==== Sys2Proof/Machine/Fibre.lean ====
section
/-!
DEFINITION. Fibre elements, opcodes 0x80–0x8C (07 R190 to R206, R209, R211): the checks of their streams, steps of several firings,
arrays behind a handle, and each operation.
-/
namespace Sys2Proof.Machine

/-! ### Heads and their checks (R190 to R193) -/

/-- Does input a come from a root (R196)? -/
def Elem.rooted (e : Elem) : Bool := bitAt e.mode 0 && ((0x80 ≤ e.op && e.op ≤ 0x82) || e.op == 0x85)
/-- Declared depth of a port (R195). -/
def Elem.streamDepth (e : Elem) (r : Nat) : Nat := bits (e.wide 23) (3 * r) 3
def isCrd (t : Token) : Bool := t.kind == .crd && t.width == 0
def isPair (t : Token) : Bool := t.kind == .crd && t.width == 1
def isRef (t : Token) : Bool := t.kind == .ref && t.width == 0
def isBmp (t : Token) : Bool := t.kind == .val && t.width == 1
def isEos (t : Token) : Bool := t.kind == .eos
/-- Does a port take a data token's form (R190, R196)? -/
def formOk (op mode r : Nat) (t : Token) : Bool :=
  if op ≤ 0x82 then isRef t
  else if op == 0x83 then (if bitAt mode 1 then isBmp t else isPair t)
  else if op == 0x84 then isPair t
  else if op == 0x85 then (if r == 0 then isRef t else t.isData)
  else if op == 0x86 then t.kind == .val
  else if op == 0x87 then (if r == 0 then isPair t || isCrd t else isRef t)
  else if op == 0x88 then (if r == 0 then isPair t || isCrd t || isRef t else t.isData)
  else if op ≤ 0x8B then isBmp t
  else if bitAt mode 0 then t.kind == .val
  else isPair t || isCrd t
/-- Does a port take values, or any data form (R193)? -/
def takesValues (op mode r : Nat) : Bool := op == 0x86 || ((op == 0x85 || op == 0x88) && r == 1) || (op == 0x8C && bitAt mode 0)
/-- Does a port check order (R196)? -/
def checksOrder (op mode r : Nat) : Bool :=
  (op == 0x83 && !bitAt mode 1 && r ≤ 1) || (op == 0x84 && r ≤ 1) || ((op == 0x87 || op == 0x88) && r == 0)
    || (op == 0x8C && !bitAt mode 0)
/-- The coordinate of a coordinate or pair, and the reference of a pair. -/
def crdOf (t : Token) : Nat := t.num % 2 ^ 32
def refOf (t : Token) : Nat := bits t.num 32 32

/-- The fault of a head that breaks its port's stream (R193). -/
def Elem.headFault (e : Elem) (r : Nat) (t : Token) : Option Nat :=
  let n := e.streamDepth r
  let p := e.port r
  match t.kind with
  | .eos => if p.prev == .done then none else some 0x31
  | .stop => if p.prev == .done then some 0x32 else if n ≤ t.lvl then some 0x30 else none
  | .done => if p.prev == (if n == 0 then Prev.data else Prev.stop (n - 1)) then none else some 0x31
  | .poison =>
    if p.prev == .done then some 0x32
    else if !takesValues e.op e.mode r then some 0x37
    else if e.cmt || e.op == 0x86 then some 0x23
    else none
  | _ =>
    if p.prev == .done then some 0x32
    else if !formOk e.op e.mode r t || (e.op == 0x8C && bitAt e.mode 0 && e.lo != 0 && e.lo != t.width + 1) then some 0x35
    else if checksOrder e.op e.mode r && t.kind == .crd && p.lastCrd.any (crdOf t ≤ ·) then some 0x33
    else none
/-- The head of a port of a fibre element, checked. A step in flight sees its heads whatever the quench filter holds (R197). -/
def fibHead (c p r : Nat) : M (Nat × Slotted) := do
  let s ← get
  let e := s.elem c p
  if r == 0 && e.rooted then
    if e.fin != 0 || !s.sourcesRun c then stall
    else
      let root := if e.op == 0x85 then e.k 0 % 2 ^ 32 else 0
      pure (0, { tok := if e.f == 0 then { kind := .ref, pay := payOf root } else if e.f == 1 then doneTok else eosTok })
  else
    let x ← (if e.begun && !e.isReg r then (match (e.port r).head with | some x => pure x | none => stall) else need c p r)
    if e.isReg r && formOk e.op e.mode r x.tok then pure (r, x)
    else
      match e.headFault r x.tok with
      | some code => stop (faultAt code r x)
      | none => pure (r, x)
/-- Progress of a stream past a token. -/
def Port.past (p : Port) (t : Token) : Port :=
  match t.kind with
  | .stop => { p with prev := .stop t.lvl, lastCrd := none }
  | .done => { p with prev := .done }
  | .eos => p
  | k => { p with prev := if p.prev == .data || p.prev == .more then .more else .data
                  lastCrd := if k == .crd then some (crdOf t) else p.lastCrd }
/-- Consume a head of a fibre element. -/
def Elem.eat (e : Elem) (h : Nat × Slotted) : Elem :=
  if h.1 == 0 && e.rooted then { e with f := e.f + 1 }
  else if e.isReg h.1 then e
  else (e.setPort h.1 ((e.port h.1).past h.2.tok)).take h.1
def eatAll (c p : Nat) (hs : List (Nat × Slotted)) : M Unit := modify fun s => s.modElem c p fun e => hs.foldl Elem.eat e
/-- Fault 0x34 at a head that breaks the relation of the inputs (R192). -/
def misaligned {α : Type} (h : Nat × Slotted) : M α := stop (faultAt 0x34 h.1 h.2)

/-! ### Steps (R197) -/

/-- A step: the pairs of tokens that it gives to x and y, one for each firing, the heads that its last firing consumes, and what
it leaves of the element's state. -/
structure FibStep where
  count : Nat
  nth   : Nat → M (Option Token × Option Token)
  heads : List (Nat × Slotted)
  post  : Elem → Elem

/-- One firing of a step. -/
def runStep (c p : Nat) (st : FibStep) : M Unit := do
  let e := (← get).elem c p
  let finish : M Unit := do
    eatAll c p st.heads
    modify fun s => s.modElem c p fun e => { st.post e with prog := 0, begun := false }
  if st.count ≤ e.prog then finish
  else do
    let o ← st.nth e.prog
    let set := match o.1.or o.2 with
      | some t => if t.isCtl then 0 else t.set
      | none => 0
    sendOut c p set o.1 o.2
    (if st.count ≤ e.prog + 1 then finish
     else modify fun s => s.modElem c p fun e => { e with prog := e.prog + 1, begun := true })
/-- A step with its tokens at hand. -/
def tokenStep (c p : Nat) (os : List (Option Token × Option Token)) (heads : List (Nat × Slotted)) (post : Elem → Elem) : M Unit :=
  runStep c p { count := os.length, nth := fun i => pure (os.getD i (none, none)), heads := heads, post := post }
/-- eos on every input after D (R197). -/
def eosStep (c p : Nat) (hs : List (Nat × Slotted)) : M Unit := do
  let e := (← get).elem c p
  let rs := (hs.filter fun h => !(h.1 == 0 && e.rooted) && !e.isReg h.1).map (·.1)
  if rs.isEmpty then endSource c p else passCtl c p rs eosTok
/-- A token that an element builds from heads (R132, R196). -/
def built (c p : Nat) (kind : TKind) (width pay : Nat) (hs : List (Nat × Slotted)) : M Token := do
  let e := (← get).elem c p
  checkSets e.pol id hs
  let h := e.headerOf (tokensOf hs) (pay % 2 ^ 32)
  match poisonOf hs with
  | some code => pure (poisonTok width code h.1 h.2)
  | none => pure { width := width, worth := h.2, set := h.1, kind := kind, pay := payOf pay }
def pairPay (crd ref : Nat) : Nat := crd % 2 ^ 32 + ref % 2 ^ 32 * 2 ^ 32
/-- The absent marker (R190). -/
def absent : Nat := 0xFFFFFFFF
/-- A control token on both outputs. -/
def bothOut (t : Token) : Option Token × Option Token := (some t, some t)

/-! ### Arrays (R198) -/

/-- Is a page format one that arrays of an element size may lie on (R198)? -/
def arrayFmt (size m : Nat) : Bool := m == 0 || (size == 4 && (m == 10 || m == 11))
/-- Element `i` of the array at a field's offset: its place, with the checks of R198. Windows hold no arrays (R267). -/
def arrayAt (c p f size : Nat) (i : Nat) (typed write : Bool) : M Loc := do
  let e := (← get).elem c p
  let h := bits (e.fld 15) 0 12
  let o := e.wide f + size * i
  let bad : Stop := hFault 0x36 h o
  let ent ← handle .elem c h o
  if 2 < hSpace ent then stop (hFault 0x39 h o)
  else if hBase ent % size != 0 then stop (hFault 0x38 h o)
  else
    let l ← locate (.fixed bad) c h ent o size write
    if !typed || hSpace ent == 2 then pure l
    else if hEFV ent && !arrayFmt size (hEFMT ent) then stop (hFault 0x3A h o)
    else
      let pg ← about h o (pageFmt c l write)
      if arrayFmt size pg.1 && !(hEFV ent && hEFMT ent != pg.1) then pure l else stop (asyncErr 0x40 h pg.1 pg.2 o none)
/-- The handle and byte offset of an array element, for a record. -/
def Elem.arrayOfs (e : Elem) (f size i : Nat) : Nat × Nat := (bits (e.fld 15) 0 12, e.wide f + size * i)
/-- Read a word of an array: its value, and the machine check of poison met. -/
def arrayRead (c p f size : Nat) (i : Nat) : M (Nat × Option (Nat × Option Nat)) := do
  let l ← arrayAt c p f size i true false
  let a := ((← get).elem c p).arrayOfs f size i
  let r ← about a.1 a.2 (readLoc c l size)
  pure (leVal r.1, r.2)
/-- Write bytes of an array. -/
def arrayWrite (c p f size : Nat) (i : Nat) (typed : Bool) (v : Nat) : M Unit := do
  let l ← arrayAt c p f size i typed true
  let a := ((← get).elem c p).arrayOfs f size i
  about a.1 a.2 (writeLoc c l (leBytes size v))
/-- The absent marker as a position in an array: it addresses none (R190), so the access lies in no handle's bounds (DEDUCED, log 106). -/
def present (c p f v : Nat) : M Unit := do
  let e := (← get).elem c p
  if v == absent then stop (hFault 0x36 (bits (e.fld 15) 0 12) (e.wide f)) else pure ()
/-- A built token, or poison in its place where what was read is poisoned. -/
def builtOr (c p : Nat) (mc : Option (Nat × Option Nat)) (kind : TKind) (width pay : Nat) (hs : List (Nat × Slotted)) : M Token := do
  let t ← built c p kind width pay hs
  noteCheck c mc
  match mc with
  | some k => pure (poisonTok width k.1 t.set t.worth)
  | none => pure t
/-- Poison met where no token of the step can carry it (DEDUCED, log 36): asynchronous error 0x41. -/
def plain (c p : Nat) (r : Nat × Option (Nat × Option Nat)) : M Nat := do
  match r.2 with
  | none => pure r.1
  | some k =>
    let e := (← get).elem c p
    stop (asyncErr 0x41 (bits (e.fld 15) 0 12) 0 0 0 (some k))

/-! ### Scans (R199) -/

/-- A scan: the children beneath a parent reference, from their number and the i-th of them. -/
def scan (c p : Nat) (kids : Nat × Slotted → Nat → M (Nat × (Nat → M (Option Token × Option Token)))) : M Unit := do
  -- a page end acts as if D had arrived at the virtual input (R392)
  let e0 := (← get).elem c p
  (if e0.rooted && e0.ending && !e0.begun && e0.f == 0 then modify fun s => s.modElem c p fun e => { e with f := 1 } else pure ())
  let e := (← get).elem c p
  let h ← fibHead c p 0
  let t := h.2.tok
  let sep : List (Option Token × Option Token) := if e.last then [bothOut (stopTok 0)] else []
  match t.kind with
  | .eos => eosStep c p [h]
  | .stop => tokenStep c p [bothOut (stopTok (t.lvl + 1))] [h] fun e => { e with last := false }
  | .done => tokenStep c p (sep ++ [bothOut doneTok]) [h] id
  | _ => do
    let k ← kids h (t.num % 2 ^ 32)
    runStep c p
      { count := sep.length + k.1
        nth := fun i => if i < sep.length then pure (bothOut (stopTok 0)) else k.2 (i - sep.length)
        heads := [h], post := fun e => { e with last := true } }
/-- A pair and its reference. -/
def pairAndRef (c p : Nat) (h : Nat × Slotted) (crd ref : Nat) (mc : Option (Nat × Option Nat)) : M (Option Token × Option Token) := do
  let x ← builtOr c p mc .crd 1 (pairPay crd ref) [h]
  let y ← built c p .ref 0 (ref % 2 ^ 32) [h]
  pure (some x, some y)
/-- SCANU. -/
def opScanu (_m : BitVec 11) (c p : Nat) : M Unit :=
  scan c p fun h v => do
    let e := (← get).elem c p
    let n := e.wide 18
    pure (n, fun i => if 0xFFFFFFFE < v * n + i then stop (faultAt 0x36 0 h.2) else pairAndRef c p h i (v * n + i) none)
/-- SCANC: both offsets are read before anything is emitted for the step. -/
def opScanc (_m : BitVec 11) (c p : Nat) : M Unit :=
  scan c p fun h v => atHead 0 h.2 do
    let e0 := (← get).elem c p
    (if e0.begun then pure ()
     else do
      present c p 16 v
      let lo ← plain c p (← arrayRead c p 16 4 v)
      let hi ← plain c p (← arrayRead c p 16 4 (v + 1))
      (if hi < lo then stop (faultAt 0x36 0 h.2) else pure ())
      modify fun s => s.modElem c p fun e => { e with lo := lo, hi := hi })
    let e := (← get).elem c p
    pure (e.hi - e.lo, fun i => atHead 0 h.2 do
      let r ← arrayRead c p 17 4 (e.lo + i)
      pairAndRef c p h r.1 (e.lo + i) r.2)
/-- A bitmap word from the metadata array of the handle's layout record, through the metadata cache (R198, R207, R208). -/
def metaWord (c p i : Nat) : M (Nat × Option (Nat × Option Nat)) := do
  let s ← get
  let e := s.elem c p
  let h := bits (e.fld 15) 0 12
  let bad : Stop := hFault 0x36 h (8 * i)
  let ent ← handle .elem c h 0
  match ← about h (8 * i) (layout c (s.ctxOf c) ent) with
  | (_, some mc) => pure (0, some mc)
  | (none, none) => stop bad
  | (some ws, none) =>
    if !bitAt (fld (ws.getD 5 0) 0 32) 1 then stop bad
    else
      let r := ws.getD 1 0
      let o := fld r 0 52 + 8 * i
      match ← sideRefAt bad c r (8 * i) 8 [1] false with
      | .mem x va pol il => do
        let m ← handle (.fixed bad) c (fld r 52 12) o
        about (fld r 52 12) o do
          let pg ← pageFmt c (.mem x va pol il) false
          if hEFV m && hEFMT m != 0 then stop (hFault 0x3A (fld r 52 12) o)
          else if va % 8 != 0 then stop (hFault 0x38 (fld r 52 12) o)
          else if pg.1 != 0 then stop (asyncErr 0x40 (fld r 52 12) pg.1 pg.2 o none)
          else do
            let b ← metaRead c x va 8
            pure (leVal b.1, b.2)
      | _ => stop bad
/-- SCANB. A position beyond 32 bits is kept modulo 2^32 on y (DESIGN CHOICE, log 90). -/
def opScanb (_m : BitVec 11) (c p : Nat) : M Unit :=
  scan c p fun h v => do
    let e := (← get).elem c p
    let n := e.wide 18
    pure (n, fun j => atHead 0 h.2 do
      present c p 16 v
      let r ← if bitAt e.mode 1 then metaWord c p (v * n + j) else arrayRead c p 16 8 (v * n + j)
      let x ← builtOr c p r.2 .val 1 r.1 [h]
      let y ← built c p .ref 0 ((v * n + j) % 2 ^ 32) [h]
      pure (some x, some y))

/-! ### Merging (R200) -/

/-- Control heads of matched inputs: one stop or D passes, and eos on every input ends the streams. -/
def matchedCtl (c p : Nat) (hs : List (Nat × Slotted)) (outs : Token → Option Token × Option Token) (post : Elem → Elem) : M Unit := do
  match hs with
  | [] => stall
  | h :: r =>
    match hs.find? fun x => !x.2.tok.isCtl || !(x.2.tok.kind == h.2.tok.kind && x.2.tok.lvl == h.2.tok.lvl) with
    | some b => misaligned (if r.isEmpty then h else b)
    | none => if isEos h.2.tok then eosStep c p hs else tokenStep c p [outs h.2.tok] hs post
/-- Heads of some ports. -/
def heads (c p : Nat) (rs : List Nat) : M (List (Nat × Slotted)) := rs.mapM fun r => fibHead c p r
/-- Consume heads and emit nothing. -/
def skip (c p : Nat) (hs : List (Nat × Slotted)) : M Unit := tokenStep c p [] hs id
def isDatum (h : Nat × Slotted) : Bool := h.2.tok.isData || h.2.tok.isPoison

/-- Set bits of a word, ascending. -/
def setBits (w : Nat) : List Nat := (upTo 64).filter fun i => bitAt w i
def popcount (w : Nat) : Nat := (setBits w).length
/-- One step over a word pair (R201): the tokens it emits, and what it adds to P. -/
def wordPair (c p : Nat) (hs : List (Nat × Slotted)) (f : Elem → Nat → Nat → M (List (Option Token × Option Token)))
    (total : Nat → Nat) : M Unit := do
  let e := (← get).elem c p
  let chan := hs.filter fun h => !e.isReg h.1
  if chan.any fun h => !isDatum h then matchedCtl c p chan bothOut fun e => { e with j := 0 }
  else
    let wa := (headTok hs 0).num % 2 ^ 64
    let wm := (if hs.length == 1 then headTok hs 0 else headTok hs 1).num % 2 ^ 64
    let os ← f e wa wm
    tokenStep c p os hs fun e => { e with j := e.j + 1, q0 := if total wa == 0 then e.q0 else word ((e.q0.toNat + total wa) % 2 ^ 32) }

/-- ISECT. -/
def opIsect (_m : BitVec 11) (c p : Nat) : M Unit := do
  let e := (← get).elem c p
  if bitAt e.mode 1 then
    let hs ← heads c p [0, 1]
    wordPair c p hs (fun e wa wm => (setBits (Nat.land wa wm)).mapM fun i => do
      let x ← built c p .crd 0 (64 * e.j + i) hs
      pure (some x, none)) fun _ => 0
  else
    let hs ← heads c p (if bitAt e.mode 0 then [0, 1, 2] else [0, 1])
    let data := hs.filter isDatum
    if data.isEmpty then matchedCtl c p hs bothOut id
    else
      match hs.find? fun h => isEos h.2.tok with
      | some h => misaligned h
      | none =>
        if data.length < hs.length then skip c p data
        else
          let m := ((hs.map fun h => crdOf h.2.tok).min?).getD 0
          if hs.all fun h => crdOf h.2.tok == m then do
            let b := headTok hs 1
            let y ← (if bitAt e.mode 0 then built c p .ref 1 (refOf b + refOf (headTok hs 2) * 2 ^ 32) hs else pure b)
            tokenStep c p [(some (headTok hs 0), some y)] hs id
          else skip c p (hs.filter fun h => crdOf h.2.tok == m)
/-- UNION. -/
def opUnion (_m : BitVec 11) (c p : Nat) : M Unit := do
  let hs ← heads c p [0, 1]
  let data := hs.filter isDatum
  if data.isEmpty then matchedCtl c p hs bothOut id
  else
    match hs.find? fun h => isEos h.2.tok with
    | some h => misaligned h
    | none => do
      let m := ((data.map fun h => crdOf h.2.tok).min?).getD 0
      let hit := data.filter fun h => crdOf h.2.tok == m
      -- an absent partner counts as a token of set 0 and worth 0
      let hd := hs.map fun h => if hit.any (·.1 == h.1) then h else (h.1, ({ tok := { kind := .crd, width := 1 } } : Slotted))
      let side (r : Nat) : M Token := built c p .crd 1 (pairPay m (match hit.find? (·.1 == r) with
        | some h => refOf h.2.tok
        | none => absent)) hd
      let x ← side 0
      let y ← side 1
      tokenStep c p [(some x, some y)] hit id

/-- POPPFX. -/
def opPoppfx (_m : BitVec 11) (c p : Nat) : M Unit := do
  let e0 := (← get).elem c p
  let hs ← heads c p (if bitAt e0.mode 0 then [0] else [0, 1])
  wordPair c p hs (fun e wa wm => (setBits wm).mapM fun i => do
    let ref := if bitAt wa i then (e.q0.toNat + popcount (wa % 2 ^ i)) % 2 ^ 32 else absent
    let x ← built c p .ref 0 ref hs
    let y ← built c p .crd 0 (64 * e.j + i) hs
    pure (some x, some y)) popcount
/-- BAND and BOR: a word for each pair. -/
def wordOp (f : Nat → Nat → Nat) (c p : Nat) : M Unit := do
  let hs ← heads c p [0, 1]
  wordPair c p hs (fun _ wa wm => do
    let x ← built c p .val 1 (f wa wm) hs
    pure [(some x, none)]) fun _ => 0
def opBand (_m : BitVec 11) (c p : Nat) : M Unit := wordOp Nat.land c p
def opBor (_m : BitVec 11) (c p : Nat) : M Unit := wordOp Nat.lor c p

/-! ### REPEAT, LOCATE, CRDDROP (R202 to R204) -/

/-- The driving stream's D or eos, which the partner must hold too. -/
def alignedEnd (c p : Nat) (h o : Nat × Slotted) (os : List (Option Token × Option Token)) (post : Elem → Elem) : M Unit :=
  if h.2.tok.kind == .done && o.2.tok.kind == .done then tokenStep c p os [h, o] post
  else if isEos h.2.tok && isEos o.2.tok then eosStep c p [h, o]
  else misaligned o
/-- A stop Sj of the driving stream h: the partner's data head is consumed, and for j ≥ 1 its S(j−1) too, which follows it. `last`
says that the data head has gone. -/
def alignedStop (c p : Nat) (h o : Nat × Slotted) (needs : Bool) (os : List (Option Token × Option Token)) (post : Elem → Elem) :
    M Unit := do
  let e := (← get).elem c p
  let j := h.2.tok.lvl
  if needs && !e.last then
    if !isDatum o then misaligned o
    else if j == 0 then tokenStep c p os [h, o] post
    else do
      eatAll c p [o]
      modify fun s => s.modElem c p fun e => { e with last := true }
  else if j == 0 then tokenStep c p os [h] post
  else if o.2.tok.kind == .stop && o.2.tok.lvl + 1 == j then tokenStep c p os [h, o] fun e => { post e with last := false }
  else misaligned o
/-- REPEAT. -/
def opRepeatEl (_m : BitVec 11) (c p : Nat) : M Unit := do
  let a ← fibHead c p 0
  let b ← fibHead c p 1
  let t := b.2.tok
  if isDatum b then
    if !isDatum a then misaligned a
    else do
      let x ← built c p .ref 0 (a.2.tok.num % 2 ^ 32) [a, b]
      tokenStep c p [(some x, none)] [b] id
  else if t.kind == .stop then alignedStop c p b a true [(some t, none)] id
  else alignedEnd c p b a [(some t, none)] id

/-- The search of R203: the first position in [lo, hi) whose coordinate is not below c. -/
def search (c p crd : Nat) : Nat → Nat → Nat → M (Nat × Option (Nat × Option Nat))
  | 0, lo, _ => pure (lo, none)
  | fuel + 1, lo, hi =>
    if hi ≤ lo then pure (lo, none)
    else do
      let mid := (lo + hi) / 2
      let r ← arrayRead c p 17 4 mid
      match r.2 with
      | some k => pure (lo, some k)
      | none => if r.1 < crd then search c p crd fuel (mid + 1) hi else search c p crd fuel lo mid
/-- Where a coordinate lies beneath a parent: found, position, and poison met. -/
def find (c p crd v : Nat) (parent : Slotted) : M (Bool × Nat × Option (Nat × Option Nat)) := do
  let e := (← get).elem c p
  if bitAt e.mode 1 then
    let n := e.wide 18
    pure (crd < n, v * n + crd, none)
  else
    present c p 16 v
    let lo ← arrayRead c p 16 4 v
    let hi ← arrayRead c p 16 4 (v + 1)
    match lo.2.or hi.2 with
    | some k => pure (false, 0, some k)
    | none =>
      if hi.1 < lo.1 then stop (faultAt 0x36 1 parent)
      else
        let r ← search c p crd 33 lo.1 hi.1
        match r.2 with
        | some k => pure (false, 0, some k)
        | none =>
          if hi.1 ≤ r.1 then pure (false, r.1, none)
          else
            let w ← arrayRead c p 17 4 r.1
            pure (w.2.isNone && w.1 == crd, r.1, w.2)
/-- LOCATE. A search that met poison gives a poison reference (DEDUCED, log 36). A position beyond 32 bits is kept modulo 2^32
(DESIGN CHOICE, log 90). -/
def opLocate (_m : BitVec 11) (c p : Nat) : M Unit := do
  let a ← fibHead c p 0
  let b ← fibHead c p 1
  let e := (← get).elem c p
  let t := a.2.tok
  if isDatum a then
    if !isDatum b then misaligned b
    else do
      let r ← atHead 1 b.2 (find c p (crdOf t) (b.2.tok.num % 2 ^ 32) b.2)
      (if !r.1 && r.2.2.isNone && bitAt e.mode 0 then skip c p [a]
       else do
        let y ← builtOr c p r.2.2 .ref 0 (if r.1 then r.2.1 % 2 ^ 32 else absent) [a, b]
        tokenStep c p [(some t, some y)] [a] id)
  else if t.kind == .stop then alignedStop c p a b true [bothOut t] id
  else alignedEnd c p a b [bothOut t] id

/-- CRDDROP. -/
def opCrddrop (_m : BitVec 11) (c p : Nat) : M Unit := do
  let a ← fibHead c p 0
  let b ← fibHead c p 1
  let e := (← get).elem c p
  let t := b.2.tok
  let held : List (Option Token × Option Token) := match e.pend with | some k => [(none, some k)] | none => []
  if isDatum b then
    if e.seenF then tokenStep c p [(none, some t)] [b] id
    else if !isDatum a then misaligned a
    else
      let os := match e.pend with
        | some k => [(some a.2.tok, some k), (none, some t)]
        | none => [(some a.2.tok, some t)]
      tokenStep c p os [a, b] fun e => { e with seenF := true, pend := none }
  else if t.kind == .stop then
    if t.lvl == 0 then
      if e.seenF then tokenStep c p [] [b] fun e => { e with seenF := false, pend := some (stopTok 0) }
      else if !isDatum a then misaligned a
      else tokenStep c p [] [a, b] id
    else
      alignedStop c p b a (!e.seenF) [(some (stopTok (t.lvl - 1)), some t)] fun e => { e with seenF := false, pend := none }
  else
    alignedEnd c p b a (held ++ [bothOut t]) fun e => { e with seenF := false, pend := none }

/-! ### REDUCE and FWRITE (R205, R206) -/

/-- A head of a fibre commit point leaves its port, and its effect is parked. -/
def parkHead (c p : Nat) (h : Nat × Slotted) (eff : Eff) (effect : Eff → M Unit) : M Unit :=
  if h.2.tok.isCtl then do
    modify fun s => s.modElem c p fun e => e.setPort 0 ((e.port 0).past h.2.tok)
    parkCtl c p 0 h.2 effect
  else do
    parkEff c p h.2.tok.set eff
    eatAll c p [h]
/-- REDUCE's effects, once decided. -/
def reduceEffect (c p : Nat) (eff : Eff) : M Unit := do
  let e := (← get).elem c p
  let kl := bits e.mode 0 3
  match eff with
  | .fold t => modify fun s => s.modElem c p fun e => e.foldIn e.ty e.rnd false e.sub t
  | .ctl x =>
    let t := x.tok
    if t.kind == .stop then
      if t.lvl < kl then pure ()
      else do
        emitSeq c p (e.total e.ty :: (if t.lvl == kl then [] else [stopTok (t.lvl - kl - 1)]))
        modify fun s => s.modElem c p Elem.accReset
    else do
      emitNow c p (some t) none
      eosHeld c p t
  | _ => pure ()
/-- REDUCE. -/
def opReduce (_m : BitVec 11) (c p : Nat) : M Unit := do
  let h ← fibHead c p 0
  parkHead c p h (.fold h.2.tok) (reduceEffect c p)

/-- FWRITE's effects, once decided. -/
def fwriteEffect (c p : Nat) (eff : Eff) : M Unit := do
  let e := (← get).elem c p
  let vals := bitAt e.mode 0
  match eff with
  | .fwrite x => do
    atHead 0 x (if vals then arrayWrite c p 17 (owBits x.tok.width / 8) e.p false x.tok.num
                else arrayWrite c p 17 4 e.p true (crdOf x.tok))
    modify fun s => s.modElem c p fun e => { e with p := e.p + 1 }
  | .ctl x =>
    if x.tok.kind == .stop then do
      (if vals then pure () else atHead 0 x (arrayWrite c p 16 4 (e.f + 1) true e.p))
      modify fun s => s.modElem c p fun e => { e with f := e.f + 1 }
    else if x.tok.kind == .done then do
      atHead 0 x (arrayWrite c p 19 4 0 true e.p)
      atHead 0 x (arrayWrite c p 19 4 1 true e.f)
    else eosHeld c p x.tok
  | _ => pure ()
/-- FWRITE. `seenF` says that off[0] is written; `lo` holds the width of the values, plus 1. -/
def opFwrite (_m : BitVec 11) (c p : Nat) : M Unit := do
  let h ← fibHead c p 0
  let e := (← get).elem c p
  (if !e.seenF && !bitAt e.mode 0 then atHead 0 h.2 (arrayWrite c p 16 4 0 true 0) else pure ())
  modify fun s => s.modElem c p fun e =>
    { e with seenF := true, lo := if e.lo == 0 && h.2.tok.isData then h.2.tok.width + 1 else e.lo }
  parkHead c p h (.fwrite h.2) (fwriteEffect c p)

end Sys2Proof.Machine
end

