-- ==== Sys2Proof/Machine/Stream.lean ====
section
/-!
DEFINITION. Stream elements: LDA, LDI, STA, STI (08 R225 to R227; 20 R443), ATOM (09 R244, R245), XREQ and GREQ (11 R299, R305) and
the matrix port (12 R327, R328).
-/
namespace Sys2Proof.Machine

/-! ### Handles, indices and places (R225, R226, R231, R267) -/

def Elem.hnd (e : Elem) : Nat := bits (e.fld 15) 0 12
def Elem.few (e : Elem) : Bool := 0xA0 ≤ e.op && e.op ≤ 0xA3 && bitAt e.mode 1
def Elem.fex (e : Elem) : Bool := bitAt e.mode 2
/-- A signed element count of a field (R225). -/
def Elem.scount (e : Elem) (f : Nat) : Int := sgn 64 (e.wide f)
/-- The index that a token names (R226). -/
def indexOf (t : Token) : Nat := if t.kind == .crd && t.width == 1 then bits t.num 32 32 else t.num % 2 ^ 32
/-- off + idx·st0. -/
def Elem.indexed (e : Elem) (i : Nat) : Int := e.scount 16 + (i : Int) * e.scount 17
/-- Is a head a data kind that an index port takes (R227)? -/
def indexOk (t : Token) : Bool := t.isData && !(t.kind == .ref && t.width == 1)

/-- The handle entry of a traversal, as it stood at its start, or of one token (R231). -/
def entryOf (c p : Nat) (traversal : Bool) : M (List Word) := do
  let e := (← get).elem c p
  match (if traversal then e.hver else none) with
  | some v => pure v
  | none =>
    let v ← handle .elem c e.hnd 0
    (if traversal then modify fun s => s.modElem c p fun e => { e with hver := some v } else pure ())
    pure v
/-- The full/empty word that an element index names (R226). -/
def fewWord (c p : Nat) (ent : List Word) (idx : Int) (write : Bool) : M (Nat × Nat) := do
  let h := ((← get).elem c p).hnd
  if hSpace ent != 2 then stop (hFault 0x3C h 0)
  else if idx < 0 || hBase ent % 8 != 0 then stop (hFault 0x38 h (8 * idx.toNat))
  else
    match ← locate .elem c h ent (8 * idx.toNat) 8 write with
    | .sp k off => pure (k, off / 8)
    | _ => stop (hFault 0x3C h 0)
/-- The window place of a token of n elements (R267). -/
def winPlace (c p : Nat) (ent : List Word) (idx : Int) (n : Nat) (write : Bool) : M (Nat × Nat × Nat × Nat) := do
  let e := (← get).elem c p
  let w := tyW e.ty / 8
  if idx < 0 then stop (hFault 0x38 e.hnd 0)
  else
    match ← locate .elem c e.hnd ent (w * idx.toNat) (w * n) write with
    | .win sp i ofs => pure (sp, i, ofs, w * n)
    | _ => stop (hFault 0x39 e.hnd 0)
/-- What an element's access checks at its firing: bounds, alignment, and a combination that EFMT declares (R113, R227). -/
def placeCheck (c p : Nat) (ent : List Word) (ty : Nat) (idx : Int) (write : Bool) : M Unit := do
  let _ ← elemSpot c ((← get).elem c p).hnd ent ty idx write fun f _ => tyPageOk f ty && !(write && f == 6)
  pure ()
/-- The checks of a token of n elements. -/
def tokenCheck (c p : Nat) (ent : List Word) (idx : Int) (n : Nat) (write : Bool) : M Unit := do
  let e := (← get).elem c p
  if e.few then do
    let _ ← fewWord c p ent idx write
    pure ()
  else if 3 ≤ hSpace ent then do
    let _ ← winPlace c p ent idx n write
    pure ()
  else (upTo n).forM fun j => placeCheck c p ent e.ty (idx + (j : Nat)) write

/-! ### Loads -/

/-- A token of values (R226, R443). -/
def Elem.valTok (e : Elem) (vs : List Nat) (h : BitVec 24 × BitVec 16) : Token :=
  let w := lfW e.lf e.ty
  let v := vs.headD 0 % 2 ^ w
  let pay := if e.lf == 3 then (if tySigned e.ty then sext w (owBits e.ow) v else v) else packLanes w vs
  { width := e.ow, worth := h.2, set := h.1, pay := payOf pay }
/-- Load n elements from sp or hbm: codes, flags, and the first machine check met. -/
def loadLanes (c p : Nat) (ent : List Word) (idx : Int) (n : Nat) : M (List Nat × Flags × Option (Nat × Option Nat)) := do
  let e := (← get).elem c p
  (upTo n).foldlM (fun acc j => do
    let r ← loadElem c e.hnd ent e.ty (idx + (j : Nat))
    pure (acc.1 ++ [r.1], acc.2.1 ||| r.2.1, acc.2.2.or r.2.2)) ([], noFlags, none)
/-- The values of a token, or none while an answer is awaited: a full/empty word or a window read (R221, R267). -/
def fetchLanes (c p : Nat) (ent : List Word) (idx : Int) (n : Nat) : M (Option (List Nat × Flags × Option (Nat × Option Nat))) := do
  let s ← get
  let e := s.elem c p
  let w := tyW e.ty / 8
  (if e.due && e.got.isNone then stall else pure ())
  let answered : M (Option (List Nat × Flags × Option (Nat × Option Nat))) := do
    match ((← get).elem c p).got with
    | none => pure none
    | some g => do
      modify fun s => s.modElem c p fun e => { e with got := none }
      pure (some ((upTo n).map fun j => leVal ((g.1.drop (w * j)).take w), noFlags, g.2.map fun code => (code, none)))
  if e.few then do
    let k ← fewWord c p ent idx false
    (if e.got.isSome || e.due then pure ()
     else modify fun s => feArrive (s.modElem c p fun e => { e with due := true }) k.1
       { word := k.2, take := e.fex, cont := some (.elem c p) })
    answered
  else if 3 ≤ hSpace ent then do
    let pl ← winPlace c p ent idx n false
    (if e.got.isSome || e.due then pure ()
     else
       let far := s.farSide (s.ctxOf c) pl.2.1 pl.2.2.1
       let a := s.newReach c { kind := .load, src := .elem c p, win := pl.2.1, ofs := pl.2.2.1, size := pl.2.2.2 }
       setState ((a.1.send (.read a.2 pl.1 pl.2.1 far.1 pl.2.2.2)).modElem c p fun e => { e with due := true }))
    answered
  else do
    let r ← loadLanes c p ent idx n
    pure (some r)
/-- Emit a loaded token: its header is that of heads, and poison takes the place of values that met it. -/
def emitLoaded (c p : Nat) (hs : List (Nat × Token)) (r : List Nat × Flags × Option (Nat × Option Nat)) : M Unit := do
  let e := (← get).elem c p
  let h := if e.op == 0xA0 then (0, 0) else e.headerOf hs (r.1.headD 0)
  noteCheck c r.2.2
  match r.2.2 with
  | some k => sendOut c p h.1 (some (poisonTok e.ow k.1 h.1 h.2)) none
  | none => do
    sendOut c p h.1 (some (e.valTok r.1 h)) none
    modify fun s => s.record c p r.2.1
/-- Output x has room, or the element is a commit point. -/
def roomAtX (c p : Nat) : M Unit := do
  let s ← get
  let e := s.elem c p
  if (if e.cmt then settleRoom e else s.canEmit c p 0 false) then pure () else stall

/-! ### LDA and LDI -/

/-- Counts of a traversal, none of them zero, and the number of its dimensions (R225). -/
def Elem.counts (e : Elem) : Nat × Nat × Nat := (e.wide 18, Nat.max (e.wide 20) 1, Nat.max (e.wide 22) 1)
def Elem.dims (e : Elem) : Nat := 1 + b2n (e.wide 20 != 0) + b2n (e.wide 22 != 0)
def Elem.walkLen (e : Elem) : Nat := e.counts.1 * e.counts.2.1 * e.counts.2.2
/-- Element index of step i of a traversal. -/
def Elem.walkAt (e : Elem) (i : Nat) : Int :=
  let k := e.counts
  e.scount 16 + ((i % k.1 : Nat) : Int) * e.scount 17 + ((i / k.1 % k.2.1 : Nat) : Int) * e.scount 19
    + ((i / k.1 / k.2.1 : Nat) : Int) * e.scount 21
/-- Level of the stop that follows step i, if i ends a run of dimension 0. -/
def Elem.walkStop (e : Elem) (i : Nat) : Option Nat :=
  let k := e.counts
  if i % k.1 + 1 != k.1 then none
  else if e.dims == 1 || i / k.1 % k.2.1 + 1 != k.2.1 then some 0
  else if e.dims == 2 || i / k.1 / k.2.1 + 1 != k.2.2 then some 1
  else some 2
/-- LDA: `prog` elements are loaded, `j` says that a stop is due, `fin` 1 that D has been sent. -/
def opLda (_m : BitVec 11) (c p : Nat) : M Unit := do
  let s ← get
  let e := s.elem c p
  let stops := bitAt e.mode 0
  let n := lfLanes e.lf
  let element : M Unit := do
    roomAtX c p
    let ent ← entryOf c p true
    match ← fetchLanes c p ent (e.walkAt e.prog) n with
    | none => pure ()
    | some r => do
      emitLoaded c p [] r
      modify fun s => s.modElem c p fun e =>
        { e with prog := e.prog + 1, lastStop := none, j := b2n (stops && (e.walkStop e.prog).isSome) }
  let emitStop (k : Nat) : M Unit := do
    sendOut c p 0 (some (stopTok k)) none
    modify fun s => s.modElem c p fun e => { e with j := 0, lastStop := some k }
  if e.fin == 2 then stall
  else if e.due || e.got.isSome then element
  else if !s.sourcesRun c then stall
  else if e.fin == 1 then endSource c p
  else if e.ending then
    -- the page's sources have ended (R392)
    if !stops then endSource c p
    else if e.lastStop != some (e.dims - 1) then emitStop (e.dims - 1)
    else do
      sendOut c p 0 (some doneTok) none
      modify fun s => s.modElem c p fun e => { e with fin := 1 }
  else if e.j == 1 then emitStop ((e.walkStop (e.prog - 1)).getD 0)
  else if e.prog < e.walkLen then element
  else if !stops then endSource c p
  else do
    sendOut c p 0 (some doneTok) none
    modify fun s => s.modElem c p fun e => { e with fin := 1 }

/-- LDI. -/
def opLdi (_m : BitVec 11) (c p : Nat) : M Unit := do
  match ← commonHeads c p false [0] with
  | none => pure ()
  | some hs => do
    let e := (← get).elem c p
    let x := (hs.headD default).2
    let done : M Unit := consume c p 0
    match poisonOf hs with
    | some code => finishPoison c p false hs code
    | none =>
      if !indexOk x.tok then stop (faultAt 0x3B 0 x)
      else if indexOf x.tok == absent then do
        emitLoaded c p (tokensOf hs) (List.replicate (lfLanes e.lf) 0, noFlags, none)
        done
      else do
        roomAtX c p
        let ent ← entryOf c p false
        match ← atHead 0 x (fetchLanes c p ent (e.indexed (indexOf x.tok)) (lfLanes e.lf)) with
        | none => pure ()
        | some r => do
          emitLoaded c p (tokensOf hs) r
          done

/-! ### STA and STI -/

/-- Lanes of a token that a store writes. -/
def Elem.storeLanes (e : Elem) (t : Token) : List Nat := e.lanesIn e.ty t
/-- Does each run of dimension 0 of a store into a TAIL or SIDE page start on a block and cover whole blocks (R226)? `i` is a step of
the traversal. -/
def Elem.wholeRuns (e : Elem) (i : Nat) : Bool :=
  let n := lfLanes e.lf
  let k := e.counts.1
  e.walkAt (i - i % k) % 32 == 0 && n * k % 32 == 0 && (k == 1 || e.scount 17 == (n : Int))
/-- The block that the front of the settle buffer begins (R115, R226): its tokens, none for one that is QUENCHED, once every one
of them is decided. What is no whole block takes the fates of R113. -/
def blockOf (e : Elem) (idx : Int) (ent : List Word) (pg : Nat × Nat) : M (List (Option Token)) := do
  let n := lfLanes e.lf
  let k := Nat.max 1 (32 / n)
  let bad : Stop := asyncErr 0x40 e.hnd pg.1 pg.2 (elemByte pg.1 pg.2 e.ty idx.toNat).1 none
  -- the step of the store at the front
  let at_ := e.prog - (e.settle.filter fun x => match x.eff with | .store .. => true | _ => false).length
  let item (i : Nat) (x : Parked) : Option (Option Token) := match x.eff with
    | .store t j _ => if j == idx + ((i * n : Nat) : Int) then some (if x.quenched then none else some t.tok) else none
    | _ => none
  let its := (e.settle.take k).zipIdx.map fun x => (x.1, item x.2 x.1)
  if idx < 0 || idx % 32 != 0 || 32 < n || !e.wholeRuns at_ || !tyPageOk pg.1 e.ty || (hEFV ent && hEFMT ent != pg.1) || its.any (·.2.isNone) then stop bad
  else if its.length < k || its.any fun x => !x.1.decided then stall
  else pure (its.filterMap (·.2))
/-- Write one block and take its other tokens from the settle buffer. -/
def blockStore (c p : Nat) (idx : Int) (ent : List Word) (pg : Nat × Nat) : M Unit := do
  let e := (← get).elem c p
  let ts ← blockOf e idx ent pg
  let vs := ts.flatMap fun t => match t with
    | some t => (e.storeLanes t).map fun v => (tyFmt e.ty).decode v
    | none => List.replicate (lfLanes e.lf) (fp32.decode 0)
  let fl ← storeBlock c e.hnd ent pg.1 pg.2 idx.toNat vs
  modify fun s => (s.record c p fl).modElem c p fun e =>
    { e with settle := match e.settle with | x :: r => x :: r.drop (ts.length - 1) | [] => [] }
/-- A store at the front of the settle buffer is performed. -/
def performStore (c p : Nat) (quenched : Bool) (x : Slotted) (idx : Int) (ent : List Word) : M Unit := do
  let s ← get
  let e := s.elem c p
  let n := lfLanes e.lf
  let vs := e.storeLanes x.tok
  if e.few then
    if quenched then pure ()
    -- one STEF at a time: the last may be parked in its word's writer queue
    else if e.due || e.got.isSome then stall
    else do
      let k ← fewWord c p ent idx true
      modify fun s => feArrive (s.modElem c p fun e => { e with due := true, acks := e.acks + 1 }) k.1
        { word := k.2, write := true, val := word (vs.headD 0), cont := some (.elem c p) }
  else if 3 ≤ hSpace ent then
    if quenched then pure ()
    else do
      let pl ← winPlace c p ent idx n true
      let s ← get
      let far := s.farSide (s.ctxOf c) pl.2.1 pl.2.2.1
      let a := s.newReach c { kind := .store, src := .elem c p, win := pl.2.1, ofs := pl.2.2.1, size := pl.2.2.2 }
      let bytes := vs.flatMap fun v => leBytes (tyW e.ty / 8) v
      setState ((a.1.send (.write a.2 pl.1 pl.2.1 far.1 bytes [])).modElem c p fun e => { e with acks := e.acks + 1 })
  else
    let pg := if e.op == 0xA2 then s.elemFmt c ent e.ty idx.toNat else (0, 0)
    if blockPage pg.1 pg.2 then blockStore c p idx ent pg
    else if quenched then pure ()
    else do
      let fl ← (upTo n).foldlM (fun (fl : Flags) j => do
        let f ← storeElem c e.hnd ent e.ty (idx + (j : Nat)) (vs.getD j 0)
        pure (fl ||| f)) noFlags
      modify fun s => s.record c p fl
/-- A STEF of an element has been performed (R221, R226). -/
def stefDone (c p : Nat) : M Unit := do
  let e := (← get).elem c p
  if e.few && (e.op == 0xA2 || e.op == 0xA3) && e.got.isSome then
    modify fun s => s.modElem c p fun e => { e with got := none, acks := e.acks - 1 }
  else stall
/-- Effects of stores and of the control tokens that wait for them, once decided. -/
def storeEffect (c p : Nat) (quenched : Bool) (eff : Eff) : M Unit := do
  let e := (← get).elem c p
  match eff with
  | .store x idx ent => performStore c p quenched x idx ent
  | .ctl x =>
    if e.acks != 0 then stall
    else do
      emitNow c p (some x.tok) none
      eosHeld c p x.tok
  | _ => pure ()
/-- STA. -/
def opSta (_m : BitVec 11) (c p : Nat) : M Unit := do
  let e := (← get).elem c p
  let x ← need c p 0
  if x.tok.isPoison then stop (faultAt 0x23 0 x)
  else if x.tok.isCtl then parkCtl c p 0 x (storeEffect c p false)
  else if e.walkLen ≤ e.prog then stop (faultAt 0x3D 0 x)
  else do
    let idx := e.walkAt e.prog
    let ent ← entryOf c p true
    atHead 0 x (tokenCheck c p ent idx (lfLanes e.lf) true)
    parkEff c p (e.headerOf [(0, x.tok)] 0).1 (.store x idx ent)
    consume c p 0
    modify fun s => s.modElem c p fun e => { e with prog := e.prog + 1 }
/-- STI. -/
def opSti (_m : BitVec 11) (c p : Nat) : M Unit := do
  let e := (← get).elem c p
  let a ← need c p 0
  let b ← need c p 1
  let hs := [(0, a), (1, b)]
  match hs.find? fun h => h.2.tok.isPoison with
  | some h => stop (faultAt 0x23 h.1 h.2)
  | none =>
    let chan := hs.filter fun h => !e.isReg h.1
    match ← controlOf id chan with
    | some t => parkCtls c p (chan.map (·.1)) { a with tok := t } (storeEffect c p false)
    | none =>
      checkSets e.pol id hs
      if !indexOk b.tok then stop (faultAt 0x3B 1 b)
      else if indexOf b.tok == absent then consumeAll c p [0, 1]
      else do
        let idx := e.indexed (indexOf b.tok)
        let ent ← entryOf c p false
        atHead 1 b (tokenCheck c p ent idx (lfLanes e.lf) true)
        parkEff c p (e.headerOf (tokensOf hs) 0).1 (.store a idx ent)
        consumeAll c p [0, 1]

/-! ### ATOM (R244, R245) -/

/-- The new value of an element under SUB and TY. -/
def atomNew (ty sub old v cmp : Nat) : Nat × Flags :=
  match sub with
  | 0 => if tyIsFlt ty then fAdd ty 0 old v else iAdd ty false old v
  | 1 => (bAnd ty old v, noFlags)
  | 2 => (bOr ty old v, noFlags)
  | 3 => (bXor ty old v, noFlags)
  | 4 => (if tyIsFlt ty then fMin ty old v else iMin ty old v, noFlags)
  | 5 => (if tyIsFlt ty then fMax ty old v else iMax ty old v, noFlags)
  | 6 => (v % 2 ^ tyW ty, noFlags)
  | _ => ((if old % 2 ^ tyW ty == cmp % 2 ^ tyW ty then v else old) % 2 ^ tyW ty, noFlags)
/-- The atomic at the front of the settle buffer is performed. -/
def performAtom (c p : Nat) (idx : Int) (opnd cmp : Nat) (hdr : Slotted) (ent : List Word) : M Unit := do
  let e := (← get).elem c p
  let ty := e.ty
  let w := tyW ty / 8
  let os := bits e.mode 0 4
  let o := w * idx.toNat
  let l ← locate .elem c e.hnd ent o w true
  let pg ← about e.hnd o (pageFmt c l true)
  if hSpace ent == 1 && (!atomOk pg.1 ty || (hEFV ent && hEFMT ent != pg.1)) then stop (asyncErr 0x40 e.hnd pg.1 pg.2 o none)
  else do
    (if osRel os then releaseAt c (.elem c p) (osLvl os) everyLine else pure ())
    about e.hnd o (scopeAt true c e.hnd o os l)
    let r ← about e.hnd o (homeRead c l w true)
    let worth := if e.rsrc == 1 then BitVec.ofNat 16 (bits r.1 16 16) else hdr.tok.worth
    noteCheck c r.2
    (match r.2 with
     | some k => emitNow c p (some (poisonTok e.ow k.1 hdr.tok.set worth)) none
     | none => do
       let v := atomNew ty e.sub r.1 opnd cmp
       homeWrite c l w v.1
       emitNow c p (some (e.valTok [r.1] (hdr.tok.set, worth))) none
       modify fun s => s.record c p v.2)
    (if osAcq os then acquireAt c (osLvl os) everyLine else pure ())
/-- ATOM's effects, once decided. -/
def atomEffect (c p : Nat) (eff : Eff) : M Unit := do
  match eff with
  | .atom idx opnd cmp hdr ent => atHead 1 hdr (performAtom c p idx opnd cmp hdr ent)
  | .ctl x => do
    emitNow c p (some x.tok) none
    eosHeld c p x.tok
  | _ => pure ()
/-- ATOM. -/
def opAtom (_m : BitVec 11) (c p : Nat) : M Unit := do
  let e := (← get).elem c p
  let hs ← (if e.sub == 7 then [0, 1, 2] else [0, 1]).mapM fun i => do
    let x ← need c p i
    pure (i, x)
  match hs.find? fun h => h.2.tok.isPoison with
  | some h => stop (faultAt 0x23 h.1 h.2)
  | none =>
    let chan := hs.filter fun h => !e.isReg h.1
    match ← controlOf id chan with
    | some t => parkCtls c p (chan.map (·.1)) { (hs.headD default).2 with tok := t } (atomEffect c p)
    | none =>
      checkSets e.pol id hs
      let b := (hs.getD 1 default).2
      if !indexOk b.tok then stop (faultAt 0x3B 1 b)
      else do
        let idx := e.indexed (indexOf b.tok)
        let ent ← entryOf c p false
        (if 3 ≤ hSpace ent then stop (faultAt 0x2A 1 b)
         else if hSpace ent == 1 && hEFV ent && !atomOk (hEFMT ent) e.ty then atHead 1 b (stop (hFault 0x3A e.hnd 0))
         else if idx < 0 || hBase ent % (tyW e.ty / 8) != 0 then atHead 1 b (stop (hFault 0x38 e.hnd 0))
         else do
           let _ ← atHead 1 b (locate .elem c e.hnd ent (tyW e.ty / 8 * idx.toNat) (tyW e.ty / 8) true)
           pure ())
        let h := e.headerOf (tokensOf hs) 0
        let val (i : Nat) : Nat := (headTok hs i).num % 2 ^ tyW e.ty
        parkEff c p h.1 (.atom idx (val 0) (val 2) { b with tok := { set := h.1, worth := h.2 } } ent)
        consumeAll c p (hs.map (·.1))

/-! ### XREQ and MPORT (R299, R328) -/

/-- XREQ's effects, once decided. -/
def xreqEffect (c p : Nat) (eff : Eff) : M Unit := do
  let s ← get
  let e := s.elem c p
  match eff with
  | .xreq ws hdr => do
    let w (i : Nat) : Word := ws.getD i 0
    let src : Source := .elem c p
    copyOrder (bitAt e.mode 1) c src
    (if !(s.core c).qRoom (pQ (w 0)) then stall else pure ())
    let r ← atHead 0 hdr (checkPacket true c src (w 0) (w 1) (w 2) (w 3))
    modify fun s => (s.accept c r).modElem c p fun e => { e with acks := e.acks + 1 }
    let h := e.headerOf [(0, hdr.tok)] (w 0).toNat
    (if bitAt e.mode 0 then emitNow c p (some { width := 1, set := h.1, worth := h.2, pay := payOf (w 0).toNat }) none else pure ())
  | .ctl x =>
    if e.acks != 0 then stall
    else do
      emitNow c p (some x.tok) none
      eosHeld c p x.tok
  | _ => pure ()
/-- XREQ. -/
def opXreq (_m : BitVec 11) (c p : Nat) : M Unit := do
  let x ← need c p 0
  let t := x.tok
  if t.isPoison then stop (faultAt 0x23 0 x)
  else if t.isCtl then parkCtl c p 0 x (xreqEffect c p)
  else if t.kind != .val || t.width != 2 then stop (faultAt 0x3B 0 x)
  else if bits t.num 256 256 != 0 then stop (faultAt 0x29 0 x)
  else do
    let ws := (upTo 4).map fun i => word (bits t.num (64 * i) 64)
    parkEff c p t.set (.xreq ws x)
    consume c p 0

/-- MPORT's effects, once decided. -/
def mportEffect (c p : Nat) (eff : Eff) : M Unit := do
  let s ← get
  let e := s.elem c p
  let l := (s.own c).launch
  match eff with
  | .mport w hdr =>
    match (s.core c).carryCheck l w with
    | some code => stop (.fault 0x2C 0 0 (word code) hdr.tok.header hdr.ord)
    | none =>
      if !(s.core c).seqRoom then stall
      else
        let h := e.headerOf [(0, hdr.tok)] 0
        setState ((s.enqueue c { word := w, src := .elem c p, launch := l, port := true
                                 echo := if bitAt e.mode 0 then some { width := 1, set := h.1, worth := h.2 } else none }).modElem c p fun e =>
          { e with acks := e.acks + 1 })
  | .ctl x =>
    if e.acks != 0 then stall
    else do
      emitNow c p (some x.tok) none
      eosHeld c p x.tok
  | _ => pure ()
/-- MPORT. -/
def opMport (_m : BitVec 11) (c p : Nat) : M Unit := do
  let x ← need c p 0
  let t := x.tok
  if t.isPoison then stop (faultAt 0x23 0 x)
  else if t.isCtl then parkCtl c p 0 x (mportEffect c p)
  else if t.kind != .val || t.width != 1 then stop (faultAt 0x3B 0 x)
  else do
    parkEff c p t.set (.mport (word t.num) x)
    consume c p 0

/-! ### GREQ (R305) -/

/-- Formats that GREQ refuses. -/
def greqFmt (f : Nat) : Bool := 3 ≤ f && f ≤ 6
/-- GREQ: an index joins the open batch; a control token passes once every earlier value has left. -/
def opGreq (_m : BitVec 11) (c p : Nat) : M Unit := do
  let e := (← get).elem c p
  let x ← need c p 0
  if e.cmt && x.tok.isPoison then stop (faultAt 0x23 0 x)
  else if x.tok.isCtl then
    if e.batch.isEmpty then passCtl c p [0] x.tok else stall
  else if 64 ≤ e.batch.length then stall
  else do
    (if x.tok.isPoison then pure ()
     else if !indexOk x.tok then stop (faultAt 0x3B 0 x)
     else if indexOf x.tok == absent then pure ()
     else atHead 0 x do
       let ent ← entryOf c p false
       let idx := e.indexed (indexOf x.tok)
       (if hSpace ent != 1 then stop (hFault 0x39 e.hnd 0)
        else if hEFV ent && greqFmt (hEFMT ent) then stop (hFault 0x3A e.hnd 0)
        else (upTo (lfLanes e.lf)).forM fun j => placeCheck c p ent e.ty (idx + (j : Nat)) false))
    consume c p 0
    modify fun s => s.modElem c p fun e => { e with batch := e.batch ++ [x.tok] }
/-- One index of a batch: the token that it gives. -/
def gatherOne (c p : Nat) (t : Token) : M Token := do
  let e := (← get).elem c p
  let n := lfLanes e.lf
  let hs := [(0, t)]
  if t.isPoison then
    let h := e.headerOf hs 0
    pure (poisonTok e.ow (t.num % 2 ^ 16) h.1 h.2)
  else if indexOf t == absent then pure (e.valTok (List.replicate n 0) (e.headerOf hs 0))
  else
    let ent ← entryOf c p false
    let idx := e.indexed (indexOf t)
    let pg := (← get).elemFmt c ent e.ty idx.toNat
    if greqFmt pg.1 then stop (asyncErr 0x40 e.hnd pg.1 pg.2 (elemByte pg.1 pg.2 e.ty idx.toNat).1 none)
    else
      let r ← loadLanes c p ent idx n
      let h := e.headerOf hs (r.1.headD 0)
      noteCheck c r.2.2
      match r.2.2 with
      | some k => pure (poisonTok e.ow k.1 h.1 h.2)
      | none => do
        modify fun s => s.record c p r.2.1
        pure (e.valTok r.1 h)
/-- A batch passes to the gather units, and its values return in index order. -/
def gatherBatch (c p : Nat) : M Unit := do
  let e := (← get).elem c p
  if e.op != 0xA6 || e.batch.isEmpty || !e.outQ.isEmpty then stall
  else do
    let ts ← e.batch.mapM fun t => gatherOne c p t
    modify fun s => s.modElem c p fun e =>
      { e with batch := [], outQ := ts.map fun (t : Token) => ((some t, none) : Option Token × Option Token) }

end Sys2Proof.Machine
end

