-- ==== Sys2Proof/Machine/Fire.lean ====
section
/-!
DEFINITION. The step of an element (R28, R129, R133): what waits to leave leaves first, then the oldest parked effect is
performed once it is decided, then the element fires. After it the meanings of every element row, of the command ports'
rows, and of the page's own rows: GATHER_BATCH, SWAP, APORT_SWAP, TRIGGER_EVENT, DRY_POLL (15 R390 to R394).
-/
namespace Sys2Proof.Machine

/-! ### One step of an element -/

/-- May a firing in progress go on: even when the drain budget has run out (R383, R403)? -/
def State.firingLive (s : State) (c : Nat) : Bool :=
  match (s.core c).own with
  | none => false
  | some o => (s.launch o.launch).failed.isNone && (s.launch o.launch).phase != .saved

/-- A parked effect is performed. -/
def effectAt (c p : Nat) (x : Parked) : M Unit := do
  let e := (← get).elem c p
  if x.quenched && !(e.op == 0xA2 && (match x.eff with | .store .. => true | _ => false)) then pure ()
  else if e.op == 0x43 then accEffect c p x.eff
  else if e.op == 0x86 then reduceEffect c p x.eff
  else if e.op == 0x8C then fwriteEffect c p x.eff
  else if e.op == 0x56 || e.op == 0x57 then chanEffect c p x.eff
  else if e.op == 0xA2 || e.op == 0xA3 then storeEffect c p x.quenched x.eff
  else if e.op == 0xA4 then atomEffect c p x.eff
  else if e.op == 0xA5 then xreqEffect c p x.eff
  else if e.op == 0xB5 then mportEffect c p x.eff
  else
    match x.eff with
    | .emit a b => emitNow c p a b
    | _ => pure ()
/-- The oldest effect of the settle buffer is performed, or discarded when its set is QUENCHED, once it is decided (R167). -/
def perform (c p : Nat) : M Unit := do
  match ((← get).elem c p).settle with
  | [] => stall
  | x :: _ =>
    if !x.decided then stall
    else do
      effectAt c p x
      modify fun s => s.modElem c p fun e => { e with settle := e.settle.drop 1 }

/-- The next of an element's waiting outputs leaves, when its consumers have room. -/
def flushOut (c p : Nat) : M Unit := do
  let s ← get
  let e := s.elem c p
  match e.outQ with
  | [] => stall
  | (x, y) :: r => do
    (if e.op == 0xA6 && e.cmt then sendOut c p ((x.map (·.set)).getD 0) x y
     else do
      (match x with | some t => emitOn c p 0 t | none => pure ())
      (match y with | some t => emitOn c p 1 t | none => pure ()))
    modify fun s => s.modElem c p fun e => { e with outQ := r }

/-- One step of an element whose firing is `body`. -/
def fireElem (c p : Nat) (body : M Unit) : M Unit := do
  let s ← get
  let e := s.elem c p
  if !s.pageLive c || e.xwait.isSome then stall
  -- values that GREQ has gathered enter its settle buffer, which must go on emptying (R167, R305)
  else if !e.outQ.isEmpty then (if e.op == 0xA6 then orElse (flushOut c p) (perform c p) else flushOut c p)
  else orElse (stefDone c p) (orElse (perform c p) body)
def State.elemStep (s : State) (c p : Nat) (body : M Unit) : State := s.runElem c p (fireElem c p body)
/-- The step of the element whose move it is. -/
def State.elemHere (s : State) (body : Nat → Nat → M Unit) : State :=
  let h := s.hereElem
  s.elemStep h.1 h.2 (body h.1 h.2)

/-- What the element named by a row does at a position (field 0 of its active bank). -/
def elemBody (i : Instr) (c p : Nat) : M Unit :=
  match i with
  | .iadd m => opIadd m c p
  | .isub m => opIsub m c p
  | .imul m => opImul m c p
  | .imad m => opImad m c p
  | .imin m => opImin m c p
  | .imax m => opImax m c p
  | .iabs m => opIabs m c p
  | .andElement m => opAndElement m c p
  | .orElement m => opOrElement m c p
  | .xorElement m => opXorElement m c p
  | .not m => opNot m c p
  | .shlElement m => opShlElement m c p
  | .shrElement m => opShrElement m c p
  | .sarElement m => opSarElement m c p
  | .icmp m => opIcmp m c p
  | .faddElement m => opFaddElement m c p
  | .fsubElement m => opFsubElement m c p
  | .fmulElement m => opFmulElement m c p
  | .ffmaElement m => opFfmaElement m c p
  | .fminElement m => opFminElement m c p
  | .fmaxElement m => opFmaxElement m c p
  | .fabs m => opFabs m c p
  | .fneg m => opFneg m c p
  | .fcmpElement m => opFcmpElement m c p
  | .cmpf m => opCmpf m c p
  | .fclassElement m => opFclassElement m c p
  | .fcpys m => opFcpys m c p
  | .fexp m => opFexp m c p
  | .fldx m => opFldx m c p
  | .selElement m => opSelElement m c p
  | .cvtElement m => opCvtElement m c p
  | .pack m => opPack m c p
  | .unpack m => opUnpack m c p
  | .shuf m => opShuf m c p
  | .bcast m => opBcast m c p
  | .lred m => opLred m c p
  | .lscan m => opLscan m c p
  | .lext m => opLext m c p
  | .lins m => opLins m c p
  | .rot m => opRot m c p
  | .lmask m => opLmask m c p
  | .cnt m => opCnt m c p
  | .aff m => opAff m c p
  | .delay m => opDelay m c p
  | .acc m => opAcc m c p
  | .const m => opConst m c p
  | .fork m => opFork m c p
  | .join m => opJoin m c p
  | .steer m => opSteer m c p
  | .filter m => opFilter m c p
  | .gate m => opGate m c p
  | .osnew m => opOsnew m c p
  | .osquench m => opOsquench m c p
  | .oscommit m => opOscommit m c p
  | .scanu m => opScanu m c p
  | .scanc m => opScanc m c p
  | .scanb m => opScanb m c p
  | .isect m => opIsect m c p
  | .union m => opUnion m c p
  | .repeatEl m => opRepeatEl m c p
  | .reduce m => opReduce m c p
  | .locate m => opLocate m c p
  | .crddrop m => opCrddrop m c p
  | .poppfx m => opPoppfx m c p
  | .band m => opBand m c p
  | .bor m => opBor m c p
  | .fwrite m => opFwrite m c p
  | .lda m => opLda m c p
  | .ldi m => opLdi m c p
  | .sta m => opSta m c p
  | .sti m => opSti m c p
  | .atom m => opAtom m c p
  | .xreq m => opXreq m c p
  | .greq m => opGreq m c p
  | .broute m => opBroute m c p
  | .mport m => opMport m c p
  | _ => stall

/-- The firing that an element's active bank names. -/
def ownBody (c p : Nat) : M Unit := do
  match decodeElem (BitVec.ofNat 19 (((← get).elem c p).fld 0)) with
  | some i => elemBody i c p
  | none => stall
/-- Can an element do anything (R393, R403)? -/
def State.canFire (s : State) (c p : Nat) : Bool :=
  match fireElem c p (ownBody c p) s with
  | .error (.wait _) => false
  | _ => true

/-! ### Rows of elements -/

def execIadd (m : EMod) (s : State) : Out := .next (s.elemHere (opIadd m))
def execIsub (m : EMod) (s : State) : Out := .next (s.elemHere (opIsub m))
def execImul (m : EMod) (s : State) : Out := .next (s.elemHere (opImul m))
def execImad (m : EMod) (s : State) : Out := .next (s.elemHere (opImad m))
def execImin (m : EMod) (s : State) : Out := .next (s.elemHere (opImin m))
def execImax (m : EMod) (s : State) : Out := .next (s.elemHere (opImax m))
def execIabs (m : EMod) (s : State) : Out := .next (s.elemHere (opIabs m))
def execAndElement (m : EMod) (s : State) : Out := .next (s.elemHere (opAndElement m))
def execOrElement (m : EMod) (s : State) : Out := .next (s.elemHere (opOrElement m))
def execXorElement (m : EMod) (s : State) : Out := .next (s.elemHere (opXorElement m))
def execNot (m : EMod) (s : State) : Out := .next (s.elemHere (opNot m))
def execShlElement (m : EMod) (s : State) : Out := .next (s.elemHere (opShlElement m))
def execShrElement (m : EMod) (s : State) : Out := .next (s.elemHere (opShrElement m))
def execSarElement (m : EMod) (s : State) : Out := .next (s.elemHere (opSarElement m))
def execIcmp (m : EMod) (s : State) : Out := .next (s.elemHere (opIcmp m))
def execFaddElement (m : EMod) (s : State) : Out := .next (s.elemHere (opFaddElement m))
def execFsubElement (m : EMod) (s : State) : Out := .next (s.elemHere (opFsubElement m))
def execFmulElement (m : EMod) (s : State) : Out := .next (s.elemHere (opFmulElement m))
def execFfmaElement (m : EMod) (s : State) : Out := .next (s.elemHere (opFfmaElement m))
def execFminElement (m : EMod) (s : State) : Out := .next (s.elemHere (opFminElement m))
def execFmaxElement (m : EMod) (s : State) : Out := .next (s.elemHere (opFmaxElement m))
def execFabs (m : EMod) (s : State) : Out := .next (s.elemHere (opFabs m))
def execFneg (m : EMod) (s : State) : Out := .next (s.elemHere (opFneg m))
def execFcmpElement (m : EMod) (s : State) : Out := .next (s.elemHere (opFcmpElement m))
def execCmpf (m : EMod) (s : State) : Out := .next (s.elemHere (opCmpf m))
def execFclassElement (m : EMod) (s : State) : Out := .next (s.elemHere (opFclassElement m))
def execFcpys (m : EMod) (s : State) : Out := .next (s.elemHere (opFcpys m))
def execFexp (m : EMod) (s : State) : Out := .next (s.elemHere (opFexp m))
def execFldx (m : EMod) (s : State) : Out := .next (s.elemHere (opFldx m))
def execSelElement (m : EMod) (s : State) : Out := .next (s.elemHere (opSelElement m))
def execCvtElement (m : EMod) (s : State) : Out := .next (s.elemHere (opCvtElement m))
def execPack (m : EMod) (s : State) : Out := .next (s.elemHere (opPack m))
def execUnpack (m : EMod) (s : State) : Out := .next (s.elemHere (opUnpack m))
def execShuf (m : EMod) (s : State) : Out := .next (s.elemHere (opShuf m))
def execBcast (m : EMod) (s : State) : Out := .next (s.elemHere (opBcast m))
def execLred (m : EMod) (s : State) : Out := .next (s.elemHere (opLred m))
def execLscan (m : EMod) (s : State) : Out := .next (s.elemHere (opLscan m))
def execLext (m : EMod) (s : State) : Out := .next (s.elemHere (opLext m))
def execLins (m : EMod) (s : State) : Out := .next (s.elemHere (opLins m))
def execRot (m : EMod) (s : State) : Out := .next (s.elemHere (opRot m))
def execLmask (m : EMod) (s : State) : Out := .next (s.elemHere (opLmask m))
def execCnt (m : EMod) (s : State) : Out := .next (s.elemHere (opCnt m))
def execAff (m : EMod) (s : State) : Out := .next (s.elemHere (opAff m))
def execDelay (m : EMod) (s : State) : Out := .next (s.elemHere (opDelay m))
def execAcc (m : EMod) (s : State) : Out := .next (s.elemHere (opAcc m))
def execConst (m : EMod) (s : State) : Out := .next (s.elemHere (opConst m))
def execFork (m : EMod) (s : State) : Out := .next (s.elemHere (opFork m))
def execJoin (m : EMod) (s : State) : Out := .next (s.elemHere (opJoin m))
def execSteer (m : EMod) (s : State) : Out := .next (s.elemHere (opSteer m))
def execFilter (m : EMod) (s : State) : Out := .next (s.elemHere (opFilter m))
def execGate (m : EMod) (s : State) : Out := .next (s.elemHere (opGate m))
def execOsnew (m : EMod) (s : State) : Out := .next (s.elemHere (opOsnew m))
def execOsquench (m : EMod) (s : State) : Out := .next (s.elemHere (opOsquench m))
def execOscommit (m : EMod) (s : State) : Out := .next (s.elemHere (opOscommit m))
def execScanu (m : BitVec 11) (s : State) : Out := .next (s.elemHere (opScanu m))
def execScanc (m : BitVec 11) (s : State) : Out := .next (s.elemHere (opScanc m))
def execScanb (m : BitVec 11) (s : State) : Out := .next (s.elemHere (opScanb m))
def execIsect (m : BitVec 11) (s : State) : Out := .next (s.elemHere (opIsect m))
def execUnion (m : BitVec 11) (s : State) : Out := .next (s.elemHere (opUnion m))
def execRepeatEl (m : BitVec 11) (s : State) : Out := .next (s.elemHere (opRepeatEl m))
def execReduce (m : BitVec 11) (s : State) : Out := .next (s.elemHere (opReduce m))
def execLocate (m : BitVec 11) (s : State) : Out := .next (s.elemHere (opLocate m))
def execCrddrop (m : BitVec 11) (s : State) : Out := .next (s.elemHere (opCrddrop m))
def execPoppfx (m : BitVec 11) (s : State) : Out := .next (s.elemHere (opPoppfx m))
def execBand (m : BitVec 11) (s : State) : Out := .next (s.elemHere (opBand m))
def execBor (m : BitVec 11) (s : State) : Out := .next (s.elemHere (opBor m))
def execFwrite (m : BitVec 11) (s : State) : Out := .next (s.elemHere (opFwrite m))
def execLda (m : BitVec 11) (s : State) : Out := .next (s.elemHere (opLda m))
def execLdi (m : BitVec 11) (s : State) : Out := .next (s.elemHere (opLdi m))
def execSta (m : BitVec 11) (s : State) : Out := .next (s.elemHere (opSta m))
def execSti (m : BitVec 11) (s : State) : Out := .next (s.elemHere (opSti m))
def execAtom (m : BitVec 11) (s : State) : Out := .next (s.elemHere (opAtom m))
def execXreq (m : BitVec 11) (s : State) : Out := .next (s.elemHere (opXreq m))
def execGreq (m : BitVec 11) (s : State) : Out := .next (s.elemHere (opGreq m))
def execBroute (m : BitVec 11) (s : State) : Out := .next (s.elemHere (opBroute m))
def execMport (m : BitVec 11) (s : State) : Out := .next (s.elemHere (opMport m))

/-! ### Rows of the command ports (R184, R185, R389) -/

def execDportQuench (s : State) : Out := .next (s.elemHere (dportAsk .quench))
def execDportSeal (s : State) : Out := .next (s.elemHere (dportAsk .commit))
def execDportQuery (s : State) : Out := .next (s.elemHere (dportAsk .query))
def execDportSettle (s : State) : Out := .next (s.elemHere dportSettle)
def execDportOldest (s : State) : Out := .next (s.elemHere dportOldest)
def execDportUnassigned (s : State) : Out := .next (s.elemHere (fun c p => badCommand c p 0x28))
def execDportNotice (s : State) : Out := .next (s.elemHere dportNotice)
def execHeadFlags (s : State) : Out := .next (s.elemHere headFlags)
def execHeadClear (s : State) : Out := .next (s.elemHere headClear)
def execHeadArmed (s : State) : Out := .next (s.elemHere headArmed)
def execHeadEnd (s : State) : Out := .next (s.elemHere headEnd)
def execHeadCount (s : State) : Out := .next (s.elemHere headCount)
def execHeadUnassigned (s : State) : Out := .next (s.elemHere (fun c p => badCommand c p 0x2E))

/-! ### GATHER_BATCH, SWAP and APORT_SWAP -/

/-- GATHER_BATCH (R305). -/
def execGatherBatch (core pos : Nat) (s : State) : Out :=
  if s.pageLive core && (s.elem core pos).xwait.isNone then .next (s.runElem core pos (gatherBatch core pos)) else .next s

/-- Has an armed element exchanged its banks between two states? -/
def swapped (c p : Nat) (s t : State) : Bool :=
  let e := s.elem c p
  let e' := t.elem c p
  e.armed && (!e'.armed || (e'.b0 == e.b1 && e'.b1 == e.b0))
/-- SWAP (R390): the firing in which an armed element consumes eos, or a source emits it, with the exchange of its banks. -/
def execSwap (core pos : Nat) (s : State) : Out :=
  let t := s.elemStep core pos (ownBody core pos)
  .next (if swapped core pos s t then t else s)

/-- The slots that the actor port binds. -/
def Elem.boundSlots (e : Elem) : List Nat :=
  (upTo 16).filter fun n => !(e.inChans n).isEmpty || !(e.outChans n).isEmpty
/-- May the actor port swap: every bound slot is finished and its eos has been sent? -/
def State.portSwaps (s : State) (c : Nat) : Bool :=
  let e := s.elem c 60
  s.pageLive c && e.armed && e.boundSlots.all fun n =>
    let x := (s.core c).slot n
    (x.status == .finished && x.eosDue.isEmpty) || x.status == .absent
/-- APORT_SWAP (R390): a finished slot becomes idle. -/
def execAportSwap (core : Nat) (s : State) : Out :=
  if !s.portSwaps core then .next s
  else
    let s := s.swapAt core 60
    .next (s.modCore core fun k =>
      { k with slots := k.slots.map fun (x : Nat × Slot) => if x.2.status == .finished then (x.1, { x.2 with status := .idle }) else x })

/-! ### TRIGGER_EVENT and DRY_POLL (R392, R393) -/

/-- TRIG of HEAD, field 13. -/
def Elem.triggers (e : Elem) : Nat := bits (e.fld 13) 0 19
/-- TRIGGER_EVENT (R392): an event that an element has sent reaches HEAD. -/
def execTriggerEvent (core pos : Nat) (s : State) : Out :=
  if pos == 63 || (s.elem core pos).trigOut == 0 then .next s
  else
    let s := s.modElem core pos fun e => { e with trigOut := e.trigOut - 1 }
    let s := s.modElem core 63 fun h => { h with events := h.events + 1 }
    let h := s.elem core 63
    .next (if h.triggers != 0 && h.triggers ≤ h.events then s.pageEnd core else s)

/-- The row of a command port's next command (R184, R185, R389). -/
def State.pickCommand (s : State) (c p : Nat) : Option Instr :=
  let can (m : M Unit) : Bool := match fireElem c p m s with | .error (.wait _) => false | _ => true
  if p == 62 && can (dportNotice c p) then some .dportNotice
  else
    match if (s.elem c p).last then none else s.headAt c p 0 with
    | none => none
    | some x =>
      if x.tok.isCtl then none
      else
        let code := if x.tok.isPoison then 0 else bits x.tok.num 60 4
        if p == 62 then
          match code with
          | 1 => some .dportQuench
          | 2 => some .dportSeal
          | 3 => some .dportQuery
          | 4 => some .dportSettle
          | 5 => some .dportOldest
          | _ => some .dportUnassigned
        else
          match code with
          | 1 => some .headFlags
          | 2 => some .headClear
          | 3 => some .headArmed
          | 4 => some .headEnd
          | 5 => some .headCount
          | _ => some .headUnassigned
/-- Can an element, command ports included, fire? -/
def State.firesNext (s : State) (c p : Nat) : Bool :=
  if p == 60 then false
  else if p == 62 || p == 63 then
    (match fireElem c p (portWork c p) s with | .error (.wait _) => false | _ => true) || (s.pickCommand c p).isSome
  else s.canFire c p

/-- The queue pair's words at their home: PUT and TAKE. -/
def queuePair (c : Nat) : M (Nat × Nat) := do
  let h := (← get).elem c 63
  let hnd := bits (h.fld 15) 0 12
  let o := h.wide 16
  let e ← handle .elem c hnd o
  if hSpace e != 1 then stop (hFault 0x39 hnd o)
  else do
    let l ← locate .elem c hnd e o 16 false
    (if (hBase e + o) % 8 != 0 then stop (hFault 0x38 hnd o) else pure ())
    about hnd o do
      let pg ← pageFmt c l false
      let a ← homeRead c l 8 false
      let b ← homeRead c (placePlus l 8) 8 false
      match a.2.or b.2 with
      | some mc => stop (asyncErr 0x41 hnd pg.1 pg.2 o (some mc))
      | none => pure (a.1, b.1)
/-- DRY_POLL (R393). -/
def execDryPoll (core : Nat) (s : State) : Out :=
  let h := s.elem core 63
  if !s.pageLive core || h.op != 0xB7 || !bitAt h.mode 4 || h.xwait.isSome then .next s
  else .next (s.runElem core 63 do
    let q ← queuePair core
    let s ← get
    let busy := (s.core core).elems.any fun e => !e.2.isSource && s.firesNext core e.1
    if q.1 ≤ q.2 && !busy then modify fun s => s.pageEnd core else pure ())

end Sys2Proof.Machine
end

