-- ==== Sys2Proof/Machine/Routing.lean ====
section
/-!
DEFINITION. Routing (13): descriptors and expert tables (R335 to R337), the Belfry's queue and checks (R338, R339), RCAP with its
exchange and merge (R340 to R344), RDISP (R345, R346), RCOMB (R347), RREC (R348). An instruction's firing is parked while the Belfry
performs it.
-/
namespace Sys2Proof.Machine

/-! ### The descriptor (R335, R336) -/

def rE (d : List Word) : Nat := fld (d.getD 0 0) 0 12 + 1
def rK (d : List Word) : Nat := fld (d.getD 0 0) 12 3 + 1
def rDrop (d : List Word) : Bool := fld (d.getD 0 0) 16 1 == 1
def rPrune (d : List Word) : Bool := fld (d.getD 0 0) 17 1 == 1
def rResid (d : List Word) : Bool := fld (d.getD 0 0) 18 1 == 1
def rWide (d : List Word) : Bool := fld (d.getD 0 0) 19 1 == 1
def rSetv (d : List Word) : Bool := fld (d.getD 0 0) 20 1 == 1
def rOsz (d : List Word) : Nat := if fld (d.getD 0 0) 21 2 == 0 then 4 else 2
def rYsz (d : List Word) : Nat := if fld (d.getD 0 0) 23 2 == 0 then 4 else 2
def rCap (d : List Word) : Nat := fld (d.getD 0 0) 32 16
def rTot (d : List Word) : Nat := fld (d.getD 1 0) 0 18
def rKnob (d : List Word) : Nat := fld (d.getD 1 0) 32 32
def rXrow (d : List Word) : Nat := fld (d.getD 2 0) 0 21
def rH (d : List Word) : Nat := fld (d.getD 2 0) 32 21
def rM0 (d : List Word) : Nat := fld (d.getD 14 0) 0 40
def rDecl (d : List Word) : Nat := fld (d.getD 14 0) 40 8
def rNb (d : List Word) : Nat := fld (d.getD 14 0) 48 16
/-- Bytes of a region of the exchange area (R341). -/
def rXb (d : List Word) (dies : Nat) : Nat := 64 * cdiv (4 * rE d + 8 * rK d * cdiv (rTot d) dies) 64

/-- Reserved bits and values, limits, and DECL below the declaration count (R335, R339). -/
def rDescOk (d : List Word) (ndecl : Nat) : Bool :=
  let w0 := d.getD 0 0
  let w2 := d.getD 2 0
  fld w0 15 1 == 0 && fld w0 25 7 == 0 && fld w0 48 16 == 0 && fld w0 21 2 ≤ 1 && fld w0 23 2 ≤ 1
    && fld (d.getD 1 0) 18 14 == 0 && fld w2 21 11 == 0 && fld w2 53 11 == 0 && fld (d.getD 15 0) 32 31 == 0
    && 1 ≤ rCap d && 1 ≤ rTot d && rXrow d % 8 == 0 && 8 ≤ rXrow d && rXrow d ≤ 2 ^ 20 && 1 ≤ rH d && rH d ≤ 2 ^ 20
    && 1 ≤ rNb d && (!rDrop d || rSetv d) && rDecl d < ndecl
    && (rPrune d || d.getD 11 0 == 0) && (rResid d || d.getD 12 0 == 0)

/-- Sizes of the arrays CHO to Y, in order (R335). -/
def rSizes (d : List Word) (dies : Nat) : List Nat :=
  let n := rTot d
  [8 * n * rK d, n * rXrow d, 32 * rE d, 8 * n * rK d, 8 * rE d * rCap d, 8 * rE d, 8 * rXb d dies, 8, n * rNb d,
   n * rH d * rOsz d, n * rH d * rYsz d]

/-- The descriptor of an instruction: cached, or read with word 15 before and after (R336). A descriptor that is BUSY is read
again. -/
def rDescriptor (c x va : Nat) : M (List Word) := do
  let s ← get
  let die := dieOf c
  match s.belfryCache.find? fun b => b.1 == die && b.2.1 == x && b.2.2.1 == word va with
  | some b => pure b.2.2.2
  | none =>
    let r ← memRead c x va 128 3
    let ws := wordsOf 16 r.1
    if fld (ws.getD 15 0) 63 1 == 1 then stop (.wait { kind := .busy, flag := true, on := va })
    else
      let s ← get
      let mine := s.belfryCache.filter fun b => b.1 == die
      let kept := if mine.length < 16 then s.belfryCache else lremove (fun b => b.1 == die) s.belfryCache
      setState { s with belfryCache := kept ++ [(die, x, word va, ws)] }
      pure ws

/-! ### The Belfry's queue (R338, R339) -/

def State.belfryQ (s : State) (die : Nat) : List BelfryOp := mgetD s.belfry die []
def State.modBelfry (s : State) (die id : Nat) (f : BelfryOp → BelfryOp) : State :=
  { s with belfry := mset s.belfry die ((s.belfryQ die).map fun o => if o.id == id then f o else o) }
def State.dropBelfry (s : State) (die id : Nat) : State :=
  { s with belfry := mset s.belfry die ((s.belfryQ die).filter (·.id != id)) }
/-- May an issued instruction be accepted: is it the first that waits, and are fewer than 16 in the queue (R339)? -/
def State.belfryRoom (s : State) (die id : Nat) : Bool :=
  ((s.belfryQ die).filter (!·.waiting)).length < 16 && ((s.belfryQ die).find? (·.waiting)).map (·.id) == some id

/-- Share bounds b(d) and b(d + 1) (R332). -/
def shareLo (tot dies d : Nat) : Nat := tot * d / dies

/-- Check an instruction at acceptance (R339): what is known of it then. -/
def belfryAccept (kind : Nat) (f : XForm) (c n id : Nat) : M BelfryOp := do
  let s ← get
  let x := s.ctxOf c
  let o := s.own c
  let l := s.launch o.launch
  let dies := l.dies.length
  let r := s.reg c n f.sa
  let h := fld r 52 12
  let ofs := fld r 0 52
  let place (h ofs len : Nat) (small : Stop) : M Nat := do
    let e ← handle .actor c h ofs
    if hSpace e != 1 then stop (Who.actor.handle h ofs)
    else if hSize e < ofs + len then stop small
    else pure (hBase e + ofs)
  let dva ← place h ofs 128 (Who.actor.bounds h ofs)
  let bad : Stop := .trap 0x26 (word h) (word ofs)
  if dva % 128 != 0 then stop bad
  else
    let d ← rDescriptor c x dva
    if !rDescOk d l.img.ndecl then stop bad
    else
      let sizes := rSizes d dies
      let arr ← (upTo 11).mapM fun i => do
        let r := d.getD (3 + i) 0
        if (i == 8 && !rPrune d) || (i == 9 && !rResid d) then pure 0
        else place (fld r 52 12) (fld r 0 52) (sizes.getD i 0) (if i == 6 then bad else Who.actor.bounds (fld r 52 12) (fld r 0 52))
      let b := s.rd f.sb
      let cc := s.rd f.sc
      let lo := shareLo (rTot d) dies o.share
      let hi := shareLo (rTot d) dies (o.share + 1)
      let range : Bool := match kind with
        | 0 => 1 ≤ b && b < 2 ^ 32
        | 3 => match ctlF f.ctl 0 2 with
          | 0 => b < rTot d && cc < rK d
          | 1 => b < rE d && cc < rCap d
          | _ => b < rE d
        | _ => 1 ≤ cc && lo ≤ b && b + cc ≤ hi
      if !range then trap 0x27
      else pure { id := id, kind := kind, core := c, slot := n, launch := o.launch, share := o.share, dva := dva, desc := d, arr := arr
                  epoch := if kind == 3 then ctlF f.ctl 0 2 else b, next := b, last := if kind == 3 then cc else b + cc }

/-- Address of an array, and its side reference. -/
def BelfryOp.va (o : BelfryOp) (i : Nat) : Nat := o.arr.getD i 0
def BelfryOp.ref (o : BelfryOp) (i : Nat) : Word := o.desc.getD (3 + i) 0
/-- Byte offsets of entries in CHO and REC, and in INV. -/
def BelfryOp.at_ (o : BelfryOp) (g c : Nat) : Nat := 8 * (g * rK o.desc + c)
def BelfryOp.inv (o : BelfryOp) (e s : Nat) : Nat := 8 * (e * rCap o.desc + s)
/-- An access to byte `k` of array `i`: a translation fault of it names the array's handle (R220). -/
def BelfryOp.touch {α : Type} (o : BelfryOp) (i k : Nat) (m : Nat → M α) : M α :=
  about (fld (o.ref i) 52 12) (fld (o.ref i) 0 52 + k) (m (o.va i + k))
/-- Read bytes of an array as the issuing agent, at their homes: bytes, and the machine check of poison met (R448). -/
def BelfryOp.read (o : BelfryOp) (x i k n : Nat) : M (List Byte × Option (Nat × Option Nat)) :=
  o.touch i k fun va => memRead o.core x va n 3
/-- Read a word of an array. -/
def BelfryOp.get8 (o : BelfryOp) (x i k : Nat) : M (Word × Option (Nat × Option Nat)) := do
  let r ← o.read x i k 8
  pure (word (leVal r.1), r.2)
/-- Write bytes of an array as the issuing agent, at their homes (R350). -/
def BelfryOp.write (o : BelfryOp) (x i k : Nat) (bs : List Byte) : M Unit := o.touch i k fun va => memWrite o.core x va 3 false bs
def BelfryOp.put (o : BelfryOp) (x i k : Nat) (v : Word) : M Unit := o.write x i k (leBytes 8 v.toNat)
/-- Has a step of the instruction begun that is finished before a stop (R351)? -/
def BelfryOp.midway (o : BelfryOp) : Bool := o.asked || !o.asks.isEmpty

/-- An asynchronous error that a Belfry records without stopping anything (R349): the byte offset holds the first (g, c) as
g × k + c, the token, or the expert. -/
def State.belfryErr (s : State) (o : BelfryOp) (code at_ : Nat) : State :=
  s.coreRecord o.core code 3 0 o.slot 2 0 (word at_) 0 0
/-- The park kind of an instruction's wait. -/
def belfryPark (kind : Nat) : ParkKind := if kind == 0 then .rcap else if kind == 1 then .rdisp else if kind == 2 then .rcomb else .rrec

/-- Where what an operation needs must wait, the firing parks and what has been done before the operation stands. -/
def orHold (c n : Nat) (m : M Unit) : M Unit := fun s =>
  match m s with
  | .error (.xfault x va cause write at_) =>
    let r := s.xreport (dieOf c) engineCore x va cause write
    .ok ((), State.runActor.hold r.1 c n { kind := .translation, on := r.2, at_ := at_ })
  | .error (.wait p) => .ok ((), State.runActor.hold s c n p)
  | r => r
/-- An issued instruction enters the queue, if there is room, or waits behind it. -/
def belfryEnter (kind : Nat) (f : XForm) (c n id : Nat) : M Unit := do
  let s ← get
  let die := dieOf c
  if s.belfryRoom die id then
    orHold c n do
      let o ← belfryAccept kind f c n id
      modify fun s => s.modBelfry die id fun _ => o
      parkNow c n { kind := belfryPark kind, on := id }
  else parkNow c n { kind := .belfryQueue, on := id }
/-- An instruction of a Belfry (R338, R339, R361): it takes its place, is accepted once, and its firing is parked until the Belfry has
performed it. -/
def opBelfry (kind : Nat) (f : XForm) (c n : Nat) : M Unit := do
  let s ← get
  let die := dieOf c
  match s.given c n (belfryPark kind) with
  | some p =>
    if !p.done then parkNow c n p
    else if kind == 0 || kind == 3 then finish c n f.dst p.val 0
    else finishNone c n 0
  | none =>
    match (s.belfryQ die).find? fun o => o.core == c && o.slot == n with
    | some o => belfryEnter kind f c n o.id
    | none => do
      let o : BelfryOp := { id := s.nextId, waiting := true, kind := kind, core := c, slot := n, launch := (s.own c).launch }
      setState { s with nextId := s.nextId + 1, belfry := mset s.belfry die (s.belfryQ die ++ [o]) }
      belfryEnter kind f c n o.id

/-- An instruction has been performed: it leaves the queue and its firing goes on with a result. -/
def State.belfryTell (s : State) (o : BelfryOp) (v : Word) : State :=
  (s.dropBelfry (dieOf o.core) o.id).modSlot o.core o.slot fun x =>
    { x with park := some { kind := belfryPark o.kind, done := true, val := v, on := o.id } }

/-! ### RCAP (R340 to R344) -/

/-- The key orders candidates by weight, descending, a NaN last, then by global index (R341). -/
def keyBefore (a b : Cand) : Bool :=
  let x := fp32.decode a.w
  let y := fp32.decode b.w
  if x.isNan && y.isNan then a.g < b.g
  else if x.isNan then false
  else if y.isNan then true
  else if y.lt x then true
  else if x.lt y then false
  else a.g < b.g
/-- Insert in key order. -/
def keyInsert (a : Cand) : List Cand → List Cand
  | [] => [a]
  | b :: r => if keyBefore a b then a :: b :: r else b :: keyInsert a r
def keySort : List Cand → List Cand
  | [] => []
  | a :: r => keyInsert a (keySort r)

/-- The estimate of a token (R340), and the machine check of a poisoned byte. -/
def rEst (o : BelfryOp) (x g : Nat) : M (Num × Option (Nat × Option Nat)) := do
  let nb := rNb o.desc
  let r ← o.read x 8 (g * nb) nb
  let mx := r.1.foldl (fun m b => max m b.toNat) 0
  pure (if r.2.isSome || mx == 255 then .nan else .fin false 1 ((mx : Int) - 127), r.2)

/-- The choices of the share's tokens as RCAP classes them, and the tokens whose scales were poisoned. -/
def rcapRead (o : BelfryOp) (x lo hi : Nat) : M (List Choice × List (Nat × Nat × Option Nat)) :=
  (upTo (hi - lo)).foldlM (fun acc i => do
    let g := lo + i
    let est ← if rPrune o.desc then rEst o x g else pure (.nan, none)
    let cs ← (upTo (rK o.desc)).foldlM (fun (cs : List Choice) c => do
      let v ← o.get8 x 0 (o.at_ g c)
      let w := fld v.1 0 32
      let e := fld v.1 32 32
      let inval := v.2.isSome || rE o.desc ≤ e || cs.any fun q => !q.inval && q.e == e
      let pr := !inval && rPrune o.desc && (((fp32.decode w).mul est.1).1).lt (fp32.decode (rKnob o.desc))
      pure (cs ++ [Choice.mk g c w e inval pr])) []
    pure (acc.1 ++ cs, match est.2 with
      | some mc => acc.2 ++ [(g, mc)]
      | none => acc.2)) ([], [])

/-- Put a share's runs in its region. -/
def State.publish (s : State) (r : RunSet) : State :=
  { s with exchange := (s.exchange.filter fun e =>
      !(e.ctx == r.ctx && e.at_ == r.at_ && e.parity == r.parity && e.share == r.share)) ++ [r] }
/-- A checked access of an RCAP to XCTR at `.pkg` (R253, R350). -/
def xctrCheck (o : BelfryOp) (x : Nat) (write : Bool) : M Unit := do
  let r := o.ref 7
  let t ← o.touch 7 0 fun va => xlate o.core x va write
  let s ← get
  match s.scopeCheck t.2.2 (s.scopeOf o.core 4) with
  | .error old => stop (.trap 0x18 (scopeWord (fld r 52 12) old.lvl 4) (word (fld r 0 52)))
  | .ok s => setState s
/-- XCTR read at its home; a poisoned one ends the firing (R220, R239). -/
def xctrRead (o : BelfryOp) (x : Nat) (write : Bool) : M Nat := do
  let v ← o.touch 7 0 fun va => homeRead o.core (.mem x va 3 false) 8 write
  match v.2 with
  | some mc => stop (asyncErr 0x41 (fld (o.ref 7) 52 12) 0 0 (fld (o.ref 7) 0 52) (some mc))
  | none => pure v.1

/-- Publication (R340, R341): the runs and their counts to the exchange area, then AADD 1 to XCTR as a release at `.pkg`. -/
def rcapPublish (o : BelfryOp) : M Unit := do
  let c := o.core
  let s ← get
  let x := s.ctxOf c
  let dies := (s.launch o.launch).dies.length
  let lo := shareLo (rTot o.desc) dies o.share
  let hi := shareLo (rTot o.desc) dies (o.share + 1)
  let r ← rcapRead o x lo hi
  let cands := r.1.filterMap fun q => if q.inval || q.pruned then none else some (Cand.mk q.w q.e q.g q.c)
  let xb := rXb o.desc dies
  let region := (4 * (o.epoch % 2) + o.share) * xb
  -- the area's contents are undefined to software
  let s ← get
  o.write x 6 region ((upTo xb).map fun i => Config.freeByte s.tick (o.va 6 + region + i))
  releaseAt c (s.actorSrc c o.slot) 4 everyLine
  xctrCheck o x true
  let v ← xctrRead o x true
  o.touch 7 0 fun va => homeWrite c (.mem x va 3 false) 8 ((v + 1) % 2 ^ 64)
  modify fun s => s.publish { launch := o.launch, ctx := x, at_ := o.va 6, parity := o.epoch % 2, share := o.share, cands := cands }
  r.2.forM fun b => do
    modify fun s => s.belfryErr o 0x41 b.1
    noteCheck o.core (some b.2)
  let bad := (r.1.find? (·.inval)).map fun q => q.g * rK o.desc + q.c
  modify fun s => s.modBelfry (dieOf c) o.id fun o => { o with published := true, choices := r.1, bad48 := bad }

/-- A slot given out by the merge: expert, slot, candidate. -/
structure Given where
  e : Nat
  s : Nat
  q : Cand
  deriving DecidableEq, Repr

/-- Identifier of token g's set on share d (R337, R160). -/
def tokenSet (m0 decl ndecl lo d g : Nat) : BitVec 24 :=
  BitVec.ofNat 24 (d * 2 ^ 22 + ((m0 + g - lo) * ndecl + decl) % (2 ^ 22 - 1) + 1)

/-- Renormalised weights of a token (R342): `kept` are the weights it keeps; w′ of one of them. -/
def renorm (kept : List Nat) (w : Nat) : Nat × Flags :=
  let sum := (sumNum (kept.map fp32.decode)).1
  match sum, fp32.decode w with
  | .fin n1 m1 e1, .fin n2 m2 e2 =>
    if m1 == 0 then (w, noFlags) else fp32.roundRat 0 (n1 != n2) m2 m1 (e2 - e1)
  | _, _ => (w, noFlags)

/-- A route record (R343). -/
def recordWord (state : Nat) (tokq inval : Bool) (expert slot weight : Nat) : Word :=
  word (state * 2 ^ 62 + b2n tokq * 2 ^ 61 + b2n inval * 2 ^ 60 + expert % 4096 * 2 ^ 48 + slot % 65536 * 2 ^ 32 + weight % 2 ^ 32)

/-- The merge (R340 to R344): every expert's runs by the key, slots, drop mode, records, INV, CNTS, quenches. -/
def rcapMerge (o : BelfryOp) : M Unit := do
  let c := o.core
  let s ← get
  let x := s.ctxOf c
  let d := o.desc
  let l := s.launch o.launch
  let dies := l.dies.length
  let k := rK d
  let cap := rCap d
  let lo := shareLo (rTot d) dies o.share
  let hi := shareLo (rTot d) dies (o.share + 1)
  acquireAt c 4 everyLine
  let cs := o.choices
  let all := (s.exchange.filter fun e =>
    e.launch == o.launch && e.ctx == x && e.at_ == o.va 6 && e.parity == o.epoch % 2 && e.share < dies).flatMap (·.cands)
  let runs := (upTo (rE d)).map fun e => keySort (all.filter (·.e == e))
  let given : List Given := runs.flatMap fun run => ((run.take cap).zipIdx).map fun q => { e := q.1.e, s := q.2, q := q.1 }
  let dropped := runs.flatMap fun run => run.drop cap
  -- what every share knows: tokens that lost a slot
  let lost (g : Nat) : Bool := dropped.any (·.g == g)
  let tokq (g : Nat) : Option Nat :=
    if !rDrop d then none
    else if lost g then some 3
    else if (cs.filter (·.g == g)).all fun q => q.inval || q.pruned then some 4
    else none
  let slotOf (q : Choice) : Option Nat := (given.find? fun v => v.q.g == q.g && v.q.c == q.c).map (·.s)
  let keptOf (g : Nat) : List Nat := (cs.filter fun q => q.g == g && (slotOf q).isSome).map (·.w)
  let weight (g w : Nat) : Nat × Flags :=
    let kept := keptOf g
    if kept.length == k then (w, noFlags) else renorm kept w
  let recs := cs.map fun q =>
    let tq := tokq q.g
    match slotOf q with
    | some sl =>
      if tq.isSome then (q, 1, recordWord 1 true q.inval q.e sl q.w, noFlags)
      else let w := weight q.g q.w
        (q, 0, recordWord 0 false q.inval q.e sl w.1, w.2)
    | none =>
      let st := if tq.isSome then 1 else if q.inval || q.pruned then 2 else 1
      (q, st, recordWord st tq.isSome q.inval q.e 0xFFFF q.w, noFlags)
  recs.forM fun q => o.put x 3 (o.at_ q.1.g q.1.c) q.2.2.1
  (given.filter fun v => lo ≤ v.q.g && v.q.g < hi).forM fun v =>
    let vac := (tokq v.q.g).isSome
    o.put x 4 (o.inv v.e v.s)
      (word (v.q.g + v.q.c * 2 ^ 24 + b2n vac * 2 ^ 30 + (if vac then 0 else (weight v.q.g v.q.w).1) * 2 ^ 32))
  if o.share == 0 then
    (upTo (rE d)).forM fun e => do
      let mine := given.filter (·.e == e)
      let vac := (mine.filter fun v => rDrop d && lost v.q.g).length
      o.put x 5 (8 * e) (word (mine.length + (mine.length - vac) * 2 ^ 32))
      (upTo (cap - mine.length)).forM fun i => o.put x 4 (o.inv e (mine.length + i)) (word (2 * 2 ^ 30))
  let count (st : Nat) : Nat := (recs.filter fun q => q.2.1 == st).length
  let res := word (count 0 + count 1 * 2 ^ 21 + count 2 * 2 ^ 42 + b2n o.bad48.isSome * 2 ^ 63)
  let own := s.own c
  -- each of the share's token-quenched tokens: its cause, and the worth of its notice
  let gone := (upTo (hi - lo)).filterMap fun i => (tokq (lo + i)).map fun cause => (lo + i, cause)
  let worth (g : Nat) : Nat × Flags := bf16.round 0 (fp32.decode (((cs.find? fun q => q.g == g && q.c == 0).map (·.w)).getD 0))
  let quench (s : State) (q : Nat × Nat) : State :=
    let set := tokenSet (rM0 d) (rDecl d) l.img.ndecl lo o.share q.1
    (s.ask { die := s.homeOf o.launch set, launch := o.launch, kind := .quench, set := set, src := .belfry (dieOf c) o.id q.1
             cause := q.2, worth := BitVec.ofNat 16 (worth q.1).1, pset := own.pset, lpg := own.lpg, elem := 60, port := 3 }).1
  modify fun s =>
    let s := (gone.foldl quench s).record c 60 (joinFlags (recs.map (·.2.2.2)) ||| joinFlags (gone.map fun q => (worth q.1).2))
    s.modBelfry (dieOf c) o.id fun o => { o with merged := true, result := res, asks := gone.map fun q => (q.1, none) }

/-- The quenches are answered: errors are noted and the firing is given DST (R342, R349). -/
def rcapFinish (o : BelfryOp) (s : State) : State :=
  let s := (o.asks.filter fun a => a.2 == some false).foldl (fun s a => s.belfryErr o 0x49 a.1) s
  let s := match o.bad48 with
    | some i => s.belfryErr o 0x48 i
    | none => s
  s.belfryTell o o.result

/-- Run a Belfry's work: a translation fault leaves the instruction waiting, a trap or an error ends its firing. -/
def State.runBelfry (s : State) (die : Nat) (o : BelfryOp) (m : M Unit) : State :=
  match m { s with cur := .actor o.core o.slot } with
  | .ok (_, s') => s'
  | .error (.xfault x va cause write at_) =>
    let (s, n) := s.xreport die engineCore x va cause write
    s.modBelfry die o.id fun o => { o with xwait := some n, xat := at_ }
  | .error (.trap code w4 w5) => s.takeTrap o.core o.slot code w4 w5
  | .error (.async code hnd fmt geo cause ofs mc) =>
    let s := match mc with
      | some (k, pa) => s.machineCheck k (s.ctxOf o.core) pa
      | none => s
    s.asyncActor o.core o.slot code hnd fmt geo cause ofs
  | .error _ => s

/-- RCAP_MERGE (R340): once XCTR, read with an acquire at `.pkg`, reaches n·D. -/
def execRcapMerge (die : Nat) (s : State) : Out :=
  match (s.belfryQ die).head? with
  | none => .next s
  | some o =>
    if o.kind != 0 || !o.published || o.xwait.isSome || (s.launch o.launch).failed.isSome then .next s
    else if o.merged then .next (if o.asks.any (·.2.isNone) then s else rcapFinish o s)
    else .next (s.runBelfry die o do
      let s ← get
      let x := s.ctxOf o.core
      xctrCheck o x false
      let v ← xctrRead o x false
      if v < o.epoch * (s.launch o.launch).dies.length then pure () else rcapMerge o)

/-! ### Expert tables and rows (R337, R345) -/

/-- A valid expert table entry: its places, with the side references that name them. -/
structure ExpertRow where
  buf  : Loc
  bref : Word
  cnt  : Option Loc
  cref : Word
  out  : Loc
  oref : Word
  deriving DecidableEq, Repr

/-- An expert table entry; none where it fails R337. A window that only reads gives no row to send to, and one whose handle declares a
format none to read (R266, R267; DEDUCED, log 107): those are traps of their own. -/
def expertEntry (o : BelfryOp) (e : Nat) (sends : Bool) : M (Option ExpertRow) := do
  let c := o.core
  let s ← get
  let x := s.ctxOf c
  let d := o.desc
  let r ← o.read x 2 (32 * e) 32
  let w := wordsOf 4 r.1
  let ref (i n : Nat) (spaces : List Nat) (write : Bool) : M Loc := do
    let h := fld (w.getD i 0) 52 12
    let k := fld (w.getD i 0) 0 52
    let a ← handle .route c h k
    if spaces.contains (hSpace a) then locate .route c h a k n write else stop (.trap 0x48 0 0)
  let find : M (Option ExpertRow) := do
    let buf ← ref 0 (rCap d * rXrow d) [1, 3] sends
    let out ← ref 2 (rCap d * rH d * rOsz d) [1, 3] false
    let row : ExpertRow := { buf := buf, bref := w.getD 0 0, cnt := none, cref := w.getD 1 0, out := out, oref := w.getD 2 0 }
    if fld (w.getD 3 0) 1 63 != 0 then stop (.trap 0x48 0 0)
    else if fld (w.getD 3 0) 0 1 == 1 then pure (some row)
    else
      let cnt ← ref 1 8 [if placeIsWin buf then 3 else 1] sends
      if placeAddr cnt % 8 != 0 then stop (.trap 0x48 0 0) else pure (some { row with cnt := some cnt })
  fun s => match find s with
    | .error (.trap 0x48 _ _) => .ok (none, s)
    | r => r
/-- An access to a place that a side reference names, `k` bytes on: a translation fault of it names the handle. -/
def aboutRef {α : Type} (r : Word) (k : Nat) (m : M α) : M α := about (fld r 52 12) (fld r 0 52 + k) m

/-- Poisoned ranges of hbm bytes, as offsets and lengths, with the machine-check codes that they carry. -/
def poisonRanges (c x va n : Nat) : M (List (Nat × Nat × Nat)) :=
  (pieces va n).foldlM (fun acc p => do
    let t ← xlate c x p.1 false
    let s ← get
    let ws := (wordsTouched t.2.2 p.2).filter fun w => s.poisoned (8 * w) 8
    pure (acc ++ ws.map fun w =>
      let a := max (8 * w) t.2.2
      (p.1 - va + (a - t.2.2), min (8 * w + 8) (t.2.2 + p.2) - a, s.poisonCode w))) []
/-- Does part of bytes [a, a + n) lie in a range? -/
def inRange (a n : Nat) (b : Nat × Nat × Nat) : Bool := b.1 < a + n && a < b.1 + b.2.1

/-- Raise an arrival counter of this package (R275): AADD 1 by an agent of its home die, a checked access. A refused raise is
noted with error 0x4A (DEDUCED, log 16); a poisoned counter is not written (R239). -/
def raiseHere (o : BelfryOp) (x va : Nat) : M Unit := do
  let c := o.core
  let t ← xlate c x va true
  let s ← get
  let sc : ScopeRec := if rWide o.desc then { lvl := 4, inst := s.pod } else { lvl := 3, inst := s.homeDie t.2.2 }
  match s.scopeCheck t.2.2 sc with
  | .error _ => setState (s.belfryErr o 0x4A 0)
  | .ok s => do
    setState s
    let v ← homeRead c (.mem x va 3 false) 8 true
    match v.2 with
    | some mc => do
      modify fun s => s.belfryErr o 0x41 0
      noteCheck o.core (some mc)
    | none => homeWrite c (.mem x va 3 false) 8 ((v.1 + 1) % 2 ^ 64)

/-- Send a row to slot `slot` of its buffer, in cells, and raise its counter (R345, R275); a row of no bytes only raises it (R346). The
words of a cell that holds poison are marked poisoned in this package too (R274). -/
def sendRow (o : BelfryOp) (e : ExpertRow) (slot set : Nat) (bytes : List Byte) (bad : List (Nat × Nat × Nat)) : M Unit := do
  let c := o.core
  let s ← get
  let x := s.ctxOf c
  let k := slot * rXrow o.desc
  let ncell := cdiv bytes.length 256
  let spoilt (i : Nat) : Bool := bad.any (inRange (256 * i) 256)
  match placePlus e.buf k with
  | .mem x va _ il =>
    aboutRef e.bref k do
      memWrite c x va 3 il bytes
      ((upTo ncell).filter spoilt).forM fun i =>
        (pieces (va + 256 * i) (min 256 (bytes.length - 256 * i))).forM fun p => do
          let t ← xlate c x p.1 true
          modify fun s => s.addPoisonFrom (6 * 2 ^ 12 + s.pod) (wordsTouched t.2.2 p.2)
    match e.cnt with
    | some (.mem x va _ _) => aboutRef e.cref 0 (raiseHere o x va)
    | _ => pure ()
  | .win _ idx ofs =>
    let far := s.farSide x idx ofs
    let caddr := match e.cnt with
      | some (.win _ i q) => some (s.farSide x i q).1
      | _ => none
    let die := dieOf c
    let req : ReachReq := { kind := .row, src := s.actorSrc c o.slot, win := idx, ofs := ofs, size := bytes.length }
    if bytes.isEmpty then
      match caddr with
      | none => pure ()
      | some a =>
        let q := s.newReach c req
        setState (q.1.send (.remote q.2 (bits (wTgt far.2) 0 9) (bits (wTgt far.2) 9 4) (wRkey far.2) a 8 (some 0)
          (if rWide o.desc then 9 else 8) 1 0))
    else
      let p0 := mgetD s.rail die 0
      let row := mgetD s.rowTag die 0
      let q := s.newReach c req
      let head : RowHead :=
        { far := far.1, cnt := caddr, desc := far.2, set := set, wide := rWide o.desc, row := row, ncell := ncell, len := bytes.length }
      let s := (upTo ncell).foldl (fun s i => s.send (.cell ((p0 + i) % 16) (rowCell s.pod die head i bytes (spoilt i)))) q.1
      setState { s with rail := mset s.rail die ((p0 + ncell) % 16), rowTag := mset s.rowTag die ((row + 1) % 2 ^ 32) }
  | .sp .. => pure ()

/-- The next token of an RDISP or RCOMB, or what follows the last. -/
def belfryNext (o : BelfryOp) (done : State → State) : M Unit := modify fun s =>
  if o.last ≤ o.next + 1 then done s
  else s.modBelfry (dieOf o.core) o.id fun o => { o with next := o.next + 1, asked := false, got := [], asks := [] }

/-! ### RDISP (R345, R346) -/

/-- Records of a token, by choice. -/
def tokenRecords (o : BelfryOp) (x g : Nat) : M (List (Nat × Word)) :=
  (upTo (rK o.desc)).mapM fun c => do
    let r ← o.get8 x 3 (o.at_ g c)
    pure (c, r.1)

/-- Rows of a token's slotted choices; false where an expert table entry fails, which abandons the instruction. -/
def sendToken (o : BelfryOp) (x g set : Nat) (hollow : Bool) : List (Nat × Word) → M Bool
  | [] => pure true
  | r :: rs => do
    let e := fld r.2 48 12
    match ← expertEntry o e true with
    | none => do
      modify fun s => s.belfryErr o 0x48 e
      pure false
    | some row => do
      if hollow then sendRow o row (fld r.2 32 16) set [] []
      else
        let xr := rXrow o.desc
        let b ← o.read x 1 (g * xr) xr
        let bad ← o.touch 1 (g * xr) fun va => poisonRanges o.core x va xr
        noteCheck o.core b.2
        sendRow o row (fld r.2 32 16) set b.1 bad
      sendToken o x g set hollow rs

/-- hollow(g) (R346): records, INV entries, and counters raised without bytes. -/
def hollowToken (o : BelfryOp) (x g set : Nat) (slotted : List (Nat × Word)) : M Bool := do
  (upTo (rK o.desc)).forM fun i => do
    let r ← o.get8 x 3 (o.at_ g i)
    let w ← o.get8 x 0 (o.at_ g i)
    o.put x 3 (o.at_ g i) (word (1 * 2 ^ 62 + 1 * 2 ^ 61 + fld r.1 32 29 * 2 ^ 32 + fld w.1 0 32))
  slotted.forM fun r => do
    let a := o.inv (fld r.2 48 12) (fld r.2 32 16)
    let v ← o.get8 x 4 a
    o.put x 4 a (word (fld v.1 0 27 + 2 ^ 30))
  sendToken o x g set true slotted

/-- A token of an RDISP (R345): its commit answer first, where it has a set. -/
def rdispToken (o : BelfryOp) : M Unit := do
  let s ← get
  let x := s.ctxOf o.core
  let g := o.next
  let d := o.desc
  let l := s.launch o.launch
  let rs ← tokenRecords o x g
  let slotted := rs.filter fun r => fld r.2 62 2 == 0
  let go_ (ok : Bool) : M Unit := if ok then belfryNext o (·.belfryTell o 0) else modify (·.belfryTell o 0)
  if slotted.isEmpty then go_ true
  else if !rSetv d then do
    let ok ← sendToken o x g 0 false slotted
    go_ ok
  else
    let set := tokenSet (rM0 d) (rDecl d) l.img.ndecl (shareLo (rTot d) l.dies.length o.share) o.share g
    match o.asks with
    | [] => do
      let q := s.askCommit o.core set (.belfry (dieOf o.core) o.id g)
      setState (q.1.modBelfry (dieOf o.core) o.id fun o => { o with asks := [(g, none)] })
    | (_, none) :: _ => pure ()
    | (_, some quenched) :: _ => do
      let ok ← if quenched then hollowToken o x g set.toNat slotted else sendToken o x g set.toNat false slotted
      go_ ok

/-! ### RCOMB (R347) -/

/-- Elements of a row as FP32 codes, with the machine-check codes of those that lie in poisoned ranges. -/
def rowElems (sz h : Nat) (bytes : List Byte) (bad : List (Nat × Nat × Nat)) : List (Nat × Option Nat) :=
  (upTo h).map fun i =>
    let v := leVal ((bytes.drop (sz * i)).take sz)
    (if sz == 2 then v * 65536 else v, (bad.find? (inRange (sz * i) sz)).map (·.2.2))

/-- Expert output rows of a token, in choice order: choice, record, place, and the reference and offset that name it. None where an entry
fails R337. -/
def outRows (o : BelfryOp) : List (Nat × Word) → M (Option (List (Nat × Word × Loc × Word × Nat)))
  | [] => pure (some [])
  | r :: rs => do
    match ← expertEntry o (fld r.2 48 12) false with
    | none => do
      modify fun s => s.belfryErr o 0x48 (fld r.2 48 12)
      pure none
    | some e => do
      match ← outRows o rs with
      | none => pure none
      | some t =>
        let k := fld r.2 32 16 * rH o.desc * rOsz o.desc
        pure (some ((r.1, r.2, placePlus e.out k, e.oref, k) :: t))

/-- One element of a fold: the accumulator, the row's element and the weight. Poison is carried on and records no flag (R123). -/
def foldElem (w : Nat) (a e : Nat × Option Nat) : (Nat × Option Nat) × Flags :=
  let v := fFma 4 0 w e.1 a.1
  let bad := a.2.or e.2
  ((v.1, bad), if bad.isSome then noFlags else v.2)
/-- An element of Y (R347): narrowed for BF16. -/
def outElem (ysz : Nat) (a : Nat × Option Nat) : Nat × Flags :=
  if ysz == 2 then
    let q := bf16.round 0 (fp32.decode a.1)
    (q.1, if a.2.isSome then noFlags else q.2)
  else (a.1, noFlags)

/-- Fold the rows of a token and write its output row: was a poisoned element met? -/
def combineToken (o : BelfryOp) (x g : Nat) (rows : List (Nat × Word × Loc × Word × Nat)) : M Bool := do
  let c := o.core
  let d := o.desc
  let h := rH d
  let osz := rOsz d
  let ysz := rYsz d
  let readAt (va : Nat) : M (List (Nat × Option Nat)) := do
    let b ← memRead c x va (h * osz) 3
    let bad ← poisonRanges c x va (h * osz)
    noteCheck o.core b.2
    pure (rowElems osz h b.1 bad)
  let init ← if rResid d then o.touch 9 (g * h * osz) readAt else pure (List.replicate h (0, none))
  let acc ← rows.foldlM (fun (acc : List (Nat × Option Nat) × Flags) r => do
    let os ← (match r.2.2.1 with
      | .mem _ va _ _ => aboutRef r.2.2.2.1 r.2.2.2.2 (readAt va)
      | _ =>
        match o.got.find? (·.1 == r.1) with
        | some q => do
          noteCheck o.core (q.2.2.head?.map fun b => (b.2.2, none))
          pure (rowElems osz h q.2.1 q.2.2)
        | none => pure [])
    let vs := List.zipWith (foldElem (fld r.2.1 0 32)) acc.1 os
    pure (vs.map (·.1), acc.2 ||| joinFlags (vs.map (·.2)))) (init, noFlags)
  let outs := acc.1.map (outElem ysz)
  let k := g * h * ysz
  o.write x 10 k (outs.flatMap fun v => leBytes ysz v.1)
  modify fun s => s.record c 60 (acc.2 ||| joinFlags (outs.map (·.2)))
  (acc.1.zipIdx).forM fun v =>
    match v.1.2 with
    | some code => o.touch 10 (k + ysz * v.2) fun va => do
      let t ← xlate c x va true
      modify fun s => s.addPoisonFrom code (wordsTouched t.2.2 ysz)
    | none => pure ()
  pure (acc.1.any (·.2.isSome))

/-- RCOMB ends: with error 0x41 where a poisoned element was met (R220, R347). -/
def State.rcombEnd (s : State) (o : BelfryOp) (bad : Bool) : State :=
  if bad then (s.belfryErr o 0x41 o.next).endFiring o.core o.slot else s.belfryTell o 0
/-- Ask for the rows of a token that lie behind rem windows. -/
def askRows (o : BelfryOp) (x : Nat) (rows : List (Nat × Word × Loc × Word × Nat)) : M Unit := do
  let n := rH o.desc * rOsz o.desc
  rows.forM fun r =>
    match r.2.2.1 with
    | .win sp idx ofs => modify fun s =>
      let q := s.newReach o.core { kind := .load, src := s.actorSrc o.core o.slot, win := idx, ofs := ofs, size := n
                                   args := [word o.id, word r.1] }
      q.1.send (.read q.2 sp idx (s.farSide x idx ofs).1 n)
    | _ => pure ()
  modify fun s => s.modBelfry (dieOf o.core) o.id fun o => { o with asked := true }
/-- A token of an RCOMB (R347). Rows of experts on rem windows are asked for first. -/
def rcombToken (o : BelfryOp) : M Unit := do
  let s ← get
  let x := s.ctxOf o.core
  let g := o.next
  let rs ← tokenRecords o x g
  match ← outRows o (rs.filter fun r => fld r.2 62 2 == 0) with
  | none => modify (·.rcombEnd o o.bad41)
  | some rows =>
    let far := rows.filter fun r => placeIsWin r.2.2.1
    if !o.asked && !far.isEmpty then askRows o x far
    else if o.got.length < far.length then pure ()
    else do
      let bad ← combineToken o x g rows
      modify fun s => s.modBelfry (dieOf o.core) o.id fun o => { o with bad41 := o.bad41 || bad }
      belfryNext o (·.rcombEnd o (o.bad41 || bad))

/-! ### RREC (R348) -/

/-- RREC: at its turn every earlier instruction of the die's actors is complete. A poisoned entry is error 0x41 (R220). -/
def rrecEntry (f : Nat) (o : BelfryOp) : M Unit := do
  let s ← get
  let x := s.ctxOf o.core
  let i := if f == 0 then 3 else if f == 1 then 4 else 5
  let k := if f == 0 then o.at_ o.next o.last else if f == 1 then o.inv o.next o.last else 8 * o.next
  let v ← o.get8 x i k
  match v.2 with
  | some mc => stop (asyncErr 0x41 (fld (o.ref i) 52 12) 0 0 (fld (o.ref i) 0 52 + k) (some mc))
  | none => modify (·.belfryTell o v.1)

/-! ### The Belfry's turn (R339, R351, R361) -/

/-- What a Belfry does next for the instruction at the head of its queue. -/
def belfryWork (o : BelfryOp) : M Unit :=
  match o.kind with
  | 0 => if o.published then pure () else rcapPublish o
  | 1 => rdispToken o
  | 2 => rcombToken o
  | _ => rrecEntry o.epoch o
/-- The Belfry of a die goes on with the instruction at the head of its queue, by a token at most. A stop of the team holds it at a
boundary (R351). -/
def State.belfryAct (s : State) (die : Nat) : State :=
  match (s.belfryQ die).head? with
  | none => s
  | some o =>
    let l := s.launch o.launch
    if o.waiting || o.xwait.isSome || l.failed.isSome || (l.stopped && !o.midway && o.kind != 3) then s
    else s.runBelfry die o (belfryWork o)

def opRcap (f : XForm) (c n : Nat) : M Unit := opBelfry 0 f c n
def opRdisp (f : XForm) (c n : Nat) : M Unit := opBelfry 1 f c n
def opRcomb (f : XForm) (c n : Nat) : M Unit := opBelfry 2 f c n
def opRrec (f : XForm) (c n : Nat) : M Unit := opBelfry 3 f c n

def execRcap (f : XForm) (s : State) : Out := s.runActor s.here.1 s.here.2 (opRcap f s.here.1 s.here.2)
def execRdisp (f : XForm) (s : State) : Out := s.runActor s.here.1 s.here.2 (opRdisp f s.here.1 s.here.2)
def execRcomb (f : XForm) (s : State) : Out := s.runActor s.here.1 s.here.2 (opRcomb f s.here.1 s.here.2)
def execRrec (f : XForm) (s : State) : Out := s.runActor s.here.1 s.here.2 (opRrec f s.here.1 s.here.2)

end Sys2Proof.Machine
end

