-- ==== Sys2Proof/Machine/Setup.lean ====
section
/-!
DEFINITION. Configuration streams (02 R45 to R63, R449; 15 R385 to R387): the commands, the checks at a command, at SEAL and
at the end of a stream, what a fault clears, and CFGW. A stream stands in the configuration network of one core; `cfgNext`
takes it one command on, for CFGW and for the streams of an admission alike.
-/
namespace Sys2Proof.Machine

/-! ### Banks -/

/-- A field of a bank of an element. -/
def Elem.inBank (e : Elem) (bank f : Nat) : Nat := if bank == 0 then e.fld f else e.fld1 f
/-- Write a field of a bank; zero is no entry. -/
def Elem.setField (e : Elem) (bank f : Nat) (v : BitVec 49) : Elem :=
  let put (m : AMap (BitVec 49)) : AMap (BitVec 49) := if v = 0 then mdel m f else mset m f v
  if bank == 0 then { e with b0 := put e.b0 } else { e with b1 := put e.b1 }
/-- Every field of a bank becomes zero. -/
def Elem.clearBank (e : Elem) (bank : Nat) : Elem := if bank == 0 then { e with b0 := [] } else { e with b1 := [] }

/-- The banks of a page set instance: page, bank, position, field. -/
abbrev Banks := Nat → Nat → Nat → Nat → Nat
/-- The core that hosts a page of an instance of a share. -/
def Launch.coreOf (k : Launch) (pset inst share lpg : Nat) : Option Nat :=
  (k.places.find? fun p => p.pset == pset && p.inst == inst && p.share == share && p.lpg == lpg).map (·.core)
def State.streamCore (s : State) (st : Stream) (lpg : Nat) : Option Nat :=
  (s.launch st.launch).coreOf st.pset st.inst st.share lpg
def State.banksOf (s : State) (st : Stream) : Banks := fun lpg bank pos f =>
  match s.streamCore st lpg with
  | some c => (s.elem c pos).inBank bank f
  | none => 0
/-- Pages of the stream's page set. -/
def State.streamPages (s : State) (st : Stream) : Nat :=
  (((s.launch st.launch).img.psets[st.pset]?).map (·.pages)).getD 0

def opOf (f : Nat → Nat) : Nat := bits (f 0) 11 8
def subOf (f : Nat → Nat) : Nat := bits (f 0) 4 4
def modeOf (f : Nat → Nat) : Nat := bits (f 14) 4 15

/-! ### Sources (R52, R62, R356, R357, R449) -/

/-- The source of the job channel (R356). -/
def jobSource : Nat := 0x78000
/-- Binding entry `n` of a bank of APORT. -/
def bindOf (f : Nat → Nat) (n : Nat) : Nat := bits (f (4 + n / 3)) (16 * (n % 3)) 16
/-- Outputs that a bank drives; a command port without command input drives no y (R184, R389). -/
def drivenBy (f : Nat → Nat) : List Nat :=
  (opOuts (opOf f) (modeOf f)).filter fun o => !(o == 1 && (opOf f == 0xB6 || opOf f == 0xB7) && f 1 == 0)
/-- The fields of an element that hold sources of ports it uses. -/
def usedSources (f : Nat → Nat) : List (Nat × Bool) :=
  let c := opOf f
  if c == 0 || c == 0xB0 then []
  else if c == 0xB4 then ((upTo 8).filter fun i => bindV (bindOf f i)).map fun i => (16 + i, true)
  else ((opPorts c (modeOf f) (subOf f)).filter fun i => !((c == 0xB6 || c == 0xB7) && f (1 + i) == 0)).map fun i => (1 + i, false)
/-- Does the producer that a source names drive that output, in a bank that R449 admits? -/
def outOk (bk : Banks) (pages lpg bank v : Nat) : Bool :=
  let sel := srcSel v
  let prt := srcPrt v
  let pl := srcLpg v
  let banks := if bank == 0 then [0] else [0, 1]
  if sel == 60 then
    prt == 0 && pl < 8 && banks.any fun b => opOf (bk lpg b 60) == 0xB4 && bindV (bindOf (bk lpg b 60) (8 + pl))
  else pl < pages && banks.any fun b => (drivenBy (bk pl b sel)).contains prt
/-- Does a source name another page of the page set, so that its check waits for the end of the stream? -/
def crossPage (pages lpg v : Nat) (aport : Bool) : Bool :=
  srcDep v != 7 && !(aport && v == jobSource) && srcSel v != 60 && srcLpg v != lpg && srcLpg v < pages
/-- A fault code where a condition holds. -/
def codeIf (b : Bool) (code : Nat) : List Nat := if b then [code] else []
/-- Faults of a source field that can be told at SEAL; `f` is its element's bank. -/
def sourceErrs (bk : Banks) (pages lpg bank : Nat) (f : Nat → Nat) (v : Nat) (aport : Bool) : List Nat :=
  let rnk := srcRnk v
  if srcDep v == 7 then
    codeIf (5 < srcSel v || srcPrt v != 0 || srcLpg v != 0 || rnk || srcStk v != 0) 0x0A ++ codeIf rnk 0x0C
  else
    codeIf (4 ≤ srcDep v) 0x0A
      ++ codeIf (!(aport && v == jobSource) && !crossPage pages lpg v aport && !outOk bk pages lpg bank v) 0x0A
      ++ codeIf (rnk && srcStk v != 0) 0x0C
      ++ codeIf (rnk && srcDep v < 4 && 8 * (srcDep v + 1) < bits (f 12) 7 5 + 1) 0x0B

/-- Buffers of a position that no channel uses: of ports the operation does not use, or that a register feeds (R52). -/
def freeBuffers (f : Nat → Nat → Nat) (pos : Nat) : List (Nat × Nat) :=
  let g := f pos
  ((upTo 3).filter fun i => !(opPorts (opOf g) (modeOf g) (subOf g)).contains i || srcDep (g (1 + i)) == 7).map fun i => (pos, i)
/-- Ports whose depth cannot be chained (R52). Buffers are lent by a port's own element first and then by the next position; of ports that
compete for one, the lower position and letter comes first (DESIGN CHOICE, log 93: R52 orders the lenders only). Positions 56 to 63
neither borrow nor lend, and APORT's channels have their depths of their own (R356). -/
def chainBad (f : Nat → Nat → Nat) : List (Nat × Nat) :=
  (((upTo 64).flatMap fun pos => (upTo 3).map fun i => (pos, i)).foldl (fun (acc : List (Nat × Nat) × List (Nat × Nat)) p =>
    let g := f p.1
    let dep := srcDep (g (1 + p.2))
    if !(opPorts (opOf g) (modeOf g) (subOf g)).contains p.2 || dep == 0 || 4 ≤ dep then acc
    else
      let pool := if 56 ≤ p.1 then [] else (freeBuffers f p.1 ++ if p.1 < 55 then freeBuffers f (p.1 + 1) else []).filter fun b => !acc.1.contains b
      if pool.length < dep then (acc.1, acc.2 ++ [p]) else (acc.1 ++ pool.take dep, acc.2)) ([], [])).2

/-! ### SEAL checks of one element (R60 to R62 and the entries) -/

/-- A fault at a field where a condition holds: field and code. -/
def errIf (b : Bool) (f code : Nat) : List (Nat × Nat) := if b then [(f, code)] else []
/-- The lane form that a type takes beside the scalar one (R60). -/
def laneForm (ty : Nat) : Nat := if ty == 2 || ty == 5 then 1 else if ty == 3 then 2 else if ty == 6 || ty == 7 then 3 else 0
/-- A configured value as a signed number (R53). -/
def wideI (f : Nat → Nat) (i : Nat) : Int := sgn 49 (f i)
/-- Fields 15 to 23 to which an operation gives a meaning. -/
def paramFields (c mode : Nat) : List Nat :=
  if c == 0x80 then [18, 23]
  else if c == 0x81 then [15, 16, 17, 23]
  else if c == 0x82 then [15, 16, 18, 23]
  else if c == 0x87 then [15, 16, 17] ++ (if bitAt mode 1 then [18] else []) ++ [23]
  else if c == 0x8C then [15, 16, 17, 19, 23]
  else if 0x80 ≤ c && c ≤ 0x8B then [23]
  else if c == 0xA0 || c == 0xA2 then [15, 16, 17, 18, 19, 20, 21, 22]
  else if c == 0xA1 || c == 0xA3 || c == 0xA6 then [15, 16, 17, 18, 20, 22]
  else if c == 0xA4 then [15, 16, 17]
  else if c == 0xB4 then [16, 17, 18, 19, 20, 21, 22, 23]
  else if c == 0xB7 && bitAt mode 4 then [15, 16]
  else []
/-- Element types, sub-operations, saturation, exchange and reserved modifier bits (R59, R60). -/
def modErrs (f : Nat → Nat) : List (Nat × Nat) :=
  let c := opOf f
  let w := f 0
  let ty := bits w 8 3
  errIf (opModReserved c (bits w 0 11)) 0 9
    ++ errIf ((c ≤ 0x7F || c == 0x86 || (0xA0 ≤ c && c ≤ 0xA6 && c != 0xA5))
        && (!(opTypes c).contains ty || !opSubOk c ty (subOf f))) 0 8
    ++ errIf (c ≤ 0x7F && ((bitAt w 3 && !opSatOk c ty) || (bitAt w 2 && !opSwOk c (modeOf f) (subOf f)))) 0 8
/-- Operations whose entries give undefined MODE bits code 0x08: FORK, JOIN and GATE (R182), the fibre operations (R196), the stream
operations (R225, R305), XREQ (R299), MPORT (R328), and HEAD above bit 5 (R388). -/
def modeIs8 (c : Nat) : Bool :=
  c == 0x50 || c == 0x51 || c == 0x54 || (0x80 ≤ c && c ≤ 0x8C) || (0xA0 ≤ c && c ≤ 0xA3) || c == 0xA5 || c == 0xA6 || c == 0xB5 || c == 0xB7
/-- Lane form, output width and MODE (R55, R60, R129, R141, R143 to R145, R225, R244). -/
def laneErrs (f : Nat → Nat) : List (Nat × Nat) :=
  let c := opOf f
  let ty := bits (f 0) 8 3
  let lf := bits (f 14) 0 2
  let ow := bits (f 14) 2 2
  let mode := modeOf f
  errIf (opLanes c == 2 && (lf != 0 || ow != 0)) 14 9
    ++ errIf (opLanes c == 0 && ((lf < 3 && ow != 2) || (lf == 3 && 1 < ow))) 14 8
    ++ errIf (opLanes c == 0 && ((lf < 3 && lf != laneForm ty) || (ty == 6 && ow != 1))) 0 8
    -- MODE bits that no entry defines are reserved bits (R62), unless the entry names 0x08
    ++ errIf (mode &&& opModeMask c != mode && !(c == 0xB7 && mode / 64 == 0)) 14 (if modeIs8 c then 8 else 9)
    ++ errIf (c == 0xB7 && mode % 16 != 0) 14 9
    ++ errIf (c == 0x19 && !((lf == 3 && ow == 1) || (lf == 0 && ow == 2))) 14 8
    ++ errIf (c == 0x19 && ty == 5 && lf != 3) 0 8
    ++ errIf ((c == 0x22 || c == 0x23 || (0x30 ≤ c && c ≤ 0x37)) && lf == 3) 14 8
    ++ errIf (c == 0x43 && mode % 4 == 3) 14 8
    ++ errIf (c == 0xA4 && lf != 3) 14 8
    ++ errIf (c == 0xA4 && ow != (if ty == 6 then 1 else 0)) 0 8
    ++ errIf ((0xA0 ≤ c && c ≤ 0xA2 || c == 0xA3) && (bitAt mode 1 || bitAt mode 2) && !(ty == 6 && lf == 3 && ow == 1)) 0 8
    ++ errIf ((c == 0xA0 || c == 0xA1) && bitAt mode 2 && !bitAt mode 1) 14 8
/-- MODE of CVT (R143). -/
def cvtErrs (f : Nat → Nat) : List (Nat × Nat) :=
  let mode := modeOf f
  let ty := bits (f 0) 8 3
  let lf := bits (f 14) 0 2
  let part := bits mode 9 2
  let sf := bits mode 4 4
  let df := bits mode 0 4
  let dfOk := df != 0 && df != 5 && df != 6 && df ≤ 12
  let src := lfLanes lf
  let n := min src (if lf == 3 then 1 else 512 / fmtW df)
  if opOf f != 0x21 then []
  else
    errIf (!(sf == 0 || sf == 3 || sf == 4) || !dfOk || (bitAt mode 8 && sf != 3 && sf != 4 && df != 3 && df != 4)) 14 8
      ++ errIf (sf != 0 && ty != 3) 0 8
      ++ errIf (dfOk && df == 12 && (lf != 3 || bits (f 14) 2 2 != 1)) 14 8
      ++ errIf (dfOk && src / n ≤ part) 14 8
/-- Policy, commit flag, rank source, tie rule, rounding and constants of one operation. -/
def headErrs (f : Nat → Nat) : List (Nat × Nat) :=
  let c := opOf f
  let port := c == 0xB4 || c == 0xB6 || c == 0xB7
  let bare := c == 0xA5 || c == 0xB5 || c == 0xB6 || c == 0xB7
  errIf (port && f 11 != 0) 11 9
    ++ errIf (!port && (!opPolOk c (bits (f 11) 0 2) || !opCmtOk c (bits (f 11) 2 1))) 11 8
    ++ errIf ((bare && f 12 != 0) || (c == 0xB4 && bits (f 12) 0 2 != 0)) 12 9
    ++ errIf (!opRsrcOk c (bits (f 12) 0 2) || (c != 0xB7 && 2 ≤ bits (f 12) 2 2)) 12 8
    ++ errIf ((bare || (0x80 ≤ c && c ≤ 0x8C && c != 0x86)) && f 10 != 0) 10 9
    ++ errIf (c == 0xB4 && bits (f 10) 0 2 != 0) 10 9
    ++ ((upTo 6).flatMap fun i =>
        errIf (bare && f (4 + i) != 0 && !(c == 0xB7 && i == 0 && bitAt (modeOf f) 4)) (4 + i) 9
          ++ errIf (c == 0xB4 && bitAt (f (4 + i)) 48) (4 + i) 9)
    ++ errIf (c == 0x42 && !(0 ≤ wideI f 4 && wideI f 4 ≤ 16)) 4 8
    ++ errIf (c == 0xB7 && bitAt (modeOf f) 4 && !(16 ≤ wideI f 4 && wideI f 4 ≤ 65535)) 4 8
/-- Fields 15 to 23 (R134, R181, R195, R196, R225, R244, R299, R328, R355, R388). -/
def paramErrs (f : Nat → Nat) : List (Nat × Nat) :=
  let c := opOf f
  let mode := modeOf f
  let used := paramFields c mode
  let da := bits (f 23) 0 3
  let db := bits (f 23) 3 3
  let dc := bits (f 23) 6 3
  let fib := 0x80 ≤ c && c ≤ 0x8C
  let depthOk : Bool :=
    if c ≤ 0x82 then da ≤ 6
    -- matched inputs have one depth
    else if c == 0x83 then 1 ≤ da && da == db && (!bitAt mode 0 || dc == da)
    else if c == 0x84 then 1 ≤ da && da == db
    else if c == 0x89 then bitAt mode 0 || da == db
    else if c == 0x8A || c == 0x8B then da == db
    else if c == 0x85 || c == 0x88 then db == da + 1
    else if c == 0x87 then da == db + 1
    else if c == 0x8C then 1 ≤ da
    else true
  let ports := opPorts c mode (subOf f)
  let array (i size : Nat) : List (Nat × Nat) := errIf (!(0 ≤ wideI f i && wideI f i % (size : Int) == 0)) i 8
  let count (i : Nat) (lo hi : Int) : List (Nat × Nat) := errIf (!(lo ≤ wideI f i && wideI f i ≤ hi)) i 8
  let big : Int := 0xFFFFFFFF
  ((upTo 9).flatMap fun i => errIf (!used.contains (15 + i) && f (15 + i) != 0) (15 + i) 9)
    ++ errIf (fib && (2 ^ 9 ≤ f 23 || (db != 0 && !ports.contains 1) || (dc != 0 && !ports.contains 2))) 23 9
    ++ (if c == 0xB4 then (upTo 8).flatMap fun i => errIf (2 ^ 19 ≤ f (16 + i)) (16 + i) 9 else [])
    ++ errIf (fib && !depthOk) 23 8
    ++ errIf ((c ≤ 0x82 || c == 0x85) && fib && bitAt mode 0 && da != 0) 14 8
    ++ errIf (c == 0x86 && (5 < bits mode 0 3 || da ≤ bits mode 0 3)) 14 8
    ++ (if c == 0x80 then count 18 1 big else if c == 0x82 then count 18 1 65536 else [])
    ++ (if c == 0x81 || c == 0x87 then array 16 4 ++ array 17 4
        else if c == 0x82 then array 16 8
        else if c == 0x8C then array 16 4 ++ array 17 4 ++ array 19 4 else [])
    ++ (if c == 0xA0 || c == 0xA2 then
          count 18 1 big ++ count 20 0 big ++ count 22 0 big ++ errIf (f 20 == 0 && f 22 != 0) 20 8
        else if c == 0xA1 || c == 0xA3 || c == 0xA6 then count 18 0 0 ++ count 20 0 0 ++ count 22 0 0 else [])
/-- The actor port's bindings and channels (R355 to R357). `bk` gives the page's other elements, which name its outputs. -/
def aportErrs (bk : Banks) (pages lpg bank : Nat) : List (Nat × Nat) :=
  let f := bk lpg bank 60
  let key (n : Nat) : Nat × Nat × Bool := (bindSlot (bindOf f n), bindPort (bindOf f n), 8 ≤ n)
  let valid := (upTo 16).filter fun n => bindV (bindOf f n)
  let depths (j : Nat) : List Nat :=
    [0, 1].flatMap fun b => (upTo 64).flatMap fun p =>
      let g := bk lpg b p
      (usedSources g).filterMap fun u =>
        let v := g u.1
        if srcSel v == 60 && srcPrt v == 0 && srcLpg v == j && srcDep v < 4 && !(u.2 && v == jobSource) then
          some (8 * (srcDep v + 1)) else none
  ((upTo 16).flatMap fun n =>
      let e := bindOf f n
      let at_ := 4 + n / 3
      errIf (!bindV e && e != 0) at_ 0x0A
        ++ errIf (bindV e && bits e 5 3 != 0) at_ 9
        ++ errIf (bindV e && valid.any fun m => m != n && key m == key n) at_ 0x0A
        ++ errIf (bindV e && 8 ≤ n && (depths (n - 8)).any fun d => d < bindRate e) at_ 0x0A)
    ++ ((upTo 8).flatMap fun i =>
      let e := bindOf f i
      let v := f (16 + i)
      if !bindV e then errIf (v != 0) (16 + i) 9
      else if v == 0 then [(16 + i, 0x0A)]
      else
        errIf (srcStk v != 0 || srcDep v == 7) (16 + i) 8
          -- a quota above a channel's depth is reported at field 12, the lower of the two that take part (R61)
          ++ ((if srcDep v == 7 then [] else sourceErrs bk pages lpg bank f v true).map fun code => (if code == 0x0B then 12 else 16 + i, code))
          ++ errIf (srcDep v < 4 && 8 * (srcDep v + 1) < bindRate e) (4 + i / 3) 0x0A)
/-- Every fault that SEAL finds in one element of a bank: field and code. -/
def elemErrs (bk : Banks) (pages lpg bank pos : Nat) (chain : List (Nat × Nat)) : List (Nat × Nat) :=
  let f := bk lpg bank pos
  let c := opOf f
  if c == 0 || c == 0xB0 then []
  else
    let used := opPorts c (modeOf f) (subOf f)
    modErrs f ++ laneErrs f ++ cvtErrs f ++ headErrs f ++ paramErrs f
      ++ ((upTo 3).flatMap fun i =>
        let v := f (1 + i)
        let asked := used.contains i && !((c == 0xB6 || c == 0xB7) && v == 0)
        errIf (!used.contains i && v != 0) (1 + i) 9
          ++ (if asked then (sourceErrs bk pages lpg bank f v false).map fun code => (1 + i, code) else [])
          ++ errIf (used.contains i && 0x80 ≤ c && c ≤ 0x8C && srcStk v != 0) (1 + i) 8
          ++ errIf (chain.contains (pos, i)) (1 + i) 0x0B)
      ++ (if c == 0xB4 then aportErrs bk pages lpg bank else [])

/-! ### The stream at a configuration network (R45, R50, R61, R63, R449) -/

/-- The core whose configuration network makes the step. -/
def State.netHere (s : State) : Nat := match s.cur with | .net c => c | _ => 0
def State.stream (s : State) (c : Nat) : Stream := ((s.core c).net).getD {}
def State.setStream (s : State) (c : Nat) (st : Stream) : State := s.modCore c fun k => { k with net := some st }
/-- Is a stream in progress at the network of the page set instance that a core belongs to? -/
def State.netBusy (s : State) (c : Nat) : Bool :=
  s.cores.any fun k => k.2.net.isSome && (match k.2.own with | some o => sameSet o (s.own c) | none => false)

/-- Is a record of `wrote` one of a page, written after a command? -/
def Stream.banksSince (st : Stream) (page first : Nat) : List Nat :=
  [0, 1].filter fun b => st.wrote.any fun w => w.1 == page && w.2.1 == b && first ≤ w.2.2.2.2.1
/-- The command that last wrote a field since a command: its index and word. -/
def Stream.writer (st : Stream) (page bank pos f first : Nat) : Option (Nat × Cmd) :=
  (st.wrote.find? fun w => w.1 == page && w.2.1 == bank && w.2.2.1 == pos && w.2.2.2.1 == f && first ≤ w.2.2.2.2.1).map fun w => w.2.2.2.2
/-- The command that a fault about a field names (R61). -/
def Stream.named (st : Stream) (page bank pos f first : Nat) (close : Nat × Cmd) : Nat × Cmd :=
  ((st.writer page bank pos f first).or (st.writer page bank pos 0 first)).getD close

/-- Clear banks of a page and disarm its elements (R63, R449). Positions 56 to 59 are the allocator's. -/
def State.clearPage (s : State) (st : Stream) (page : Nat) (banks : List Nat) : State :=
  match s.streamCore st page with
  | none => s
  | some c =>
    if banks.isEmpty then s
    else s.modCore c fun k => { k with elems := k.elems.map fun (e : Nat × Elem) =>
      if 56 ≤ e.1 && e.1 ≤ 59 then e else (e.1, banks.foldl Elem.clearBank { e.2 with armed := false }) }

/-- Sources on other pages that no producer there drives: page, position, field, bank, of the pages that the stream closed. -/
def State.crossBad (s : State) (st : Stream) : List (Nat × Nat × Nat × Nat) :=
  let bk := s.banksOf st
  let pages := s.streamPages st
  (upTo 16).flatMap fun lpg =>
    if !st.closed.any (·.1 == lpg) then []
    else (upTo 64).flatMap fun pos => (upTo 24).flatMap fun fd => (st.banksSince lpg 0).filterMap fun bank =>
      let f := bk lpg bank pos
      match (usedSources f).find? (·.1 == fd) with
      | some u => if crossPage pages lpg (f fd) u.2 && !outOk bk pages lpg bank (f fd) then some (lpg, pos, fd, bank) else none
      | none => none

/-- What CFGW's DST receives (R386). -/
def Stream.status (st : Stream) : Word :=
  match st.fault with
  | none => 0
  | some (code, idx, _, page, bank) => word (2 ^ 63 + code + idx * 2 ^ 8 + page * 2 ^ 40 + bank * 2 ^ 44)

/-- The stream is over: the checks of sources on other pages are made for the pages that it closed, the pages that fail are
cleared, the arms of the others take effect (R386, R449), and a CFGW firing is told. -/
def State.cfgEnd (s : State) (c : Nat) : State :=
  let st := s.stream c
  let bad := s.crossBad st
  let failed := bad.map (·.1)
  let s := failed.eraseDups.foldl (fun s p => s.clearPage st p (st.banksSince p 0)) s
  let fault := st.fault.or (match bad with
    | [] => none
    | (p, pos, fd, bank) :: _ =>
      let close := ((st.closed.find? (·.1 == p)).map (·.2)).getD (0, 0)
      let w := st.named p bank pos fd 0 close
      some (0x0A, w.1, w.2, p, bank))
  let good := st.closed.filter fun p => !failed.contains p.1
  let s := st.arms.foldl (fun s a =>
    if !good.any (·.1 == a.1) then s
    else match s.streamCore st a.1 with
      | some k => s.modElem k a.2.1 fun e => { e with armed := a.2.2 }
      | none => s) s
  let st := { st with fault := fault, closed := good, ended := true }
  match st.origin with
  | none => s.setStream c st
  | some (k, n) =>
    (s.modCore c fun q => { q with net := none }).modSlot k n fun x =>
      { x with park := some { kind := .cfgw, done := true, val := st.status, on := 1 } }
/-- A configuration fault stops the stream (R63): code, the command it names, and the bank. What an earlier SEAL closed of the open page
stays closed: its banks that were not written again, and its arms unless a bank was (R449). Where no page is open the record names page
0 and the stream's bank (DESIGN CHOICE, log 92). -/
def State.cfgFault (s : State) (c code idx : Nat) (cmd : Cmd) (bank : Nat) : State :=
  let st := s.stream c
  let again (p : Nat) : Bool := !(st.banksSince p st.start).isEmpty
  let s := match st.page with
    | some p => s.clearPage st p (st.banksSince p st.start)
    | none => s
  (s.setStream c { st with
    fault := some (code, idx, cmd, st.page.getD 0, bank)
    arms := match st.page with
      | some p => (st.arms.take st.armsAt).filter fun a => !(a.1 == p && again p)
      | none => st.arms }).cfgEnd c

/-- The stream moves past a command; after its last one it must leave no PREFIX and no open page behind (R49, R50). -/
def State.cfgNext (s : State) (c : Nat) : State :=
  let st := s.stream c
  let s := s.setStream c { st with idx := st.idx + 1 }
  if st.idx + 1 < st.cmds.length then s
  else
    match st.pfx with
    | some (i, _) => s.cfgFault c 0x03 i (st.cmds.getD i 0) st.bank
    | none => if st.page.isSome then s.cfgFault c 0x03 st.idx (st.cmds.getD st.idx 0) st.bank else s.cfgEnd c

/-- A command is processed: a PREFIX that no FIELD follows faults first (R49), then the lowest code found at the command
(R61); else the command acts and the stream moves on. -/
def State.cfgCmd (s : State) (c : Nat) (isField : Bool) (codes : Stream → List Nat) (act : State → Stream → State) : State :=
  let st := s.stream c
  if st.ended then s
  else
    match st.pfx, isField with
    | some (i, _), false => s.cfgFault c 0x03 i (st.cmds.getD i 0) st.bank
    | _, _ =>
      match (codes st).min? with
      | some code => s.cfgFault c code st.idx (st.cmds.getD st.idx 0) st.bank
      | none => (act (s.setStream c { st with pfx := none }) st).cfgNext c

/-! ### The commands (R46 to R49, R53, R56) -/

/-- Fields that take a widened value (R53). -/
def wideField (f : Nat) : Bool := (4 ≤ f && f ≤ 9) || (16 ≤ f && f ≤ 23)
/-- Positions that never swap, or that ARM with ALL leaves out (R48). -/
def fixedPos (p : Nat) : Bool := (56 ≤ p && p ≤ 59) || p == 62 || p == 63
def armAll : List Nat := (upTo 64).filter fun p => !fixedPos p

/-- FIELD (R47, R49, R51, R53, R56, R57, R386). An unassigned opcode of a range that has positions is checked against them too; one to which
R57 gives none takes 0x07 alone (DEDUCED, log 108). -/
def State.cfgField (s : State) (c : Nat) (elem : BitVec 6) (fd : BitVec 5) (val : BitVec 19) : State :=
  let p := elem.toNat
  let f := fd.toNat
  let v := val.toNat
  s.cfgCmd c true (fun st =>
    let op := bits v 11 8
    let armed := match st.page.bind (s.streamCore st) with | some k => (s.elem k p).armed | none => false
    if st.page.isNone then [0x03]
    else
      codeIf (st.pfx.isSome && !wideField f) 0x04 ++ codeIf (24 ≤ f && v != 0) 0x05
        ++ codeIf (56 ≤ p && p ≤ 59) 0x06
        ++ codeIf (f == 0 && !opAssigned op) 0x07 ++ codeIf (f == 0 && !opNowhere op && !opLegalAt op p) 0x06
        ++ codeIf ((f == 10 && 2 ^ 6 ≤ v) || (f == 11 && 2 ^ 3 ≤ v) || (f == 15 && 2 ^ 12 ≤ v)) 0x09
        ++ codeIf (st.origin.isSome && st.bank == 0) 0x0F
        ++ codeIf (st.origin.isSome && st.bank == 1 && armed) 0x10)
    fun s st =>
      let x : BitVec 49 :=
        if !wideField f then val.setWidth 49
        else match st.pfx with
          | some (_, hi) => hi ++ val
          | none => val.signExtend 49
      match st.page with
      | some page =>
        if 24 ≤ f then s
        else
          let s := match s.streamCore st page with
            | some k => s.modElem k p fun e => e.setField st.bank f x
            | none => s
          let now := s.stream c
          s.setStream c { now with wrote := (page, st.bank, p, f, st.idx, st.cmds.getD st.idx 0) :: now.wrote }
      | none => s
/-- PAGE (R48, R50). -/
def State.cfgPage (s : State) (c : Nat) (rsv : BitVec 15) (page : BitVec 4) : State :=
  s.cfgCmd c false (fun st =>
    codeIf st.page.isSome 0x03 ++ codeIf (nz rsv) 0x09 ++ codeIf (s.streamPages st ≤ page.toNat) 0x10)
    fun s st => s.setStream c { s.stream c with page := some page.toNat, bank := 0, start := st.idx, armsAt := st.arms.length }
/-- BANK (R48). -/
def State.cfgBank (s : State) (c : Nat) (rsv : BitVec 18) (bank : BitVec 1) : State :=
  s.cfgCmd c false (fun st => codeIf st.page.isNone 0x03 ++ codeIf (nz rsv) 0x09)
    fun s _ => s.setStream c { s.stream c with bank := bank.toNat }
/-- ARM and DISARM (R48, R386): they take effect when the stream ends. -/
def State.cfgArm (s : State) (c : Nat) (rsv : BitVec 11) (all : BitVec 1) (elem : BitVec 6) (on : Bool) : State :=
  s.cfgCmd c false (fun st =>
    codeIf st.page.isNone 0x03 ++ codeIf (armChk rsv all elem).isSome 0x09 ++ codeIf (!nz all && fixedPos elem.toNat) 0x10)
    fun s st =>
      match st.page with
      | some page =>
        let st := s.stream c
        s.setStream c { st with arms := st.arms ++ (if nz all then armAll else [elem.toNat]).map fun p => (page, p, on) }
      | none => s
/-- What SEAL finds (R61): position, field, code, bank. -/
def State.sealErrs (s : State) (st : Stream) (page : Nat) : List (Nat × Nat × Nat × Nat) :=
  let bk := s.banksOf st
  let pages := s.streamPages st
  let all := (st.banksSince page st.start).flatMap fun bank =>
    let chain := chainBad (bk page bank)
    (upTo 64).flatMap fun pos => (elemErrs bk pages page bank pos chain).map fun e => (pos, e.1, e.2, bank)
  let headless := opOf (bk page 0 63) != 0xB7
  all ++ (if headless then [(63, 0, 0x06, 0)] else [])
/-- The first in the order of R61; of both banks, bank 0 (DESIGN CHOICE, log 95). -/
def firstErr : List (Nat × Nat × Nat × Nat) → Option (Nat × Nat × Nat × Nat)
  | [] => none
  | e :: r =>
    let key (x : Nat × Nat × Nat × Nat) : Nat := ((x.1 * 32 + x.2.1) * 256 + x.2.2.1) * 2 + x.2.2.2
    match firstErr r with
    | none => some e
    | some b => if key b < key e then some b else some e
/-- SEAL (R48, R61). -/
def State.cfgSeal (s : State) (c : Nat) (count : BitVec 19) : State :=
  let st := s.stream c
  match st.ended || st.pfx.isSome, st.page with
  | false, some page =>
    let cmd := st.cmds.getD st.idx 0
    match firstErr (s.sealErrs st page) with
    | some (pos, f, code, bank) =>
      let w := if code == 0x06 then (st.idx, cmd) else st.named page bank pos f st.start (st.idx, cmd)
      s.cfgFault c code w.1 w.2 bank
    | none =>
      if (st.idx - st.start - 1) % 2 ^ 19 != count.toNat then s.cfgFault c 0x0E st.idx cmd st.bank
      else (s.setStream c { st with page := none, bank := 0, closed := st.closed ++ [(page, st.idx, cmd)] }).cfgNext c
  | _, _ => s.cfgCmd c false (fun _ => [0x03]) fun s _ => s
/-- PREFIX (R49). -/
def State.cfgPrefix (s : State) (c : Nat) (hi : BitVec 30) : State :=
  s.cfgCmd c false (fun _ => []) fun s st => s.setStream c { s.stream c with pfx := some (st.idx, hi) }
/-- A reserved class, or a reserved CTRL operation or bit (R46, R48). -/
def State.cfgReserved (s : State) (c code : Nat) : State := s.cfgCmd c false (fun _ => [code]) fun s _ => s

def execField (elem : BitVec 6) (fd : BitVec 5) (val : BitVec 19) (s : State) : Out := .next (s.cfgField s.netHere elem fd val)
def execPage (rsv : BitVec 15) (page : BitVec 4) (s : State) : Out := .next (s.cfgPage s.netHere rsv page)
def execBank (rsv : BitVec 18) (bank : BitVec 1) (s : State) : Out := .next (s.cfgBank s.netHere rsv bank)
def execArm (rsv : BitVec 11) (all : BitVec 1) (elem : BitVec 6) (s : State) : Out := .next (s.cfgArm s.netHere rsv all elem true)
def execDisarm (rsv : BitVec 11) (all : BitVec 1) (elem : BitVec 6) (s : State) : Out := .next (s.cfgArm s.netHere rsv all elem false)
def execSealPage (count : BitVec 19) (s : State) : Out := .next (s.cfgSeal s.netHere count)
def execPfx (hi : BitVec 30) (s : State) : Out := .next (s.cfgPrefix s.netHere hi)
def execReservedClassCommand (_bits : BitVec 30) (s : State) : Out := .next (s.cfgReserved s.netHere 0x01)
def execReservedCtrlOperation (_opn : BitVec 4) (_rsv : BitVec 7) (_val : BitVec 19) (s : State) : Out :=
  .next (s.cfgReserved s.netHere 0x02)

/-- The next command of a stream that admission processes whole. -/
def State.cfgStep (s : State) (c : Nat) : State :=
  let st := s.stream c
  match decodeCmd (st.cmds.getD st.idx 0) with
  | .field elem fd val => s.cfgField c elem fd val
  | .page rsv page => s.cfgPage c rsv page
  | .bank rsv bank => s.cfgBank c rsv bank
  | .arm rsv all elem => s.cfgArm c rsv all elem true
  | .disarm rsv all elem => s.cfgArm c rsv all elem false
  | .sealPage count => s.cfgSeal c count
  | .pfx hi => s.cfgPrefix c hi
  | .reservedCtrlOperation .. => s.cfgReserved c 0x02
  | _ => s.cfgReserved c 0x01
/-- A whole stream, of an admission: the fault that stopped it, if any. -/
def State.cfgRun (s : State) (c : Nat) (st : Stream) : State × Option (Nat × Nat × Cmd × Nat × Nat) :=
  let s := st.cmds.foldl (fun s _ => s.cfgStep c) (s.setStream c st)
  ((s.modCore c fun k => { k with net := none }), (s.stream c).fault)

/-! ### CFGW (R385, R386) -/

/-- CFGW: the words are the agent's own reads; the firing parks until the network has processed them. -/
def opCfgw (f : XForm) (c n : Nat) : M Unit := do
  let s ← get
  let r := s.reg c n f.sa
  let cnt := (s.reg c n f.sc).toNat
  let h := fld r 52 12
  let o := fld r 0 52
  let bad : Stop := .trap 0x2A (word h) (word o)
  let begin : M Unit := do
    if cnt == 0 || 2 ^ 20 < cnt || o % 4 != 0 then stop bad
    else
      let l ← sideRef bad c r (4 * cnt) [1, 2] false
      let b ← readLoc c l (4 * cnt)
      if b.2.isSome then stop (asyncErr 0x41 h 0 0 o b.2)
      else
        let s ← get
        if s.netBusy c then parkNow c n { kind := .cfgw }
        else
          let own := s.own c
          let st : Stream :=
            { launch := own.launch, pset := own.pset, inst := own.inst, share := own.share, origin := some (c, n)
              cmds := (upTo cnt).map fun i => BitVec.ofNat 32 (leVal ((b.1.drop (4 * i)).take 4)) }
          setState (s.setStream c st)
          parkNow c n { kind := .cfgw, on := 1 }
  match s.given c n .cfgw with
  | some p =>
    if p.done then setState (s.modSlot c n fun x => (x.setReg f.dst.toNat p.val).retire)
    else if p.on == 1 then parkNow c n p
    else begin
  | none => begin
def execCfgw (f : XForm) (s : State) : Out := s.runActor s.here.1 s.here.2 (opCfgw f s.here.1 s.here.2)

end Sys2Proof.Machine
end

