-- ==== Sys2Proof/Machine/Actor.lean ====
section
/-!
DEFINITION. Actors at the actor port (14): RECV, SEND, PEEK, NOTE and FIREND (R364 to R368, R374), the firing rule and the
scheduler (R359 to R362), and the Lantern's dealing of records (R375 to R378).
-/
namespace Sys2Proof.Machine

/-! ### Channels of a slot (R356, R359) -/

/-- Tokens of a channel ahead of its first eos. -/
def aheadOfEos (q : List Slotted) : List Slotted := q.takeWhile fun x => x.tok.kind != .eos
/-- Is a token counted (R359)? -/
def Core.counts (k : Core) (x : Slotted) : Bool := x.tok.kind != .eos && !k.quenches x
/-- Counted tokens that a channel holds. -/
def Core.countedAt (k : Core) (q : List Slotted) : Nat := ((aheadOfEos q).filter k.counts).length
def Core.chan (k : Core) (ch : Nat) : List Slotted := (mgetD (k.elem 60).chans ch {}).q
def Core.setChan (k : Core) (ch : Nat) (q : List Slotted) : Core :=
  let e := k.elem 60
  k.setElem 60 { e with chans := mset e.chans ch { mgetD e.chans ch {} with q := q } }
/-- The declared count of an input channel, and of an output channel. -/
def Elem.inRate (e : Elem) (ch : Nat) : Nat := bindRate (e.binding ch)
def Elem.outRate (e : Elem) (ch : Nat) : Nat := bindRate (e.binding (8 + ch))
/-- Has every consumer of an output channel room for a number of tokens? -/
def State.chanRoom (s : State) (c ch n : Nat) : Bool :=
  (s.consumers c 60 ch).all fun dest =>
    let k := s.core dest.1
    let e := k.elem dest.2.1
    let p := e.port dest.2.2
    (8 ≤ dest.2.2 && (k.dropping (dest.2.2 - 8)).isSome)
      || (!e.closedTo dest.2.2 && p.landing.isNone && p.lane.isEmpty && p.used + n ≤ e.depth dest.2.2)

/-- May the consumers of an output channel take its producer's tokens (R391)? -/
def State.chanOpen (s : State) (c ch : Nat) : Bool :=
  (s.consumers c 60 ch).all fun dest => (8 ≤ dest.2.2 && ((s.core dest.1).dropping (dest.2.2 - 8)).isSome) || !(s.elem dest.1 dest.2.1).closedTo dest.2.2

/-- Remove the quenched tokens at the head of a channel, and give the token then at its head; an eos is none. -/
def chanHead (c ch : Nat) : M (Option Slotted) := do
  let s ← get
  let k := s.core c
  let q := (k.chan ch).dropWhile k.quenches
  setState (s.setCore c (k.setChan ch q))
  pure (q.head?.filter fun x => x.tok.kind != .eos)
/-- The input channel that a slot's port is bound to, within its count (R365). -/
def recvChan (c n port : Nat) : M Nat := do
  let s ← get
  let e := s.elem c 60
  match e.inChan n port with
  | none => trap 0x29
  | some ch => if e.inRate ch ≤ mgetD (s.slot c n).taken port 0 then trap 0x29 else pure ch

/-! ### RECV, PEEK, SEND and NOTE -/

/-- PORT, W and HDR of a channel instruction (R364). -/
def chPort (f : XForm) : Nat := ctlF f.ctl 0 4
def chWidth (f : XForm) : Nat := ctlF f.ctl 4 2
def chHdr (f : XForm) : Bool := ctlF f.ctl 6 1 == 1
/-- Write a payload to a register, or to a group of eight. -/
def Slot.setPayload (x : Slot) (r w n : Nat) : Slot :=
  if w == 2 then (upTo 8).foldl (fun x j => x.setReg (r + j) (word (bits n (64 * j) 64))) x else x.setReg r (word n)
/-- The payload in a register or group. -/
def Slot.payload (x : Slot) (r w : Nat) : Nat :=
  if w == 2 then ((upTo 8).map fun j => (x.reg (r + j)).toNat * 2 ^ (64 * j)).sum
  else if w == 1 then (x.reg r).toNat
  else (x.reg r).toNat % 2 ^ 32
/-- Payload and header of a token reach the registers. -/
def deliverToken (f : XForm) (t : Token) (x : Slot) : Slot :=
  let x := x.setPayload f.dst.toNat (chWidth f) (if t.isCtl then 0 else t.num)
  if chHdr f then x.setReg f.sd.toNat t.header else x

/-- RECV's removal of a token (R365). -/
def recvTake (f : XForm) (c n ch : Nat) (x : Slotted) : M Unit := do
  if x.tok.isData && x.tok.width != chWidth f then trap 0x29
  else modify fun s =>
    let s := s.modElem c 60 fun e => e.take (8 + ch)
    s.modSlot c n fun y =>
      let y := { y with taken := mset y.taken (chPort f) (mgetD y.taken (chPort f) 0 + 1) }
      (deliverToken f x.tok y).retire
/-- RECV (R365). A commit's answer is remembered with the set that it is about. -/
def opRecv (f : XForm) (c n : Nat) : M Unit := do
  let ch ← recvChan c n (chPort f)
  let s ← get
  -- an answer that has come is applied first
  match s.given c n .recv with
  | some p =>
    let set := BitVec.ofNat 24 p.val.toNat
    if p.done && p.flag then
      -- QUENCHED: the token is removed, if the filter has not removed it already
      modify fun s => s.modCore c fun k => match k.chan ch with
        | x :: r => if x.tok.isData && x.tok.set == set && set != 0 then k.setChan ch r else k
        | [] => k
    else if p.done && set != 0 then modify fun s => s.modElem c 60 fun e => { e with lastSealed := set }
    else pure ()
  | none => pure ()
  let waiting := match s.given c n .recv with | some p => !p.done && p.val != 0 | none => false
  match ← chanHead c ch with
  | none => parkNow c n { kind := .recv, on := ch }
  | some x =>
    let s ← get
    let t := x.tok
    if t.isPoison then stop (faultAt 0x23 (8 + ch) x)
    else if t.isData && t.set != 0 && t.set != (s.elem c 60).lastSealed then
      if waiting then parkNow c n ((s.given c n .recv).getD { kind := .recv })
      else do
        let q := s.askCommit c t.set (.actor c n)
        setState q.1
        parkNow c n { kind := .recv, on := q.2, val := word t.set.toNat }
    else recvTake f c n ch x

/-- PEEK (R366): a head in the overflow range is looked up first (R168). -/
def opPeek (f : XForm) (c n : Nat) : M Unit := do
  let ch ← recvChan c n (chPort f)
  match ← chanHead c ch with
  | none => parkNow c n { kind := .peek, on := ch }
  | some x =>
    let s ← get
    if (s.core c).asks x then
      match execOverflowLookup c 60 (8 + ch) s with
      | .next s => do
        setState s
        parkNow c n { kind := .peek, on := ch }
      | _ => pure ()
    else if x.tok.isData && x.tok.width != chWidth f then trap 0x29
    else modify fun s => s.modSlot c n fun y => (deliverToken f x.tok y).retire

/-- The token that SEND places, from its payload register and header (R367); none where the header is refused. -/
def sentToken (x : Slot) (f : XForm) : Option Token :=
  let w := chWidth f
  let pay := payOf (x.payload f.sa.toNat w)
  if !chHdr f then some { width := w, pay := pay }
  else
    let h := x.reg f.sb.toNat
    let kind := fld h 0 3
    let lvl := fld h 3 3
    let set : BitVec 24 := BitVec.ofNat 24 (fld h 6 24)
    let worth : BitVec 16 := BitVec.ofNat 16 (fld h 30 16)
    if 5 ≤ kind || lvl == 7 || fld h 46 18 != 0 || (3 ≤ kind && (set != 0 || worth != 0)) then none
    else if kind == 3 then some (stopTok lvl)
    else if kind == 4 then some doneTok
    else some { width := w, worth := worth, set := set, kind := if kind == 1 then .crd else if kind == 2 then .ref else .val, pay := pay }
/-- SEND (R367). It never waits for room, which R359 has found; a consumer that has been armed since may not take the old producer's
tokens yet (R391). -/
def opSend (f : XForm) (c n : Nat) : M Unit := do
  let s ← get
  let e := s.elem c 60
  match e.outChan n (chPort f) with
  | none => trap 0x29
  | some ch =>
    if e.outRate ch ≤ mgetD (s.slot c n).sent (chPort f) 0 then trap 0x29
    else
      match sentToken (s.slot c n) f with
      | none => trap 0x29
      | some t =>
        if !s.chanOpen c ch then stop (.wait { kind := .bank, on := ch })
        else modify fun s =>
          (s.emit c 60 ch t).modSlot c n fun y =>
            { y with sent := mset y.sent (chPort f) (mgetD y.sent (chPort f) 0 + 1) }.retire

/-- NOTE (R368): it reads WR as an acquire at `.pkg`, an access that the scope checker checks (R253). -/
def opNote (f : XForm) (c n : Nat) : M Unit := do
  let l := ((← get).own c).launch
  (match (← get).noteArea l with
   | some va => do
     noteTouch c l
     scopeAt false c 0 0 4 (.mem ((← get).ctxOf c) (va + 8) 3 false)
   | none => pure ())
  let s ← get
  let answer (v : Word) (seq : Nat) : M Unit := do
    acquireAt c 4 everyLine
    modify fun s => s.modSlot c n fun x => ((x.setReg f.dst.toNat v).setReg (f.dst + 1).toNat (word seq)).retire
  match s.noticeAt l with
  | some (note, rd) => do
    setState (s.noticeTaken l rd)
    answer (word (noticeTok note).num) (fld note.w1 16 40)
  | none =>
    if (s.launch l).img.osnew.isEmpty then answer (word (3 * 2 ^ 62)) 0
    else if ctlF f.ctl 0 1 == 0 then answer (word (2 ^ 63)) 0
    else if s.noticesOver l then answer (word (3 * 2 ^ 62)) 0
    else parkNow c n { kind := .note }

/-- FIREND (R374). It issues once nothing of the firing is still to come back (R218). A source actor whose page's sources have ended is finished (R392). -/
def opFirend (f : IForm) (c n : Nat) : M Unit := modify fun s =>
  let e := s.elem c 60
  if ctlF f.imm 0 1 == 1 || (e.ending && (e.inChans n).isEmpty) then s.finishSlot c n else s.endFiring c n

def execRecv (f : XForm) (s : State) : Out := s.runActor s.here.1 s.here.2 (opRecv f s.here.1 s.here.2)
def execPeek (f : XForm) (s : State) : Out := s.runActor s.here.1 s.here.2 (opPeek f s.here.1 s.here.2)
def execSend (f : XForm) (s : State) : Out := s.runActor s.here.1 s.here.2 (opSend f s.here.1 s.here.2)
def execNote (f : XForm) (s : State) : Out := s.runActor s.here.1 s.here.2 (opNote f s.here.1 s.here.2)
def execFirend (f : IForm) (s : State) : Out := s.runActor s.here.1 s.here.2 (opFirend f s.here.1 s.here.2)

/-! ### The scheduler (R359 to R361) -/

/-- Is a slot ready (R359)? A source actor waits besides for its page's head to let sources run. -/
def State.slotReady (s : State) (c n : Nat) : Bool :=
  let k := s.core c
  let e := k.elem 60
  let x := k.slot n
  x.status == .idle && s.pageLive c
    && (!(e.inChans n).isEmpty || (s.sourcesRun c && !e.ending))
    && (e.inChans n).all (fun ch => e.inRate ch ≤ k.countedAt (k.chan ch))
    && (e.outChans n).all (fun ch => s.chanRoom c ch (e.outRate ch))

/-- Has the wait of a parked firing ended (R361)? -/
def State.woken (s : State) (c n : Nat) (p : Park) : Bool :=
  let k := s.core c
  let l := (s.own c).launch
  p.done ||
  match p.kind with
  | .copyQueue => k.qRoom p.on
  | .seqQueue => k.seqRoom
  | .belfryQueue => s.belfryRoom (dieOf c) p.on
  | .oclaim => if p.flag then !(k.tile p.on).releasing else !(k.opSlot p.on).releasing
  | .busy =>
    let x := s.ctxOf c
    if p.flag then (match s.ctxRead x (p.on + 120) 8 with | some b => leVal b < 2 ^ 63 | none => true)
    else if p.on == 0 then s.pzBusy.isNone
    else k.handles.any (fun v => v.ctx == x && v.idx == p.on - 1) || (match s.handleMem x (p.on - 1) with | some e => !hBusy e | none => true)
  | .translation => !s.xfaults.any (·.ord == p.on)
  | .order => if p.flag then !s.coreWaits c p.on
    else !s.accessPending (s.actorSrc c n) && (p.on == 0 || !s.remotePending (s.actorSrc c n))
  | .drain => !k.requests.any fun r => r.id < p.on && r.onPath p.val.toNat
  | .launchQueue => s.queueRoom (s.ctxOf c) p.on
  | .recv => p.val == 0 && 0 < k.countedAt (k.chan p.on)
  | .peek => 0 < k.countedAt (k.chan p.on)
  | .note => (s.noticeAt l).isSome || s.noticesOver l
  | .sysc => s.sysGoes (s.ctxOf c)
  | .bank => s.chanOpen c p.on
  | .cfgw => p.on == 0 && !s.netBusy c
  | _ => false
/-- Is a slot a candidate of a scheduling round (R360)? -/
def State.candidateSlot (s : State) (c n : Nat) : Bool :=
  let x := s.slot c n
  s.pageLive c &&
  match x.status with
  | .idle => s.slotReady c n
  | .parked => (match x.park with | some p => s.woken c n p | none => false)
  | _ => false

/-- The candidate that a round takes: the one passed over longest, from 15 rounds on, else by class and rotation. -/
def Core.choose (k : Core) (cands : List Nat) : Option Nat :=
  let old := cands.filter fun n => 15 ≤ (k.slot n).passed
  match old with
  | a :: r => some (r.foldl (fun b n => if (k.slot b).passed < (k.slot n).passed then n else b) a)
  | [] =>
    let e := k.elem 60
    match (cands.map e.cls).min? with
    | none => none
    | some cl =>
      let mine := cands.filter fun n => e.cls n == cl
      match mget k.rr cl with
      | some last => (mine.find? (last < ·)).or mine.head?
      | none => mine.head?
/-- A firing starts (R28, R29): working registers hold anything, held registers keep their values. -/
def Slot.fire (x : Slot) (t : Nat) : Slot :=
  { x with status := .firing, pc := x.entry, serial := x.serial + 1, issued := 0, taken := [], sent := [], park := none, under := none
           cand := false, passed := 0, poisoned := x.poisoned.filter (24 ≤ ·)
           regs := (upTo 24).foldl (fun m i => mset m i (Config.freeReg t i)) x.regs }
/-- SCHEDULING_ROUND (R360). -/
def execSchedulingRound (core : Nat) (s : State) : Out :=
  let k := s.core core
  if k.running.isSome then .next s
  else
    let cands := (upTo 16).filter (s.candidateSlot core)
    match k.choose cands with
    | none => .next s
    | some n =>
      .next (s.modCore core fun k =>
        let k := { k with
          running := some n
          rr := mset k.rr ((k.elem 60).cls n) n
          slots := k.slots.map fun (x : Nat × Slot) =>
            (x.1, if cands.contains x.1 then { x.2 with passed := (if x.2.cand then x.2.passed else 0) + 1, cand := true }
              else { x.2 with passed := 0, cand := false }) }
        let x := k.slot n
        k.setSlot n (if x.status == .idle then x.fire s.tick else { x with status := .firing, cand := false, passed := 0 }))

/-! ### SLOT_FINISH (R362) -/

/-- Send eos on the outputs of a finished slot that have room. -/
def State.sendDue (s : State) (c n : Nat) : State :=
  (s.slot c n).eosDue.foldl (fun s ch =>
    if s.canEmit c 60 ch true then
      (s.emit c 60 ch eosTok).modSlot c n fun x => { x with eosDue := ldel x.eosDue ch }
    else s) s
/-- SLOT_FINISH: an idle slot whose inputs all hold eos is finished, or misaligned (fault 0x2D); a finished one sends its eos. -/
def execSlotFinish (core slot : Nat) (s : State) : Out :=
  let k := s.core core
  let e := k.elem 60
  let x := k.slot slot
  let ins := e.inChans slot
  if !s.pageLive core then .next s
  else if x.status == .finished then .next (s.sendDue core slot)
  else if x.status != .idle || ins.isEmpty || !(ins.all fun ch => (k.chan ch).any fun t => t.tok.kind == .eos) then .next s
  else if ins.all fun ch => k.countedAt (k.chan ch) == 0 then .next (s.finishSlot core slot)
  else if ins.any fun ch => k.countedAt (k.chan ch) < e.inRate ch then .next (s.elemFault core 60 0x2D slot 0 slot 0 0 0 0)
  else .next s

/-! ### Job cards and the Lantern (R375 to R378) -/

/-- The core and channel that take the records of an instance of a share. -/
def State.jobChan (s : State) (l share inst : Nat) : Option (Nat × Nat) :=
  (s.coresOf l (some share)).findSome? fun k =>
    if (k.2.own.map (·.inst)) != some inst then none
    else
      let e := k.2.elem 60
      ((upTo 8).find? fun ch => bindV (e.binding ch) && e.src (8 + ch) == jobSource).map fun ch => (k.1, ch)
/-- Records, instances and minimum chunk of a launch (R399). -/
def Launch.nrec (k : Launch) : Nat := fld (k.pkt.getD 1 0) 0 32
def Launch.insts (k : Launch) : Nat := fld (k.pkt.getD 0 0) 38 4 + 1
def Launch.minChunk (k : Launch) : Nat := fld (k.pkt.getD 1 0) 32 32
/-- End of a share's records (R32). -/
def Launch.shareEnd (k : Launch) (d : Nat) : Nat := shareLo k.nrec k.dies.length (d + 1)
def Launch.cursorOf (k : Launch) (d : Nat) : Nat := mgetD k.cursor d (shareLo k.nrec k.dies.length d)
/-- Change a Lantern's dealing to an instance. -/
def State.modDeal (s : State) (l share inst : Nat) (f : Deal → Deal) : State :=
  s.modLaunch l fun k => { k with deals := k.deals.map fun d => if d.share == share && d.inst == inst then f d else d }
/-- Do the Lanterns deal (R403)? -/
def Launch.dealing (k : Launch) : Bool := k.phase == .running && k.failed.isNone && k.img.job.isSome
/-- LANTERN_DEAL (R377, R378): the next record of an instance enters its job channel, and eos after the last. -/
def execLanternDeal (launch share inst : Nat) (s : State) : Out :=
  let k := s.launch launch
  match k.deals.find? fun d => d.share == share && d.inst == inst with
  | none => .next s
  | some d =>
    match s.jobChan launch share inst with
    | none => .next s
    | some (c, ch) =>
      let dest := (c, 60, 8 + ch)
      if !k.dealing || !s.sourcesRun c then .next s
      else if d.next < d.stop then
        if !s.canTake dest false then .next s
        else .next ((s.arrive dest { width := 1, pay := payOf (d.next % 2 ^ 32) }).modDeal launch share inst fun d =>
          { d with next := d.next + (if k.elastic then 1 else k.insts) })
      else if d.eosSent || (k.elastic && k.cursorOf share < k.shareEnd share) || !s.canTake dest true then .next s
      else .next ((s.arrive dest eosTok).modDeal launch share inst fun d => { d with eosSent := true })
/-- Does an instance of a share ask for records (R378): its chunk is dealt and its job channel holds no token? -/
def State.asksChunk (s : State) (l share inst : Nat) : Bool :=
  match (s.launch l).deals.find? (fun d => d.share == share && d.inst == inst), s.jobChan l share inst with
  | some d, some (c, ch) => d.stop ≤ d.next && ((s.core c).chan ch).isEmpty
  | _, _ => false
/-- CHUNK_REQUEST (R378). Of the instances that ask, the lowest is served first. -/
def execChunkRequest (launch share inst : Nat) (s : State) : Out :=
  let k := s.launch launch
  let nx := k.cursorOf share
  let left := k.shareEnd share - nx
  if !k.dealing || !k.elastic || left == 0 || (upTo k.insts).find? (s.asksChunk launch share) != some inst then .next s
  else
    let n := min left (max k.minChunk (cdiv left (2 * k.insts)))
    .next ((s.modLaunch launch fun k => { k with cursor := mset k.cursor share (nx + n) }).modDeal launch share inst fun d =>
      { d with next := nx, stop := nx + n })

end Sys2Proof.Machine
end

