-- ==== Sys2Proof/Machine/Ed25519.lean ====
section
/-!
DEFINITION. Ed25519 verification, which R101 and R432 name and the manual does not restate: the function of RFC 8032 over bytes
(PRESUMED, log 29). Points are in extended coordinates x = X/Z, y = Y/Z, xy = T/Z modulo 2^255 − 19.
-/
namespace Sys2Proof.Ed25519

/-- The field's prime and the order of the base point. -/
def prime : Nat := 2 ^ 255 - 19
def order : Nat := 2 ^ 252 + 27742317777372353535851937790883648493

def fadd (a b : Nat) : Nat := (a + b) % prime
def fsub (a b : Nat) : Nat := (a + prime - b % prime) % prime
def fmul (a b : Nat) : Nat := a * b % prime
/-- Powers by squaring, over the bits of an exponent from the top. -/
def fpowBits (a : Nat) : List Bool → Nat → Nat
  | [], r => r
  | b :: bs, r => fpowBits a bs (let q := fmul r r; if b then fmul q a else q)
/-- The low `n` bits of a number, top first. -/
def bitsTop (n v : Nat) : List Bool := (upTo n).reverse.map fun i => v.testBit i
def fpow (a e : Nat) : Nat := fpowBits a (bitsTop 255 e) 1
def finv (a : Nat) : Nat := fpow a (prime - 2)

/-- The curve's constant d = −121665/121666, and a square root of −1. -/
def curveD : Nat := 37095705934669439343138083508754565189542113879843219016388785533085940283555
def sqrtM1 : Nat := 19681161376707505956807079304988542015446066515923890162744021073123829784752

structure Point where
  x : Nat
  y : Nat
  z : Nat
  t : Nat
  deriving DecidableEq, Repr

def Point.zero : Point := ⟨0, 1, 1, 0⟩
def Point.ofAffine (x y : Nat) : Point := ⟨x, y, 1, fmul x y⟩
def base : Point := Point.ofAffine
  15112221349535400772501151409588531511454012693041857206046113283949847762202
  46316835694926478169428394003475163141307993866256225615783033603165251855960

/-- Addition, complete on this curve. -/
def Point.add (p q : Point) : Point :=
  let a := fmul (fsub p.y p.x) (fsub q.y q.x)
  let b := fmul (fadd p.y p.x) (fadd q.y q.x)
  let c := fmul (fmul (2 * p.t) curveD) q.t
  let d := fmul (2 * p.z) q.z
  let e := fsub b a
  let f := fsub d c
  let g := fadd d c
  let h := fadd b a
  ⟨fmul e f, fmul g h, fmul f g, fmul e h⟩
def Point.neg (p : Point) : Point := ⟨fsub 0 p.x, p.y, p.z, fsub 0 p.t⟩
/-- A multiple of a point, over the bits of the factor from the top. -/
def Point.mulBits (p : Point) : List Bool → Point → Point
  | [], r => r
  | b :: bs, r => p.mulBits bs (let q := r.add r; if b then q.add p else q)
def Point.mul (p : Point) (n : Nat) : Point := p.mulBits (bitsTop 256 n) Point.zero

/-- The 32 bytes of a point. -/
def Point.encode (p : Point) : List Byte :=
  let i := finv p.z
  leBytes 32 (fmul p.y i + fmul p.x i % 2 * 2 ^ 255)
/-- The point that 32 bytes name; none where there is none. -/
def decode (bs : List Byte) : Option Point :=
  let v := leVal bs
  let y := v % 2 ^ 255
  let sign := v / 2 ^ 255
  if prime ≤ y then none
  else
    let y2 := fmul y y
    let u := fsub y2 1
    let w := fadd (fmul curveD y2) 1
    let w3 := fmul (fmul w w) w
    let r := fmul (fmul u w3) (fpow (fmul u (fmul (fmul w3 w3) w)) ((prime - 5) / 8))
    let c := fmul w (fmul r r)
    let x := if c == u then some r else if c == fsub 0 u then some (fmul r sqrtM1) else none
    match x with
    | none => none
    | some x =>
      if x == 0 && sign == 1 then none
      else some (Point.ofAffine (if x % 2 == sign then x else fsub 0 x) y)

/-- Does a signature of 64 bytes verify over a message under a key of 32 bytes? -/
def verify (key msg sig : List Byte) : Bool :=
  let s := leVal (sig.drop 32)
  key.length == 32 && sig.length == 64 && s < order &&
  match decode key with
  | none => false
  | some a =>
    let k := leVal (Sha.sha512 (sig.take 32 ++ key ++ msg)) % order
    ((base.mul s).add (a.neg.mul k)).encode == sig.take 32

end Sys2Proof.Ed25519
end

