-- ==== Sys2Proof/Machine/Image.lean ====
section
/-!
DEFINITION. Team images (03 R91 to R101) and what a tenant's guest writes to its guest page (16 R429): the parts of a QBO file,
the measurement, ADMIT; the append of a packet by LAUNCH and DOORBELL (15 R398, R400), and HINV from the guest.
-/
namespace Sys2Proof.Machine

/-! ### The file (R91 to R97) -/

/-- A little-endian number in a list of bytes. -/
def numAt (bs : List Byte) (o n : Nat) : Nat := leVal ((bs.drop o).take n)
/-- Are all bytes of a list zero? -/
def allZero (bs : List Byte) : Bool := bs.all (· == 0)

/-- A section: header and contents. -/
structure Sect where
  hdr  : List Byte := []
  body : List Byte := []
  deriving DecidableEq, Repr, Inhabited

def Sect.typ (x : Sect) : Nat := numAt x.hdr 4 4
def Sect.link (x : Sect) : Nat := numAt x.hdr 32 4
def Sect.info (x : Sect) : Nat := numAt x.hdr 36 4
/-- A section header is well formed as far as it alone can say (R92). -/
def sectOk (h : List Byte) : Bool :=
  1 ≤ numAt h 4 4 && numAt h 4 4 ≤ 13 && numAt h 8 4 ≤ 1 && numAt h 12 4 ≤ 16 && allZero ((h.drop 40).take 8)
    && (numAt h 4 4 != 4 || numAt h 24 8 == 0)
/-- The file's header is well formed and is that of a team image (R91). -/
def fileOk (h : List Byte) : Bool :=
  numAt h 0 4 == 0x4F4251 && numAt h 4 2 == 1 && numAt h 6 2 == 2 && numAt h 8 4 ≤ 1 && 1 ≤ numAt h 12 4 && numAt h 12 4 ≤ 65534
    && numAt h 16 8 % 8 == 0 && numAt h 24 4 < numAt h 12 4 && allZero ((h.drop 28).take 36)
/-- Is SIGNED set? -/
def signedBit (h : List Byte) : Bool := numAt h 8 4 == 1

/-- The sections of a file loaded at a device virtual address; none where it cannot be read or a header is malformed. The file lies there as
it is written, each section's contents at its OFFSET (DESIGN CHOICE, log 99: R98 does not say how a loaded image lies). -/
def State.sections (s : State) (x va : Nat) (hdr : List Byte) : Option (List Sect) :=
  (upTo (numAt hdr 12 4)).foldl (fun acc i => acc.bind fun ss =>
    (s.ctxRead x (va + numAt hdr 16 8 + 48 * i) 48).bind fun h =>
      if i == 0 then (if allZero h then some [{ hdr := h }] else none)
      else if !sectOk h then none
      else if numAt h 4 4 == 4 then some (ss ++ [{ hdr := h }])
      else (s.ctxRead x (va + numAt h 24 8) (numAt h 16 8)).map fun b => ss ++ [{ hdr := h, body := b }]) (some [])

/-- The entries of a table, each of n bytes. -/
def Sect.entries (x : Sect) (n : Nat) : List (List Byte) := (upTo (x.body.length / n)).map fun i => (x.body.drop (n * i)).take n
/-- Symbols of a table (R93). -/
def Sect.syms (x : Sect) : List (List Byte) := x.entries 24
/-- Is an index that of a section of a type? -/
def hasType (ss : List Sect) (i ty : Nat) : Bool := (ss[i]?.map Sect.typ) == some ty
/-- A symbol is well formed (R93): KIND, BIND, SECT and NAME. -/
def symOk (ss : List Sect) (names : Nat) (e : List Byte) : Bool :=
  numAt e 6 1 ≤ 11 && numAt e 7 1 ≤ 1 && (numAt e 4 2 < ss.length || numAt e 4 2 == 0xFFFF) && numAt e 0 4 < names
/-- A relocation is well formed (R94, R95). KIND 0 stands in no row of R95: the entry patches nothing (DESIGN CHOICE, log 96). -/
def relocOk (syms : Nat) (e : List Byte) : Bool :=
  let unit := numAt e 15 1
  numAt e 12 1 ≤ 9 && allZero (e.drop 24) && numAt e 8 4 < syms && (unit == 4 || unit == 8) && numAt e 0 8 % unit == 0
    && 1 ≤ numAt e 14 1 && numAt e 14 1 ≤ 64 && numAt e 13 1 + numAt e 14 1 ≤ 8 * unit
/-- A section is well formed among the others: LINK, INFO and the entries of tables (R92 to R95). -/
def Sect.tableOk (ss : List Sect) (x : Sect) : Bool :=
  let syms (i : Nat) : Nat := (ss[i]?.map (·.syms.length)).getD 0
  if x.typ == 2 then hasType ss x.link 5 && x.info < syms x.link
  else if x.typ == 5 then
    hasType ss x.link 6 && x.body.length % 24 == 0 && x.info ≤ x.syms.length
      && x.syms.all (symOk ss ((ss[x.link]?.map (·.body.length)).getD 0))
      -- local symbols come before global ones
      && (x.syms.take x.info).all (fun e => numAt e 7 1 == 0) && (x.syms.drop x.info).all (fun e => numAt e 7 1 == 1)
  else if x.typ == 7 then
    1 ≤ x.link && x.link < ss.length && hasType ss x.info 5 && x.body.length % 32 == 0 && (x.entries 32).all (relocOk (syms x.info))
  else if 8 ≤ x.typ && x.typ ≤ 12 then hasType ss x.link 5 && x.info == 0
  else x.link == 0 && x.info == 0
    && (x.typ != 6 || (x.body.head? == some 0 && x.body.getLast? == some 0)) && (x.typ != 1 || x.body.length % 8 == 0)
/-- SHSTR names a string table, in which every section's name begins (R91, R92). -/
def namesOk (hdr : List Byte) (ss : List Sect) : Bool :=
  match ss[numAt hdr 24 4]? with
  | some t => t.typ == 6 && ss.all fun x => numAt x.hdr 0 4 < t.body.length
  | none => false

/-- The fields that the loader patches in a section: offset of the unit, its bytes, low bit, width (R94, R95). -/
def patchesOf (ss : List Sect) (i : Nat) : List (Nat × Nat × Nat × Nat) :=
  (ss.filter fun r => r.typ == 7 && r.link == i).flatMap fun r =>
    (r.entries 32).filterMap fun e =>
      if [1, 3, 4, 9].contains (numAt e 12 1) then some (numAt e 0 8, numAt e 15 1, numAt e 13 1, numAt e 14 1) else none
/-- A unit with a field taken as zero. -/
def unpatch (bs : List Byte) (p : Nat × Nat × Nat × Nat) : List Byte :=
  let v := numAt bs p.1 p.2.1
  if bs.length < p.1 + p.2.1 then bs
  else bs.take p.1 ++ leBytes p.2.1 (v - bits v p.2.2.1 p.2.2.2 * 2 ^ p.2.2.1) ++ bs.drop (p.1 + p.2.1)
/-- What the measurement M is the digest of (R100). -/
def measured (hdr : List Byte) (ss : List Sect) : List Byte :=
  hdr.take 12 ++ ss.zipIdx.flatMap fun x =>
    if x.1.typ == 13 then []
    else x.1.hdr.take 24 ++ List.replicate 8 0 ++ x.1.hdr.drop 32 ++ (patchesOf ss x.2).foldl unpatch x.1.body
/-- The signed note (R99): MEAS, PUBK and SIG. -/
def noteOf (ss : List Sect) : Option (List Byte × List Byte × List Byte) :=
  match ss.filter (·.typ == 13) with
  | [n] =>
    let b := n.body
    let name : List Byte := ([71, 108, 111, 114, 118, 97, 115, 101, 110, 0, 0, 0] : List Nat).map fun c => BitVec.ofNat 8 c
    if b.length == 184 && numAt b 0 4 == 10 && numAt b 4 4 == 160 && numAt b 8 4 == 1 && (b.drop 12).take 12 == name then
      some ((b.drop 24).take 64, (b.drop 88).take 32, (b.drop 120).take 64)
    else none
  | _ => none

/-! ### The image (R97, R98, R160) -/

/-- Fields that a stream leaves in its pages, by page, bank, position and field, as far as fields 0 and 14 (R46 to R49). -/
def streamFields (cmds : List Cmd) : AMap Nat :=
  let key (page bank pos f : Nat) : Nat := ((page * 2 + bank) * 64 + pos) * 32 + f
  (cmds.foldl (fun (a : (Nat × Nat) × AMap Nat) w =>
    match decodeCmd w with
    | .page _ p => ((p.toNat, 0), a.2)
    | .bank _ b => ((a.1.1, b.toNat), a.2)
    | .field e f v => if f = 0 ∨ f = 14 then (a.1, mset a.2 (key a.1.1 a.1.2 e.toNat f.toNat) v.toNat) else a
    | _ => a) ((0, 0), [])).2
/-- The elements that a stream configures: bank, position, opcode, MODE. -/
def streamOps (cmds : List Cmd) : List (Nat × Nat × Nat × Nat) :=
  let m := streamFields cmds
  m.filterMap fun e =>
    if e.1 % 32 == 0 then some (e.1 / 2048 % 2, e.1 / 32 % 64, bits e.2 11 8, bits (mgetD m (e.1 + 14) 0) 4 15) else none
/-- Declaration indices of the OSNEW elements of a team, in either bank (R160). -/
def declsOf (psets : List PageSet) : List Nat :=
  (psets.flatMap fun p => (streamOps p.stream).filterMap fun e => if e.2.2.1 == 0x55 then some (bits e.2.2.2 0 8) else none).eraseDups
/-- Has a team a page with DRY (R393)? -/
def Image.dry (k : Image) : Bool :=
  k.psets.any fun p => (streamOps p.stream).any fun e => e.1 == 0 && e.2.1 == 63 && e.2.2.1 == 0xB7 && bitAt e.2.2.2 4
/-- Commands of a stream. -/
def cmdsOf (b : List Byte) : List Cmd := (upTo (b.length / 4)).map fun i => BitVec.ofNat 32 (numAt b (4 * i) 4)
/-- Pages of a team (R97). -/
def Image.pages (k : Image) : Nat := (k.psets.map (·.pages)).sum

/-- A page set: the .cfg section at an index, its page count from its symbol (R92, R93). -/
def pageSetOf (ss : List Sect) (i : Nat) : Option PageSet :=
  (ss[i]?).bind fun c =>
    (ss[c.link]?).bind fun t =>
      let sym := (t.body.drop (24 * c.info)).take 24
      let n := numAt sym 16 8
      if c.typ == 2 && c.body.length % 4 == 0 && t.typ == 5 && sym.length == 24 && numAt sym 6 1 == 4 && 1 ≤ n && n ≤ 16 then
        some { pages := n, stream := cmdsOf c.body }
      else none
/-- Where a .code section begins in the team's code, and its bytes: an actor's entry counts in the section that its symbol names
(DEDUCED, log 98). -/
def codeAt (ss : List Sect) (i : Nat) : Option (Nat × Nat) :=
  (ss[i]?).bind fun x =>
    if x.typ == 1 then some ((((ss.take i).filter (·.typ == 1)).map (·.body.length)).sum, x.body.length) else none
/-- The actors of a team (R93, R97): the KIND 3 symbols of its table, with slots in their order on each page, from 0, 16 at most. -/
def actorsOf (raw : List Byte) (ss : List Sect) (syms : List (List Byte)) : Option (List ActorRec) :=
  syms.zipIdx.foldl (fun acc e => acc.bind fun as =>
    if numAt e.1 6 1 != 3 then some as
    else match Config.imageActorPage raw e.2 with
      | none => some as
      | some (pset, lpg) =>
        let slot := (as.filter fun a => a.pset == pset && a.lpg == lpg).length
        let v := numAt e.1 8 8
        let n := numAt e.1 16 8
        (codeAt ss (numAt e.1 4 2)).bind fun b =>
          if 16 ≤ slot || v % 8 != 0 || b.2 < v + n then none
          else some (as ++ [{ pset := pset, lpg := lpg, slot := slot, entry := b.1 + v, stop := b.1 + v + n }])) (some [])
/-- The pipes of a team (R97): each takes the first free output e56.x, e56.y, … e59.y of its consumer page, in .pipe order; a page has 8
inbound and 8 outbound ones at most. -/
def pipesOf (raw : List Byte) (n : Nat) : Option (List Pipe) :=
  (upTo n).foldl (fun acc i => acc.bind fun ps =>
    let (pset, lpg, pos, port, cpset, clpg) := Config.imagePipe raw i
    let bout := (ps.filter fun p => p.cpset == cpset && p.clpg == clpg).length
    if 8 ≤ bout || 8 ≤ (ps.filter fun p => p.pset == pset && p.lpg == lpg).length then none
    else some (ps ++ [{ pset := pset, lpg := lpg, pos := pos, port := port, cpset := cpset, clpg := clpg, bout := bout }])) (some [])
/-- The team of an image; none where its records are malformed. A team without a page set is one of these (DESIGN CHOICE, log 97). -/
def imageOf (x : Nat) (hdr : List Byte) (ss : List Sect) : Option Image :=
  match ss.filter (·.typ == 8) with
  | [t] =>
    let b := t.body
    let n := numAt b 6 1
    let psets := (upTo n).filterMap fun i => pageSetOf ss (numAt b (16 + 4 * i) 4)
    let raw := hdr ++ ss.flatMap fun s => s.hdr ++ s.body
    let syms := ((ss[t.link]?).map Sect.syms).getD []
    let outs := (ss.filter (·.typ == 12)).flatMap (·.body)
    let decls := declsOf psets
    if b.length < 16 + 4 * n || 2 < numAt b 4 1 || 1 < numAt b 5 1 || n == 0 || psets.length != n || !allZero ((b.drop 12).take 4)
       || 64 < (psets.map (·.pages)).sum || outs.length != 24 * numAt b 10 2
       || !((upTo (numAt b 10 2)).all fun i => allZero ((outs.drop (24 * i + 4)).take 4)) then none
    else
      (actorsOf raw ss syms).bind fun actors => (pipesOf raw (numAt b 7 1)).map fun pipes =>
        { ctx := x
          mode := numAt b 4 1
          fuse := numAt b 5 1 == 1
          psets := psets
          code := (ss.filter (·.typ == 1)).flatMap fun c => wordsOf (c.body.length / 8) c.body
          actors := actors
          pipes := pipes
          job := if ss.any (·.typ == 9) then Config.imageJob raw (numAt b 8 2) else none
          wins := (upTo (numAt b 10 2)).map fun i =>
            { hnd := Config.imageHandle raw (numAt outs (24 * i) 4) % 4096, ofs := numAt outs (24 * i + 8) 8
              len := numAt outs (24 * i + 16) 8 }
          ndecl := (decls.foldl Nat.max 0) + 1
          osnew := decls }
  | _ => none

/-! ### ADMIT (R101, R429) -/

/-- The keys that the supervisor accepts for a context's images (R407): 32 bytes each at P, read under key entry 0. -/
def State.acceptedKeys (s : State) (x : Nat) : List (List Byte) :=
  let a := (s.ctx x).akl
  (upTo (fld a 56 8)).map fun i => s.readHome (fld a 0 52 + 32 * i) 32 0
/-- Check an image (R91 to R101): the image, or the reason of its refusal. Where several conditions fail, a malformed file is reported before
its signature, and that before its key (DESIGN CHOICE, log 100). -/
def State.checkImage (s : State) (x va : Nat) : Except Nat Image :=
  match s.ctxRead x va 64 with
  | none => .error 3
  | some hdr =>
    match if fileOk hdr then s.sections x va hdr else none with
    | none => .error 3
    | some ss =>
      match if namesOk hdr ss && ss.all (Sect.tableOk ss) then imageOf x hdr ss else none with
      | none => .error 3
      | some k =>
        match if signedBit hdr then noteOf ss else none with
        | none => .error 1
        | some (meas, key, sig) =>
          if Sha.sha512 (measured hdr ss) != meas || !Ed25519.verify key meas sig then .error 1
          else if !(s.acceptedKeys x).contains key then .error 2
          else .ok { k with meas := meas, system := s.sysKeys.contains key }
/-- A team number: the one the package gives, or the lowest unused where that is taken. -/
def State.teamNumber (s : State) : Option Nat :=
  let n := Config.freeTeam s.tick % 2 ^ 32
  if (mget s.images n).isNone then some n
  else ((upTo (s.images.length + 1)).find? fun i => (mget s.images i).isNone).filter (· < 2 ^ 32)
/-- What a read of ADMIT gives after a refusal. -/
def refusedWord (reason : Nat) : Word := word (2 ^ 63 + reason * 2 ^ 56)
/-- Is a context one of the sixteen, and enabled (R42, R407)? -/
def State.enabled (s : State) (x : Nat) : Bool := x < 16 && fld (s.ctx x).ctl 0 1 == 1
/-- ADMIT (R101, R429): streams and code are copied (R98). -/
def execAdmitImage (ctx : Nat) (addr : Word) (s : State) : Out :=
  if !s.enabled ctx then .next s
  else
    let answer (s : State) (w : Word) : Out := .next (s.modCtx ctx fun c => { c with admitR := w })
    match s.checkImage ctx addr.toNat with
    | .error r => answer s (refusedWord r)
    | .ok k =>
      match s.teamNumber with
      | none => answer s (refusedWord 4)
      | some n => answer { s with images := mset s.images n k } (word n)

/-! ### Appends (R398, R400, R429) -/

/-- LAUNCH (R400): DST receives the append's ordinal. -/
def opLaunch (f : XForm) (c n : Nat) : M Unit := do
  let s ← get
  let q := ctlF f.ctl 0 3
  let r := s.reg c n f.sa
  let h := fld r 52 12
  let o := fld r 0 52
  let x := s.ctxOf c
  let bad : Stop := .trap 0x2A (word h) (word o)
  let l ← sideRef bad c r 256 [1] false
  if (match l with | .mem _ va _ _ => va % 8 != 0 | _ => true) then stop bad
  else if !s.queueRoom x q then stop (.wait { kind := .launchQueue, on := q })
  else
    let b ← readLoc c l 256
    if b.2.isSome then stop (asyncErr 0x41 h 0 0 o b.2)
    else modify fun s =>
      (s.appendPacket x q (wordsOf 32 b.1)).modSlot c n fun y => (y.setReg f.dst.toNat (word (mgetD (s.ctx x).counts q 0))).retire
def execLaunch (f : XForm) (s : State) : Out := s.runActor s.here.1 s.here.2 (opLaunch f s.here.1 s.here.2)

/-- DOORBELL (R429). -/
def execDoorbell (ctx queue : Nat) (addr : Word) (s : State) : Out :=
  if !s.enabled ctx || 8 ≤ queue then .next s
  else
    match if addr.toNat % 8 == 0 then s.ctxRead ctx addr.toNat 256 else none with
    | none => .next (s.dropRecord ctx queue 2 0 0)
    | some b =>
      let p := wordsOf 32 b
      if s.queueRoom ctx queue then .next (s.appendPacket ctx queue p)
      else .next (s.dropRecord ctx queue 1 (p.getD 0 0) (p.getD 7 0))

/-- GUEST_HINV (R232, R429): [11:0] handle, [12] ALL. -/
def execGuestHinv (ctx : Nat) (val : Word) (s : State) : Out :=
  .next (s.dropHandles ctx (if fld val 12 1 == 1 then none else some (fld val 0 12)))

end Sys2Proof.Machine
end

