-- ==== Sys2Proof/Machine/Launch.lean ====
section
/-!
DEFINITION. Launches (15 R395 to R402): the allocators' placement, the checks of a packet, ADMISSION, the return of pages and
the completion word.
-/
namespace Sys2Proof.Machine

/-! ### Placement (R395, R396) -/

/-- Cores of a quad. -/
def quadCores (q : Nat) : List Nat := (upTo 4).map (4 * q + ·)
/-- Does an instance of a page set take whole quads? -/
def Image.wholeQuads (k : Image) (pset : Nat) : Bool := k.fuse || 4 < ((k.psets[pset]?).map (·.pages)).getD 0
/-- Cores that a launch takes for its places: an instance that takes whole quads takes all of their cores. -/
def Launch.cores (k : Launch) : List Nat :=
  k.places.flatMap fun p => if k.img.wholeQuads p.pset then quadCores (quadOf p.core) else [p.core]
/-- Cores taken by the launches that are resident. -/
def State.takenCores (s : State) : List Nat := s.launches.flatMap fun l => if l.2.phase == .saved then [] else l.2.cores

/-- A placement in progress: cores taken, quads of a fused team, places made. -/
structure Plan where
  taken  : List Nat
  quads  : List Nat := []
  places : List Place := []
  deriving DecidableEq, Repr, Inhabited

/-- The cores for an instance of n pages on a die, of lowest physical index. -/
def Plan.pick (p : Plan) (fuse : Bool) (die n : Nat) : Option (List Nat) :=
  let free (q : Nat) : List Nat := (quadCores q).filter (!p.taken.contains ·)
  let quads := (upTo 16).map (16 * die + ·)
  if n ≤ 4 then
    (quads.find? fun q => n ≤ (free q).length && (!fuse || (free q).length == 4 || p.quads.contains q)).map fun q => (free q).take n
  else
    let whole := (quads.filter fun q => (free q).length == 4).take (cdiv n 4)
    if whole.length < cdiv n 4 then none else some ((whole.flatMap quadCores).take n)
/-- Place one instance of a page set. -/
def Plan.add (p : Plan) (k : Image) (die share inst pset : Nat) : Option Plan :=
  let n := ((k.psets[pset]?).map (·.pages)).getD 0
  (p.pick k.fuse die n).map fun cs =>
    { taken := p.taken ++ (if 4 < n then (cs.map quadOf).eraseDups.flatMap quadCores else cs)
      quads := p.quads ++ cs.map quadOf
      places := p.places ++ cs.zipIdx.map fun c => { pset := pset, inst := inst, share := share, lpg := c.2, core := c.1 } }
/-- The places of a team: by share, instance and page set; none while some die has no room for its share. -/
def State.plan (s : State) (k : Image) (dies : List Nat) (insts : Nat) : Option (List Place) :=
  (dies.zipIdx.foldl (fun acc d => (upTo insts).foldl (fun acc i => (upTo k.psets.length).foldl (fun (acc : Option Plan) j =>
    acc.bind fun p => p.add k d.1 d.2 i j) acc) acc) (some { taken := s.takenCores })).map (·.places)
/-- May a team stand at these places while the launches that stay keep theirs: every core lies on its share's die, no core is
taken twice, instances keep to one quad or to whole quads (R395)? -/
def State.placesOk (s : State) (l : Nat) (dies : List Nat) (ps : List Place) : Bool :=
  let k := s.launch l
  let others := s.launches.flatMap fun o => if o.2.phase == .saved || o.1 == l then [] else o.2.cores
  let mine (p : Place) : List Place := ps.filter fun o => o.pset == p.pset && o.inst == p.inst && o.share == p.share
  ps.all (fun p => dies[p.share]? == some (dieOf p.core))
    && ({ k with places := ps } : Launch).cores.all (fun c => !others.contains c)
    && (ps.map (·.core)).eraseDups.length == ps.length
    && ps.all fun p =>
        let n := (mine p).length
        if n ≤ 4 then (mine p).all fun o => quadOf o.core == quadOf p.core
        else ((mine p).map fun o => quadOf o.core).eraseDups.length == cdiv n 4
          && ps.all fun o => (mine p).contains o || (mine p).all fun m => quadOf m.core != quadOf o.core

/-! ### Packets (R399, R427) -/

def Launch.w (k : Launch) (i : Nat) : Word := k.pkt.getD i 0
/-- Dies of a packet's mask, in order. -/
def packetDies (p : List Word) : List Nat := (upTo 4).filter fun d => fld (p.getD 0 0) (34 + d) 1 == 1
def packetInsts (p : List Word) : Nat := fld (p.getD 0 0) 38 4 + 1
/-- The core that a page of an instance stands on. -/
def placeOf (ps : List Place) (pset inst share lpg : Nat) : Option Nat :=
  (ps.find? fun p => p.pset == pset && p.inst == inst && p.share == share && p.lpg == lpg).map (·.core)

/-- Is the handle of a side reference BUSY (R231)? -/
def State.refBusy (s : State) (x : Nat) (r : Word) : Bool :=
  match s.handleMem x (fld r 52 12) with
  | some e => hBusy e
  | none => false
/-- A side reference to n bytes in hbm, at an alignment: its device virtual address. -/
def State.refVA (s : State) (x : Nat) (r : Word) (n al : Nat) : Option Nat :=
  match s.handleMem x (fld r 52 12) with
  | some e => if s.handleOk 0 e then (s.sideVA x r n).filter (· % al == 0) else none
  | none => none
/-- Does a reference to job records stand: hbm or sp, in bounds (R375)? -/
def State.recsOk (s : State) (x : Nat) (r : Word) (n : Nat) : Bool :=
  match s.handleMem x (fld r 52 12) with
  | some e => 1 ≤ hSpace e && hSpace e ≤ 2 && fld r 0 52 + n ≤ hSize e
  | none => false
/-- Enter a window in a list kept in ascending order of addresses. -/
def byAddress (w : OutRange) : List OutRange → List OutRange
  | [] => [w]
  | v :: r => if w.va < v.va then w :: v :: r else v :: byAddress w r
/-- The output windows of a team (R427) in ascending order; none where one is not in hbm and in bounds. -/
def State.windows (s : State) (x : Nat) (k : Image) : Option (List OutRange) :=
  k.wins.foldl (fun acc w => acc.bind fun l =>
    match s.handleMem x w.hnd with
    | some e =>
      if 2 ^ 52 ≤ w.ofs then none
      else (s.refVA x (word (w.hnd * 2 ^ 52 + w.ofs)) w.len 1).map fun va =>
        byAddress { va := va, hnd := w.hnd, pol := hPol e, ofs := w.ofs, len := w.len, layout := hLayout e } l
    | none => none) (some [])
/-- Is every page of an area mapped for writing, so that it can be pinned (R401)? -/
def State.mapped (s : State) (x va n : Nat) : Bool := (pieces va n).all fun p => (walk s x p.1 true).toBool

/-- What admission decides about the packet at the head of a queue. -/
inductive Verdict where
  /-- a handle entry is BUSY -/
  | wait
  /-- DONE is invalid -/
  | drop
  | refuse (status : Nat)
  | go
  deriving DecidableEq, Repr, Inhabited

/-- First row of R401: the packet, with its side references but DONE (R399; DEDUCED, log 57). -/
def State.packetOk (s : State) (x : Nat) (p : List Word) (k : Image) : Bool :=
  let w (i : Nat) : Word := p.getD i 0
  let mode := fld (w 0) 32 2
  let nsp := fld (w 0) 42 5
  let n := fld (w 1) 0 32
  let none_ := k.osnew.isEmpty
  fld (w 0) 47 17 == 0 && (w 8).toNat < 2 ^ 16 && (upTo 7).all (fun i => w (9 + i) == 0) && (mode == 1 || mode == 2)
    && !(packetDies p).isEmpty && 4 ≤ nsp && nsp ≤ 20 && (n == 0) == k.job.isNone && (fld (w 1) 32 32 == 0) == (n == 0)
    && (match k.job with | some b => s.recsOk x (w 2) (n * b) | none => w 2 == 0)
    && (if none_ then w 3 == 0 && w 4 == 0 else (s.refVA x (w 3) 64 64).isSome && (s.refVA x (w 4) 0 4096).isSome)
    && (s.refVA x (w 5) 0 4096).isSome
    && packetInsts p * k.pages ≤ 64 && k.ctx == x && (s.windows x k).isSome
/-- Bytes that a save area must have (R399). -/
def saveNeed (p : List Word) (k : Image) : Nat := 2621440 * (packetInsts p * k.pages * (packetDies p).length) + 65536
/-- The checks of R401, rows 1 and 2. -/
def judge (x : Nat) (p : List Word) : M Verdict := do
  let s ← get
  let w (i : Nat) : Word := p.getD i 0
  if [2, 3, 4, 5, 7].any fun i => s.refBusy x (w i) then pure .wait
  else if (s.refVA x (w 7) 8 8).isNone then pure .drop
  else
    match mget s.images (fld (w 0) 0 32) with
    | none => pure (.refuse 4)
    | some k =>
      if k.wins.any fun o => s.refBusy x (word (o.hnd * 2 ^ 52)) then pure .wait
      else if !s.packetOk x p k then pure (.refuse 4)
      else if (k.mode != 0 && k.mode != fld (w 0) 32 2) || (k.dry && fld (w 0) 32 2 == 1) then pure (.refuse 2)
      else
        let ncap ← (if k.osnew.isEmpty then pure 1 else do
          let b ← unitRead none x ((s.refVA x (w 3) 64 64).getD 0) 8
          pure (leVal b.1))
        if !k.osnew.isEmpty && (ncap == 0 || 2 ^ 24 < ncap || 2 ^ Nat.log2 ncap != ncap || (s.refVA x (w 3) (64 + 32 * ncap) 64).isNone) then
          pure (.refuse 3)
        else
          let n := (w 6).toNat
          let save := s.refVA x (w 5) n 4096
          let damp := s.refVA x (w 4) (2 ^ 21) 4096
          let bad (va : Option Nat) (n : Nat) : Bool := match va with | some a => !s.mapped x a n | none => true
          if n < saveNeed p k || bad save n || (!k.osnew.isEmpty && bad damp (2 ^ 21)) then pure (.refuse 5) else pure .go

/-! ### Who is served (R381, R398, R410) -/

/-- The packet at the head of a queue that no launch of the queue stands before. -/
def State.nextPacket (s : State) (x q : Nat) : Option (List Word) :=
  let c := s.ctx x
  if !s.enabled x || (mget c.active q).isSome then none else (mgetD c.queues q []).head?
/-- Is a new launch of a queue ready for pages, but for the pages? -/
def State.ready (s : State) (x q : Nat) : Bool :=
  match s.nextPacket x q with
  | some p => (match judge x p s with | .ok (.go, _) => true | _ => false)
  | none => false
/-- Enter an event in a list kept in the order of times. -/
def byTime (a : Nat × Nat) : List (Nat × Nat) → List (Nat × Nat)
  | [] => [a]
  | b :: r => if a.1 < b.1 then a :: b :: r else b :: byTime a r
/-- Saved launches of a context that are to be readmitted, in the order of their events. -/
def State.readmits (s : State) (x : Nat) : List Nat :=
  (s.launches.foldl (fun q l =>
    if l.2.ctx == x && l.2.phase == .saved && l.2.failed.isNone then (match l.2.readmit with | some t => byTime (t, l.1) q | none => q) else q) []).map (·.2)
/-- Does a context want pages? -/
def State.wants (s : State) (x : Nat) : Bool := !(s.readmits x).isEmpty || (upTo 8).any (s.ready x)
/-- The plan of a packet. -/
def State.packetPlan (s : State) (p : List Word) : Option (List Place) :=
  (mget s.images (fld (p.getD 0 0) 0 32)).bind fun k => s.plan k (packetDies p) (packetInsts p)
/-- Dies of a saved launch at its resume: any order that the package gives, over the dies of the mask (R404). -/
def State.resumeDies (s : State) (l : Nat) : List Nat :=
  let d := (s.launch l).dies
  let f := Config.freeDies s.tick
  if f.length == d.length && d.all f.contains then f else d
/-- Does a context wait for pages: it wants them, and there is no room for them? -/
def State.waitsPages (s : State) (x : Nat) : Bool :=
  (s.readmits x).any (fun l => (s.plan (s.launch l).img (s.launch l).dies (packetInsts (s.launch l).pkt)).isNone)
    || (upTo 8).any fun q => s.ready x q && (match s.nextPacket x q with | some p => (s.packetPlan p).isNone | none => false)
/-- Place of a context in the rotation (R410). -/
def rotation (turn x : Nat) : Nat := (x + 15 - turn) % 16
/-- Does the rotation let a context take pages: none that comes before it wants any? -/
def State.myTurn (s : State) (x : Nat) : Bool :=
  match s.turn with
  | none => true
  | some t => (upTo 16).all fun y => rotation t x ≤ rotation t y || !s.wants y
/-- A context has been served. -/
def State.served (s : State) (x : Nat) : State := { s with turn := s.turn.map fun _ => x }

/-! ### Zeroing and the completion word (R43, R399, R401, R402) -/

/-- Zero whole lines at their homes: they are marked zero (R422; DEDUCED, log 44), and waiters and watchpoints see the write. -/
def State.zeroLines (s : State) (a n : Nat) : State :=
  let s := { s with
    hbm := s.hbm.filter fun b => b.1 < a || a + n ≤ b.1
    poison := s.poison.filter fun w => 8 * w < a || a + n ≤ 8 * w
    lineKey := s.lineKey.filter fun l => 64 * l.1 < a || a + n ≤ 64 * l.1
    veils := cutLines s.veils (a / 64) ((a + n) / 64) }
  let s := wakeWaiters s none a n (fun s a n => s.homeVal a n) (fun s a n => s.poisoned a n)
  fireWatches s a n
/-- Zero an area of a context that begins at a line. -/
def zeroArea (x va n : Nat) : M Unit := do
  (pieces va (n / 64 * 64)).forM fun p => do
    let t ← unitXlate none x p.1 false true
    modify fun s => s.zeroLines t.1 p.2
  unitWrite none x (va + n / 64 * 64) false (List.replicate (n % 64) 0)
/-- Write back the dirty lines of the cores that a launch holds, so that its completion releases every store. -/
def State.flushCores (s : State) (cs : List Nat) : State := cs.foldl (fun s c => s.flushL1 c everyLine) s
/-- Cores that host a launch. -/
def State.hosts (s : State) (l : Nat) : List Nat := (s.coresOf l none).map (·.1)
/-- Return a launch's pages to the allocators, zeroed, and free what the Q9 holds for it: entries, requests and answers of the
dampers, Belfry instructions, waiters and watchpoints, checked-access records (R43, R186, R253, R402). -/
def State.freeLaunch (s : State) (l : Nat) : State :=
  let cs := s.hosts l
  let held := (s.launch l).cores
  { s with
    cores := s.cores.filter fun c => !cs.contains c.1 && !(held.contains c.1 && c.2.own.isNone)
    entries := s.entries.filter fun e => e.2.launch != l
    dreqs := s.dreqs.filter fun r => r.2.launch != l
    dans := s.dans.filter fun r => r.2.launch != l
    casts := s.casts.filter fun r => r.2.launch != l
    exchange := s.exchange.filter fun r => r.launch != l
    belfry := s.belfry.map fun (b : Nat × List BelfryOp) => (b.1, b.2.filter fun o => o.launch != l)
    waiters := s.waiters.filter fun w => !cs.contains w.core
    watches := s.watches.filter fun w => w.team != some l
    scopes := s.scopes.filter fun r => r.2.launch != some l
    launches := mdel s.launches l }
/-- The packet at the head of a queue leaves it (R398). -/
def State.popQueue (s : State) (x q : Nat) : State :=
  s.modCtx x fun c => { c with queues := mset c.queues q ((mgetD c.queues q []).drop 1), active := mdel c.active q }
/-- Write a completion word (R399): a release at `.pkg` over every address. -/
def completion (x va status code : Nat) : M Unit := do
  modify fun s => s.pkgRelease x va
  unitWrite none x va false (leBytes 8 (status + code % 256 * 256))
/-- A launch ends: its pages are returned, the completion word is written, its packet leaves the queue. -/
def endLaunch (l status code : Nat) : M Unit := do
  let s ← get
  let k := s.launch l
  setState ((s.flushCores (s.hosts l)).freeLaunch l)
  completion k.ctx k.done status code
  modify fun s => s.popQueue k.ctx k.cq

/-! ### ADMISSION (R401) -/

/-- A core as admission leaves it before its stream: the page it hosts, its scratchpad with ARGS (R401 step 5), its slots. -/
def startCore (l : Nat) (k : Image) (pkt : List Word) (p : Place) : Core where
  own := some { launch := l, pset := p.pset, inst := p.inst, share := p.share, lpg := p.lpg }
  nsp := fld (pkt.getD 0 0) 42 5
  fused := k.fuse
  sp := bsetN [] 0 (bytesOf ((pkt.drop 16).take 16))
  full := upTo 16
  slots := (k.actors.filter fun a => a.pset == p.pset && a.lpg == p.lpg).foldl (fun m a =>
    mset m a.slot { status := .idle, entry := a.entry, stop := a.stop }) []
/-- BROUTE in field 0. -/
def brouteOp : BitVec 49 := BitVec.ofNat 49 (0xB0 * 2048)
/-- Positions 56 to 59 of a page, with the physical routes of its inbound pipes (R97, R396). -/
def Core.routed (q : Core) (k : Image) (ps : List Place) (p : Place) : Core :=
  let route (out : Nat) : Option (Nat × Nat × Nat) :=
    (k.pipes.find? fun r => r.cpset == p.pset && r.clpg == p.lpg && r.bout == out).bind fun r =>
      (placeOf ps r.pset p.inst p.share r.lpg).map fun c => (c, r.pos, r.port)
  (upTo 4).foldl (fun q i => q.setElem (56 + i)
    { q.elem (56 + i) with b0 := [(0, brouteOp)], routeX := route (2 * i), routeY := route (2 * i + 1) }) q
/-- Start a page: every element takes its initial values, and its sources may run (R130, R388, R401 step 6). -/
def Core.begin (q : Core) : Core :=
  { q with elems := q.elems.map fun (e : Nat × Elem) => (e.1, e.2.start), srcRun := true }
/-- What a Lantern deals at the start (R376 to R378). -/
def dealsOf (pkt : List Word) (k : Image) : List Deal :=
  let n := fld (pkt.getD 1 0) 0 32
  let d := (packetDies pkt).length
  let t := packetInsts pkt
  if k.job.isNone then []
  else (upTo d).flatMap fun sh => (upTo t).map fun i =>
    if fld (pkt.getD 0 0) 32 2 == 2 then { share := sh, inst := i, next := 0, stop := 0 }
    else { share := sh, inst := i, next := shareLo n d sh + i, stop := shareLo n d (sh + 1) }

/-- Streams of a launch, in page set order (R401 step 4). -/
def streamsOf (l : Nat) (k : Image) (ps : List Place) : List (Nat × Stream) :=
  k.psets.zipIdx.flatMap fun p =>
    (ps.filter fun q => q.pset == p.2 && q.lpg == 0).map fun q =>
      (q.core, { launch := l, pset := p.2, inst := q.inst, share := q.share, cmds := p.1.stream })
/-- Run the streams until one faults: the core and stream of the fault, and the fault. -/
def State.runStreams (s : State) : List (Nat × Stream) → State × Option (Stream × Nat × Nat × Cmd × Nat × Nat)
  | [] => (s, none)
  | (c, st) :: r =>
    let q := s.cfgRun c st
    match q.2 with
    | some f => (q.1, some (st, f))
    | none => State.runStreams q.1 r
/-- The record of a configuration fault of an admission (R63, R411). -/
def State.cfgRecord (s : State) (l : Nat) (st : Stream) (code idx : Nat) (cmd : Cmd) (page bank : Nat) : State :=
  let k := s.launch l
  let core := (placeOf k.places st.pset st.inst st.share page).getD 0
  s.trapRecord k.ctx [recWord0 code 4 k.cq page 0 0 3 st.share core st.pset, word k.team,
    word (cmd.toNat + idx % 2 ^ 32 * 2 ^ 32), word bank, 0, 0]

/-- An admitted packet's launch is made, placed, configured and started; a configuration fault ends it (R401 steps 2 to 6). -/
def admitLaunch (x q : Nat) (pkt : List Word) (k : Image) (ps : List Place) : M Unit := do
  let s ← get
  let w (i : Nat) : Word := pkt.getD i 0
  let va (i n : Nat) : Nat := (s.refVA x (w i) n 1).getD 0
  let run : Launch :=
    { ctx := x, cq := q, team := fld (w 0) 0 32, pkt := pkt, img := k, dies := packetDies pkt, places := ps, deals := dealsOf pkt k
      note := va 3 64, damp := va 4 (2 ^ 21), save := va 5 (w 6).toNat, done := va 7 8
      outs := (s.windows x k).getD [] }
  zeroArea x run.save (w 6).toNat
  if k.osnew.isEmpty then pure ()
  else do
    zeroArea x run.damp (2 ^ 21)
    -- WR, RD and the reserved bytes of the notice area are 0 at the start (R179)
    unitWrite none x (run.note + 8) false (List.replicate 56 0)
  let s ← get
  let l := s.nextId
  let s := { s with nextId := l + 1, launches := mset s.launches l run }.modCtx x fun c => { c with active := mset c.active q l }
  let s := ps.foldl (fun s p => s.setCore p.core ((startCore l k pkt p).routed k ps p)) s
  let r := s.runStreams (streamsOf l k ps)
  match r.2 with
  | some (st, code, idx, cmd, page, bank) => do
    setState (r.1.cfgRecord l st code idx cmd page bank)
    endLaunch l 1 code
  | none => setState ((ps.foldl (fun s p => s.modCore p.core Core.begin) r.1).served x)

/-- A packet ends unadmitted with a status (R399). -/
def refusePacket (x q : Nat) (pkt : List Word) (status : Nat) : M Unit := do
  let s ← get
  completion x ((s.refVA x (pkt.getD 7 0) 8 8).getD 0) status 0
  modify fun s => s.popQueue x q
/-- An access of an admission ends with error 0x42 (R417): a notice area that cannot be read is invalid, and a completion word that cannot
be written is not (DEDUCED, log 26). -/
def State.failAdmission (s : State) (x q : Nat) (pkt : List Word) : State :=
  let s := s.unitFailed x
  match refusePacket x q pkt 3 s with
  | .ok (_, t) => t
  | .error _ => s.popQueue x q
/-- What an admission does with the packet at the head of a queue. -/
def admissionWork (x q : Nat) (pkt : List Word) : M Unit := do
  match ← judge x pkt with
  | .wait => pure ()
  | .drop => modify fun s => (s.dropRecord x q 3 (pkt.getD 0 0) (pkt.getD 7 0)).popQueue x q
  | .refuse status => refusePacket x q pkt status
  | .go =>
    let s ← get
    match mget s.images (fld (pkt.getD 0 0) 0 32), s.packetPlan pkt with
    | some k, some ps => if s.myTurn x then admitLaunch x q pkt k ps else pure ()
    | _, _ => pure ()
/-- ADMISSION (R401): a launch at the head of its queue. -/
def execAdmission (ctx queue : Nat) (s : State) : Out :=
  match s.nextPacket ctx queue with
  | none => .next s
  | some pkt =>
    if !(s.readmits ctx).isEmpty then .next s
    else .next (s.runUnit 0 (.admission ctx queue) (·.failAdmission ctx queue pkt) (admissionWork ctx queue pkt))

end Sys2Proof.Machine
end

