-- ==== Sys2Proof/Machine/Ending.lean ====
section
/-!
DEFINITION. The end of a launch (06 R186; 15 R402; 17 R438) and the result digest (16 R427, R428).
-/
namespace Sys2Proof.Machine

/-! ### Sinks and the notice path (R186, R402) -/

/-- A node of a team's graph: a core and position; for the actor port, a core, 60 and a slot. -/
abbrev Node := Nat × Nat × Nat
/-- The node that takes a token at a port. -/
def State.nodeAt (s : State) (dest : Nat × Nat × Nat) : Option Node :=
  if dest.2.1 == 60 then
    let b := (s.elem dest.1 60).binding (dest.2.2 - 8)
    if bindV b then some (dest.1, 60, bindSlot b) else none
  else some (dest.1, dest.2.1, 0)
/-- The nodes fed by an output. -/
def State.fed (s : State) (c p out : Nat) : List Node := (s.consumers c p out).filterMap s.nodeAt
/-- The nodes that a node feeds. -/
def State.feeds (s : State) (n : Node) : List Node :=
  let e := s.elem n.1 n.2.1
  if n.2.1 == 60 then (e.outChans n.2.2).flatMap (s.fed n.1 60) else e.outs.flatMap (s.fed n.1 n.2.1)
/-- Has an element a channel that can bring it eos, or is it a source, which ends with eos? -/
def Elem.ends (e : Elem) : Bool := e.op != 0 && (e.isSource || e.ports.any fun r => !e.isReg r)
/-- The nodes of a launch. -/
def State.nodes (s : State) (l : Nat) : List Node :=
  (s.coresOf l none).flatMap fun k =>
    ((k.2.elems.filter fun e => e.1 != 60 && e.2.ends).map fun e => (k.1, e.1, 0))
      ++ (k.2.slots.filter fun x => x.2.status != .absent).map fun x => (k.1, 60, x.1)
/-- Nodes downstream of a list, itself included. -/
def State.downstream (s : State) : Nat → List Node → List Node
  | 0, ns => ns
  | fuel + 1, ns =>
    let more := ((ns.flatMap s.feeds).filter (!ns.contains ·)).eraseDups
    if more.isEmpty then ns else State.downstream s fuel (ns ++ more)
/-- The notice path of a launch: what output x of its damper ports feeds, directly or downstream. -/
def State.noticePath (s : State) (l : Nat) : List Node :=
  let first := (s.coresOf l none).flatMap fun k => if (k.2.elem 62).op == 0xB6 then s.fed k.1 62 0 else []
  s.downstream (s.nodes l).length first.eraseDups
/-- Does a sink hold eos (R402, R438)? -/
def State.holdsEos (s : State) (n : Node) : Bool :=
  if n.2.1 == 60 then
    -- an armed port swaps once its slots are finished, and keeps running
    (s.slot n.1 n.2.2).status == .finished && (s.slot n.1 n.2.2).eosDue.isEmpty && !(s.elem n.1 60).armed
  else (s.elem n.1 n.2.1).holds
/-- The sinks of a launch: what they feed lies in the notice path, if they feed anything. -/
def State.sinks (s : State) (l : Nat) (path : List Node) : List Node :=
  (s.nodes l).filter fun n => (s.feeds n).all path.contains
/-- A firing that waits at NOTE for the notices of the launch's end does not hold that end back (R186, R368). -/
def State.noting (s : State) (n : Node) : Bool :=
  n.2.1 == 60 && (match (s.slot n.1 n.2.2).park with | some p => p.kind == .note | none => false)
/-- Are the engines of a launch idle: copies, matrix sequencers, Belfries, store acknowledgments, settle buffers, damper requests
(R186, R402)? -/
def State.enginesIdle (s : State) (l : Nat) : Bool :=
  (s.coresOf l none).all (fun k =>
      k.2.elems.all (fun e => e.2.acks == 0 && e.2.settle.isEmpty) && k.2.queues.all (·.2.isEmpty) && k.2.seq.isEmpty)
    && s.belfry.all (fun b => b.2.all fun o => o.launch != l)
    && !(s.dreqs.any fun r => r.2.launch == l) && !(s.dans.any fun r => r.2.launch == l)
/-- Are accesses of a launch through windows not yet acknowledged (R269)? -/
def State.farPending (s : State) (l : Nat) : Bool :=
  s.reach.any fun r => r.2.launch == some l && r.2.kind != .coll

/-- LAUNCH_END_STAGE1 (R186, R402): every set still LIVE retires with fate bit 0. -/
def execLaunchEndStage1 (launch : Nat) (s : State) : Out :=
  match mget s.launches launch with
  | none => .next s
  | some k =>
    let path := s.noticePath launch
    if k.phase != .running || k.failed.isSome || !s.enginesIdle launch
       || !((s.sinks launch path).all fun n => path.contains n || s.holdsEos n || s.noting n) then .next s
    else
      let live := s.entries.filter fun e => e.2.launch == launch && !e.2.quenched
      .next ((live.foldl (fun s e => s.retireSet e.1 launch e.2.set false) s).modLaunch launch fun k => { k with phase := .retiring })

/-! ### The result digest (R427) -/

/-- Offsets in a window of the bytes that are not padding (R207): `pitch` and `rowb` where the record declares it. -/
def keptBytes (ofs len : Nat) (pad : Option (Nat × Nat)) : List Nat :=
  match pad with
  | none => upTo len
  | some (pitch, rowb) => (upTo len).filter fun i => (ofs + i) % pitch < rowb
/-- PITCH and ROWB of a layout record that declares padding; none where it is absent or malformed. -/
def padOf (ws : List Word) : Option (Nat × Nat) :=
  let w (i : Nat) : Word := ws.getD i 0
  if fld (w 5) 3 61 != 0 || w 6 != 0 || w 7 != 0 || (w 2).toNat < (w 3).toNat || w 2 == 0 || fld (w 5) 2 1 == 0 then none
  else some ((w 2).toNat, (w 3).toNat)
/-- The machine check of poison met, if any. -/
abbrev Check := Option (Nat × Option Nat)
/-- Bytes of a range without padding, read by `rd`, and the machine check of poison among them. -/
def rangeBytes (rd : Nat → Nat → M (List Byte × Check)) (va ofs len : Nat) (pad : Option (Nat × Nat)) : M (List Byte × Check) :=
  (match pad with | none => [(0, len)] | some _ => runsOf (keptBytes ofs len pad)).foldlM (fun acc (r : Nat × Nat) => do
    let b ← rd (va + r.1) r.2
    pure (acc.1 ++ b.1, acc.2.or b.2)) ([], none)
/-- The bytes of the output windows of a launch, in order, and the first window with poison, with its machine check. -/
def windowBytes (rd : OutRange → Nat → Nat → M (List Byte × Check)) (k : Launch) : M (List Byte × Option (OutRange × (Nat × Option Nat))) :=
  k.outs.foldlM (fun acc w => do
    let pad ← (if w.layout == 0 then pure none else do
      let r ← rd w w.layout 64
      pure (padOf (wordsOf 8 r.1)))
    let b ← rangeBytes (rd w) w.va w.ofs w.len pad
    pure (acc.1 ++ b.1, acc.2.or (b.2.map fun mc => (w, mc)))) ([], none)
/-- Format and geometry of the page at an address, for the record of an error (R411). -/
def State.pageOf (s : State) (c x va : Nat) : Nat × Nat := ((s.leafAt c x va).map fun w => (pteFmt w, pteGeo w)).getD (0, 0)
/-- The record of a poisoned byte that the result digest meets (R411, R427). -/
def State.digestRecord (s : State) (k : Launch) (w : OutRange) : State :=
  let pg := s.pageOf 0 k.ctx w.va
  s.trapRecord k.ctx [recWord0 0x41 3 k.cq 0 0 0 3 0 0 0, word k.team, asyncWord2 w.hnd pg.1 pg.2 0, word w.ofs, 0, 0]

/-- A launch that was stopped gives its pages back and is told so (R402); one whose image is lost leaves its save area zero (R426). -/
def endStopped (l : Nat) (k : Launch) (status code : Nat) : M Unit := do
  if status == 7 then do
    modify fun s => s.flushCores (s.hosts l)
    zeroArea k.ctx k.save (k.pkt.getD 6 0).toNat
  else pure ()
  endLaunch l status code
/-- A launch that has reached its end gives its digest, and ends (R402, R427). -/
def endDigested (l : Nat) (k : Launch) : M Unit := do
  modify fun s => s.flushCores (s.hosts l)
  let b ← windowBytes (fun _ va n => unitRead none k.ctx va n) k
  unitWrite none k.ctx k.save false (if b.2.isSome then List.replicate 64 0 else Sha.sha512 b.1)
  match b.2 with
  | some (w, mc) => modify fun s => ((s.machineCheck mc.1 k.ctx mc.2).digestRecord k w).stopTeam l 6 0x41
  | none => endLaunch l 0 0
/-- An access of a launch's end itself ends with error 0x42 (R417): the team is stopped, or goes without a completion word where that is
what could not be written (DEDUCED, log 26). -/
def State.failEnd (s : State) (l : Nat) (k : Launch) : State :=
  let s := s.unitFailed k.ctx
  if k.failed.isNone then s.stopTeam l 6 0x42 else ((s.flushCores (s.hosts l)).freeLaunch l).popQueue k.ctx k.cq
/-- LAUNCH_END (R402): a stopped team's record stands before its completion word (R412); any other ends once its notices are all written
and its sinks all hold eos. -/
def execLaunchEnd (launch : Nat) (s : State) : Out :=
  match mget s.launches launch with
  | none => .next s
  | some k =>
    if s.farPending launch || !(s.ctx k.ctx).trapQ.isEmpty then .next s
    else
      match k.failed with
      | some (status, code) => .next (s.runUnit 0 (.launchEnd launch) (·.failEnd launch k) (endStopped launch k status code))
      | none =>
        if k.phase != .retiring || !k.flue.isEmpty || (s.firstQuenched launch).isSome || !s.enginesIdle launch
           || !((s.sinks launch (s.noticePath launch)).all s.holdsEos) then .next s
        else .next (s.runUnit 0 (.launchEnd launch) (·.failEnd launch k) (endDigested launch k))

/-! ### DIGEST (R428) -/

/-- DIGEST: the reads are the agent's own. -/
def opDigest (f : XForm) (c n : Nat) : M Unit := do
  let s ← get
  let outw := ctlF f.ctl 0 1 == 1
  let pad := ctlF f.ctl 1 1 == 1
  let r := s.reg c n f.sa
  let len := s.rd f.sc
  let dest := s.reg c n f.sb
  let bad (r : Word) : Stop := .trap 0x2C (word (fld r 52 12)) (word (fld r 0 52))
  let dst ← sideRef (bad dest) c dest 64 [1, 2] true
  if placeAddr dst % 8 != 0 then stop (bad dest)
  else if outw then
    if nz f.sa || nz f.sc || pad then stop (.trap 0x2C 0 0)
    else
      -- the agent's own reads, under each window's policy
      let b ← windowBytes (fun w va n => about w.hnd w.ofs (memRead c (s.ctxOf c) va n w.pol)) (s.launch (s.own c).launch)
      match b.2 with
      | some (w, mc) =>
        let pg := s.pageOf c (s.ctxOf c) w.va
        stop (asyncErr 0x41 w.hnd pg.1 pg.2 w.ofs (some mc))
      | none => write dst b.1
  else if 2 ^ 32 < len then stop (bad r)
  else
    let src ← sideRef (bad r) c r len [1, 2] false
    let e ← handle (.fixed (bad r)) c (fld r 52 12) (fld r 0 52)
    let pg := match src with | .mem x va _ _ => s.pageOf c x va | _ => (0, 0)
    let ws ← if pad then about (fld r 52 12) 0 (layout c (s.ctxOf c) e) else pure (none, none)
    let b ← about (fld r 52 12) (fld r 0 52) (rangeBytes (fun o n => readLoc c (placePlus src o) n) 0 (fld r 0 52) len (ws.1.bind padOf))
    match ws.2.or b.2 with
    | some mc => stop (asyncErr 0x41 (fld r 52 12) pg.1 pg.2 (fld r 0 52) (some mc))
    | none => write dst b.1
where
  /-- Write the digest of the bytes. -/
  write (dst : Loc) (b : List Byte) : M Unit := do
    writeLoc c dst (Sha.sha512 b)
    finishNone c n 0
def execDigest (f : XForm) (s : State) : Out := s.runActor s.here.1 s.here.2 (opDigest f s.here.1 s.here.2)

end Sys2Proof.Machine
end

