-- ==== Sys2Proof/Machine/SoftError.lean ====
section
/-!
DEFINITION. Uncorrectable soft errors (16 R424 to R426): where an error strikes a word it is marked poisoned and a machine-check
record is written; the word's reader decides what becomes of it. The registers that an instruction reads, and the first firing
of an element whose fields or state are poisoned.
-/
namespace Sys2Proof.Machine

/-! ### The mark and the record -/

/-- Is a core hosting a page? -/
def State.hosted (s : State) (c : Nat) : Bool := (s.core c).own.isSome
/-- The code of an error (R425): by place, or SRC 8 for one that a save met (R426). -/
def State.errorCode (s : State) (save : Bool) (site : ErrorSite) : Nat :=
  let at_ (src c : Nat) : Nat := (if save then 8 else src) * 2 ^ 12 + c
  match site with
  | .hbm w => s.hbmCheck (8 * w)
  | .l2 w => 2 * 2 ^ 12 + 32 * s.homeDie (8 * w) + sliceOf (8 * w)
  | .scratchpad c _ | .l1 c _ _ => at_ 3 c
  | .operand c _ _ => at_ 4 c
  | .accumulator c _ _ => at_ 5 c
  | .register c _ _ | .element c _ | .token c _ _ _ => at_ 7 c
/-- The token at a place of a port's buffer, poisoned (R22); a control token holds no value and stays. -/
def Port.spoil (p : Port) (i code : Nat) : Port :=
  { p with q := p.q.zipIdx.map fun x =>
      if x.2 == i && x.1.tok.isData then { x.1 with tok := poisonTok x.1.tok.width code x.1.tok.set x.1.tok.worth } else x.1 }
/-- Does a line hold bytes of its own, or a save image's: a line that is marked zero reads zero whatever its cells hold (R404, R422)? -/
def State.lineHeld (s : State) (line : Nat) : Bool := (mget s.lineKey line).isSome || s.veiled line
/-- The mark alone, with the code that readers will meet; none where there is no such place. -/
def State.mark (s : State) (save : Bool) (code : Nat) (site : ErrorSite) : Option State :=
  match site with
  | .hbm w => if w < 2 ^ 43 && s.lineHeld (w / 8) then some (s.addPoison [w]) else none
  | .l2 w => if w < 2 ^ 43 && s.lineHeld (w / 8) then some (s.addPoisonFrom code [w]) else none
  | .scratchpad c w =>
    if s.hosted c && w < 4096 * (s.core c).nsp then some (s.addSpPoison c code [w]) else none
  | .l1 c line w =>
    (s.l1Line c line).bind fun l => if w < 8 then some (s.setL1 c line { l with poison := mset l.poison w code }) else none
  | .operand c n w =>
    if s.hosted c && n < 32 && w < 4096 then some (s.modOp c n fun o => { o with poison := ladd o.poison w, src := mset o.src w code }) else none
  | .accumulator c n i =>
    if s.hosted c && n < 8 && i < 4096 then some (s.modTile c n fun t => { t with poison := ladd t.poison i, src := mset t.src i code }) else none
  | .register c n r =>
    if s.hosted c && (s.slot c n).status != .absent && r < 32 then
      some (s.modSlot c n fun x =>
        { x with poisoned := ladd x.poisoned r, savedBad := if save then ladd x.savedBad r else ldel x.savedBad r })
    else none
  | .element c p => if s.hosted c && p < 64 then some (s.modElem c p fun e => { e with spoiled := true }) else none
  | .token c p r i =>
    if s.hosted c && (match ((s.elem c p).port r).q[i]? with | some x => x.tok.isData | none => false) then
      some (s.modElem c p fun e => e.setPort r ((e.port r).spoil i code))
    else none
/-- The context that an error's record names: the owner of the page of memory, or of the core's page. -/
def State.errorCtx (s : State) (site : ErrorSite) : Nat :=
  match site with
  | .hbm w | .l2 w => mgetD s.owners (w / 8192) 0
  | .scratchpad c _ | .l1 c _ _ | .operand c _ _ | .accumulator c _ _ | .register c _ _ | .element c _ | .token c _ _ _ => s.ctxOf c
/-- An uncorrectable error strikes: the mark, and the record (R424, R425). -/
def State.strike (s : State) (save : Bool) (site : ErrorSite) : State :=
  let code := s.errorCode save site
  match s.mark save code site with
  | none => s
  | some t => t.machineCheck code (s.errorCtx site) (match site with | .hbm w | .l2 w => some (8 * w) | _ => none)
/-- A soft error: one that ECC corrects is counted (R424). -/
def State.softError (s : State) (site : Option ErrorSite) : State :=
  match site with
  | none => { s with corrected := s.corrected + 1 }
  | some e => s.strike false e
/-- The core that a place of a team's image lies in. -/
def siteCore : ErrorSite → Option Nat
  | .scratchpad c _ | .operand c _ _ | .accumulator c _ _ | .register c _ _ | .element c _ | .token c _ _ _ => some c
  | .hbm _ | .l2 _ | .l1 _ _ _ => none

/-! ### Readers of poisoned registers and elements (R426) -/

/-- Registers from `r` on, `n` of them. -/
def regsFrom (r : Reg) (n : Nat) : List Nat := (upTo n).map fun j => (r.toNat + j) % 32
/-- SA, SB and SC of an R-format word. -/
def rReads (f : RForm) (b c : Bool) : List Nat := f.sa.toNat :: (if b then [f.sb.toNat] else []) ++ (if c then [f.sc.toNat] else [])
/-- The index register and value registers of an M-format word. -/
def mReads (f : MForm) (vals : List Nat) : List Nat := (if f.ix == 1 then [f.sa.toNat] else []) ++ vals
/-- A payload register or group. -/
def payReads (r : Reg) (w : Nat) : List Nat := if w == 2 then regsFrom r 8 else [r.toNat]

/-- The registers that an actor's instruction reads, as its entry has it. -/
def regReads (x : Slot) : Instr → List Nat
  | .add f | .sub f | .mul f | .mulh f | .div f | .rem f | .and f | .or f | .xor f | .shl f | .shr f | .sar f | .min f | .max f
  | .slt f | .fadd f | .fsub f | .fmul f | .fmin f | .fmax f | .fcmp f => rReads f true false
  | .sel f | .ffma f => rReads f true true
  | .popc f | .clz f | .mov f | .fclass f => rReads f false false
  | .addi f | .andi f | .ori f | .xori f | .shli f | .shri f | .sari f | .slti f => [f.sa.toNat]
  | .movhi f => [f.dst.toNat]
  | .cvt f => f.sa.toNat :: if ctlF f.ctl 13 1 == 1 then [f.sb.toNat] else []
  | .bcc f => [f.sa.toNat, f.sb.toNat]
  | .loop f => [f.dst.toNat]
  | .ld f | .ldf f | .ldfe f | .acq f | .watch f => mReads f []
  | .st f | .stef f | .aadd f | .aand f | .aor f | .axor f | .amin f | .amax f | .axchg f | .afadd f | .rel f | .mwait f | .rst f =>
    mReads f [f.sb.toNat]
  | .cas f => mReads f [f.sb.toNat, f.dst.toNat]
  | .bind f => mReads f (regsFrom f.sb 2)
  -- RAMO compares with what DST held at issue for CAS only (R270)
  | .ramo f => mReads f (regsFrom f.sb 2 ++ if x.reg (f.sb + 1).toNat == 8 then [f.dst.toNat] else [])
  | .dcas f => regsFrom f.sa 2 ++ regsFrom f.sb 2 ++ [f.sc.toNat, f.sd.toNat]
  | .amove f => [f.sa.toNat, f.sb.toNat, f.sc.toNat, f.sd.toNat]
  | .rsend f => [f.sa.toNat, f.sb.toNat, f.sc.toNat] ++ (if ctlF f.ctl 2 1 == 1 then [] else [f.sd.toNat])
      ++ if ctlF f.ctl 0 1 == 1 then [f.dst.toNat] else []
  | .coll f => [f.sa.toNat, f.sb.toNat, f.sc.toNat, f.sd.toNat]
  | .xfer f => regsFrom f.sa 2 ++ regsFrom f.sb 2
  | .xim2c f => [f.sa.toNat, f.sb.toNat, f.sc.toNat, f.sd.toNat] ++ if ctlF f.ctl 8 1 == 1 then [f.dst.toNat] else []
  | .gath f => [f.sa.toNat, f.sb.toNat, f.sc.toNat] ++ (if ctlF f.ctl 11 1 == 1 then [] else [f.sd.toNat])
      ++ if ctlF f.ctl 9 1 == 1 || ctlF f.ctl 10 1 == 1 then [f.dst.toNat] else []
  | .oclaim f => if ctlF f.ctl 5 1 == 0 then [f.sa.toNat] else []
  | .mfix f => regsFrom f.sa 2
  | .maccst f | .rcap f => [f.sa.toNat, f.sb.toNat]
  | .rdisp f | .rcomb f => [f.sa.toNat, f.sb.toNat, f.sc.toNat]
  | .digest f => if ctlF f.ctl 0 1 == 1 then [f.sb.toNat] else [f.sa.toNat, f.sb.toNat, f.sc.toNat]
  | .rrec f => [f.sa.toNat, f.sb.toNat] ++ if ctlF f.ctl 0 2 == 2 then [] else [f.sc.toNat]
  | .send f => payReads f.sa (ctlF f.ctl 4 2) ++ if ctlF f.ctl 6 1 == 1 then [f.sb.toNat] else []
  | .cfgw f => [f.sa.toNat, f.sc.toNat]
  | .launch f => [f.sa.toNat]
  | .sreg f => if ctlF f.ctl 12 1 == 1 then [f.sa.toNat] else []
  | .sysc f => [f.sa.toNat, f.sb.toNat]
  | .tlbi f => if ctlF f.ctl 4 2 == 1 then [f.sa.toNat] else []
  | _ => []
/-- The poisoned register that an instruction of a slot reads first. -/
def State.readsPoison (s : State) (c n : Nat) (i : Instr) : Option Nat :=
  (regReads (s.slot c n) i).find? (s.slot c n).poisoned.contains
/-- Error 0x41 for a poisoned register (R220, R426), with its machine-check record: SRC 8 where a save met the error. -/
def State.poisonedRead (s : State) (c n r : Nat) : State :=
  let src := if (s.slot c n).savedBad.contains r then 8 else 7
  (s.machineCheck (src * 2 ^ 12 + c) (s.ctxOf c) none).asyncActor c n 0x41 0 0 0 0 0

/-- The registers that an actor's instruction writes; `w` is its word. -/
def regWrites (w : Word) : Instr → List Nat
  | .add f | .sub f | .mul f | .mulh f | .div f | .rem f | .and f | .or f | .xor f | .shl f | .shr f | .sar f | .min f | .max f
  | .slt f | .fadd f | .fsub f | .fmul f | .fmin f | .fmax f | .fcmp f | .sel f | .ffma f | .popc f | .clz f | .mov f | .fclass f =>
    [f.dst.toNat]
  | .addi f | .andi f | .ori f | .xori f | .shli f | .shri f | .sari f | .slti f | .movi f | .movhi f | .sysc f => [f.dst.toNat]
  | .loop f => [f.dst.toNat]
  | .ld f | .ldf f | .ldfe f | .aadd f | .aand f | .aor f | .axor f | .amin f | .amax f | .axchg f | .afadd f | .cas f | .acq f
  | .mwait f | .watch f | .ramo f => [f.dst.toNat]
  | .cvt f | .rcap f | .rrec f | .cfgw f | .launch f | .sreg f => [f.dst.toNat]
  | .dcas f | .amove f | .note f => regsFrom f.dst 2
  | .recv f | .peek f => payReads f.dst (ctlF f.ctl 4 2) ++ if ctlF f.ctl 6 1 == 1 then [f.sd.toNat] else []
  | .oclaim _ | .mchk _ | .mfix _ => matDsts w
  | _ => []
/-- What a firing has issued whose register an instruction reads or writes: it waits for that write (R218, R437). FIREND waits for all of
them: loads returned, stores accepted (R218, R374). -/
def State.awaited (s : State) (c n : Nat) (i : Instr) : Option Pend :=
  let x := s.slot c n
  match i with
  | .firend _ => x.pend.head?
  | _ =>
  let rs := regReads x i ++ regWrites (s.fetchWord c n) i
  x.pend.find? fun p => p.dsts.any rs.contains
/-- A poisoned element meets its first firing (R426): fault 0x23. -/
def State.spoiledFault (s : State) (c p : Nat) : State := s.elemFault c p 0x23 0 0 (s.elem c p).op 0 0 0 0

end Sys2Proof.Machine
end

