-- ==== Sys2Proof/Machine/Fetch.lean ====
section
/-!
DEFINITION. From a move to the row it performs: an actor's instruction word (R65, R72, R73, R363), an element's firing, a
configuration command, or an event. A move that names no row, or one that cannot act, leaves the state as it is.
-/
namespace Sys2Proof.Machine

/-- The next move, and the state with it taken from the agenda: laid down, or one that nothing fixes (DESIGN CHOICE, log 1). A step takes one
fabric cycle or more (R407; DESIGN CHOICE, log 5). -/
def State.nextMove (s : State) : Move × State :=
  let t : State := { s with tick := s.tick + 1, cycle := s.cycle + word (1 + Config.freeCycles s.tick), cur := .none }
  match s.agenda with
  | m :: r => (m, { t with agenda := r })
  | [] => (Config.freeMove s.tick, t)

/-- What a move does to the state before its row, and the row that then runs. -/
abbrev Picked := State × Option Instr

/-! ### Actors -/

/-- Does an instruction end a firing or set the program counter itself? -/
def endsBlock : Instr → Bool
  | .firend _ | .br _ | .bcc _ | .loop _ => true
  | _ => false
/-- The instruction that a slot's firing issues next, or the decode trap code it meets (R72, R73). -/
def State.nextInstr (s : State) (c n : Nat) : Except Nat Instr :=
  let x := s.slot c n
  let img := (s.launch (s.own c).launch).img
  if 65536 ≤ x.issued then .ok .watchdog
  else if x.pc < x.entry || x.stop < x.pc + 8 then .error 7
  else
    match decodeWord img.system (fld (s.ctx (s.ctxOf c)).ctl 1 1 == 1) (s.fetchWord c n) with
    | .error code => .error code
    | .ok (.unassignedMajorOpcode w) => .ok (.unassignedMajorOpcode w)
    | .ok i => if x.stop < x.pc + 16 && !endsBlock i then .error 7 else .ok i
/-- Accesses of a core's slots that waited on a fault record are made again (R418). -/
def State.redoCore (s : State) (c : Nat) : State := (s.core c).slots.foldl (fun s x => s.redoAll c x.1 x.2.pend) s
/-- The sequencer of a core issues the next instruction of the firing that it runs, once accesses that are due have been made again. -/
def State.pickActor (s : State) (c : Nat) : Picked :=
  let s := s.redoCore c
  match (s.core c).running with
  | none => (s, none)
  | some n =>
    if !s.firingLive c || (s.slot c n).status != .firing then (s, none)
    else
      match s.nextInstr c n with
      | .ok i =>
        match s.awaited c n i, s.readsPoison c n i with
        | some p, _ =>
          match p.fault with
          | some o => (State.runActor.hold s c n { kind := .translation, on := o, at_ := (p.form.hnd.toNat, p.offset) }, none)
          | none => (s, none)
        | none, some r => (s.poisonedRead c n r, none)
        | none, none => ({ s with cur := .actor c n }, some i)
      | .error code => (s.takeTrap c n code 0 0, none)

/-! ### Elements -/

/-- A used head that a quench discards, or that must be looked up first (R168, R169). -/
def State.pickDiscard (s : State) (c p : Nat) : Option Instr :=
  let k := s.core c
  let e := k.elem p
  let head (f : Slotted → Bool) (r : Nat) : Bool := !e.isReg r && (match (e.port r).head with | some x => f x | none => false)
  if e.inStep then none
  else
    match e.ports.find? (head k.quenches) with
    | some r => some (.discardUnfired c p r)
    | none => (e.ports.find? (head k.asks)).map fun r => .overflowLookup c p r
/-- The element at a position of a core's page. The first firing of one whose fields or state are poisoned is fault 0x23 (R426). -/
def State.pickElem (s : State) (c p : Nat) : Picked :=
  if !s.pageLive c then (s, none)
  else
    match s.pickDiscard c p with
    | some i => (s, some i)
    | none =>
      let s' := { s with cur := .elem c p }
      if (s.elem c p).spoiled && s.firesNext c p then (s.spoiledFault c p, none)
      else if p == 60 then (s, if s.portSwaps c then some (.aportSwap c) else none)
      else if p == 62 || p == 63 then
        match fireElem c p (portWork c p) s with
        | .error (.wait _) => (s', s.pickCommand c p)
        | _ => (s.elemStep c p (portWork c p), none)
      else if swapped c p s (s.elemStep c p (ownBody c p)) then (s, some (.swap c p))
      else
        match decodeElem (BitVec.ofNat 19 ((s.elem c p).fld 0)) with
        | some i => (s', some i)
        -- what a firing before a swap to NOP has left to send still leaves (R390)
        | none => (s.elemStep c p stall, none)

/-! ### Configuration commands and events -/

/-- The next command of the stream at a core's network. -/
def State.pickCmd (s : State) (c : Nat) : Picked :=
  match (s.core c).net with
  | none => (s, none)
  | some n =>
    match n.cmds[n.idx]? with
    | none => (s, none)
    | some w => ({ s with cur := .net c }, some (decodeCmd w))

/-- Rows that are performed through a core, an element or a configuration network, and never by themselves. -/
def ownedRow (i : Instr) : Bool :=
  (encodeWord i).isSome || (encodeCmd i).isSome || (encodeElem i).isSome ||
  match i with
  | .unassignedMajorOpcode _ | .reservedClassCommand _ | .reservedCtrlOperation .. | .watchdog
  | .dportQuench | .dportSeal | .dportQuery | .dportSettle | .dportOldest | .dportUnassigned | .dportNotice
  | .headFlags | .headClear | .headArmed | .headEnd | .headCount | .headUnassigned => true
  | _ => false

/-- What a move does. Before bring-up nothing else happens (R432). -/
def State.pick (s : State) (m : Move) : Picked :=
  if s.power != .on then
    match m with
    | .event (.bringUp b) => (s, some (.bringUp b))
    | _ => (s, none)
  else
    match m with
    | .actor c => s.pickActor c
    | .element c p => s.pickElem c p
    | .config c => s.pickCmd c
    | .event i => (s, if ownedRow i then none else some i)
    | .evictL1 c line => (s.evictLine c line, none)
    | .evictHandle c i => (s.modCore c fun k => { k with handles := k.handles.eraseIdx i }, none)
    | .evictMeta c line => (s.modCore c fun k => { k with metaC := mdel k.metaC line }, none)
    | .evictTlb d i =>
      (match s.tlb[i]? with
       | some t => if t.die == d then { s with tlb := s.tlb.eraseIdx i } else s
       | none => s, none)
    | .evictL2 line => ({ s with scopes := mdel s.scopes line }, none)
    | .softError site => (s.softError site, none)
    | .damper d req => (s.damperAct d req, none)
    | .belfry d => (s.belfryAct d, none)
    -- the supervisor acts once it has been verified (R432)
    | .bindPair b => (if s.hsMode then s.bindPair b else s, none)
    | .setRate r => (if s.hsMode then { s with rateStep := r } else s, none)
    | .assignRequester r x => (if s.hsMode then { s with requesters := mset s.requesters r x } else s, none)
    | .msix r d => (s.send (.msi r d), none)

end Sys2Proof.Machine
end

