-- ==== Sys2Proof/Machine/Preempt.lean ====
section
/-!
DEFINITION. Pre-emption (14 R380 to R383; 15 R397, R403 to R405; 16 R410, R426): the events that stop a team, the drain, the save,
readmission and resume. A saved team is plain data of its launch; the bytes of its save area are the Q9's own (DESIGN CHOICE, log 45).
-/
namespace Sys2Proof.Machine

/-! ### Stopping a team (R380, R397, R403, R410) -/

/-- May a launch be pre-empted: it runs, and its end has not begun? -/
def Launch.running (k : Launch) : Bool := k.phase == .running && k.failed.isNone
/-- Step 1 of R403: the sources of every page stop. -/
def State.beginStop (s : State) (l : Nat) (why : Preempt) : State :=
  let s := s.modLaunch l fun k => { k with phase := .stopping, why := some why, readmit := none }
  (s.hosts l).foldl (fun s c => s.modCore c fun k => { k with srcRun := false }) s

/-- SLICE_EXPIRY (R410). -/
def execSliceExpiry (ctx : Nat) (s : State) : Out :=
  let mine := s.launches.filter fun l => l.2.ctx == ctx && l.2.running
  if fld (s.ctx ctx).slice 0 32 == 0 || mine.isEmpty || !((upTo 16).any fun y => y != ctx && s.waitsPages y) then .next s
  else .next { mine.foldl (fun s l => s.beginStop l.1 .slice) s with turn := some ctx }

/-- The internal watchpoints of a team's MWAIT-parked firings (R380), registered; none where one cannot be. -/
def State.swapWatches (s : State) (l : Nat) : Option State :=
  let cs := s.hosts l
  let x := (s.launch l).ctx
  (s.waiters.filter fun w => cs.contains w.core).foldl (fun acc w => acc.bind fun (s : State) =>
    if w.sp.isSome then none
    else (s.addWatch { ctx := x, die := s.homeDie w.addr, slice := sliceOf w.addr, entry := 0, addr := w.addr, len := w.size
                       team := some l }).map (·.1)) (some s)
/-- TEAM_SWAP (R380): a firing has been parked in MWAIT past TEAMWAIT while its tenant waits for pages. -/
def execTeamSwap (core slot : Nat) (s : State) : Out :=
  let l := (s.own core).launch
  let parked := match (s.slot core slot).park with | some p => p.kind == .mwait && !p.done | none => false
  if (s.core core).own.isNone || !parked || !(s.launch l).running || !s.waitsPages (s.launch l).ctx then .next s
  else
    match s.swapWatches l with
    | none => .next s
    | some s => .next (s.beginStop l .swap)

/-- Places with some pages moved. -/
def movedPlaces (ps : List Place) (m : List (Nat × Nat)) : List Place :=
  ps.map fun p => { p with core := ((m.find? (·.1 == p.core)).map (·.2)).getD p.core }
/-- ALLOCATOR_MOVE (R397): pages of a die move to other cores of that die. -/
def execAllocatorMove (launch die : Nat) (places : List (Nat × Nat)) (s : State) : Out :=
  let k := s.launch launch
  if (mget s.launches launch).isNone || !k.running || !(places.all fun p => dieOf p.1 == die && dieOf p.2 == die)
     || !s.placesOk launch k.dies (movedPlaces k.places places) then .next s
  else .next (s.beginStop launch (.move places))

/-! ### The drain (R187, R260, R282, R306, R330, R351, R403) -/

/-- Can an element, command ports included, do anything? -/
def State.stirs (s : State) (c p : Nat) : Bool :=
  p != 60 && ((s.pickDiscard c p).isSome || s.firesNext c p)
/-- Can a slot do anything: fire, go on, or send eos that is due? -/
def State.slotStirs (s : State) (c n : Nat) : Bool :=
  s.candidateSlot c n || (s.slot c n).eosDue.any fun ch => s.canEmit c 60 ch true
/-- Is a queue of copies at rest: empty, or held by a tag-aware word or a fence behind one (R306)? -/
def Core.queueRests (k : Core) (halted : Bool) (q : List CopyReq) : Bool :=
  match q with
  | [] => true
  | r :: _ => (r.due && r.got.isNone && pTag r.w0 != 0) || r.fences.any k.open_ || (r.kind == .fence && r.ahead.any k.open_)
      || (halted && r.xwait.isSome)
/-- Is a Belfry instruction at a boundary (R351): unstarted, at its wait, or between tokens? With the budget gone one that waits on a
translation is saved unperformed (R418). -/
def BelfryOp.rests (o : BelfryOp) (halted : Bool) : Bool := if halted && o.xwait.isSome then true else !o.midway && !o.merged
/-- Have the requests of a team that must be answered or complete been so (R187, R260, R282, R306, R330, R351)? -/
def State.settledFor (s : State) (l : Nat) (halted : Bool) : Bool :=
  !(s.dreqs.any fun r => r.2.launch == l) && !(s.dans.any fun r => r.2.launch == l) && !(s.casts.any fun r => r.2.launch == l)
    && !(s.reach.any fun r => r.2.launch == some l
          && (r.2.kind == .ramo || r.2.kind == .load || r.2.kind == .store || r.2.kind == .copyRead || r.2.kind == .copyWrite))
    && s.belfry.all (fun b => b.2.all fun o => o.launch != l || o.rests halted)
    && (s.coresOf l none).all fun c =>
        let k := c.2
        k.running.isNone && k.net.isNone && k.queues.all (fun q => k.queueRests halted q.2)
          && (!(k.seq.any MatOp.must) || (halted && (match k.seq with | o :: _ => o.xwait.isSome | [] => false)))
/-- Has a write woken a firing parked in MWAIT (R382)? It may go on in the drain, or be saved as a woken candidate. -/
def Slot.woke (x : Slot) : Bool := match x.park with | some p => p.kind == .mwait && p.done | none => false
/-- Is a stopping team quiescent (R403 step 2)? -/
def State.quiescent (s : State) (l : Nat) : Bool :=
  s.settledFor l false && (s.coresOf l none).all fun c =>
    c.2.seq.isEmpty && c.2.elems.all (fun e => e.2.xwait.isNone && !s.stirs c.1 e.1)
      && c.2.slots.all fun x => (x.2.woke || !s.slotStirs c.1 x.1) && (x.2.pend.all fun p => p.range.isNone)
        && (match x.2.park with | some p => p.kind != .translation | none => true)
/-- DRAIN_BUDGET_EXPIRY (R403 step 4). -/
def execDrainBudgetExpiry (launch : Nat) (s : State) : Out :=
  let k := s.launch launch
  if (mget s.launches launch).isNone || k.phase != .stopping || k.failed.isSome || s.quiescent launch then .next s
  else .next (s.modLaunch launch fun k => { k with phase := .halted })

/-! ### Save (R383, R403) -/

/-- The image of a token in memory (R64): a header word, then one payload word, or eight. -/
def Token.image (t : Token) : List Word :=
  t.header :: if t.width == 2 then (upTo 8).map fun i => word (bits t.num (64 * i) 64) else [word t.num]
/-- The token that image words begin with, and the rest; none where the header word fails the checks of R64. -/
def readToken : List Word → Option (Token × List Word)
  | [] => none
  | h :: r =>
    let w := fld h 46 2
    let n := if w == 2 then 8 else 1
    let kind : Option TKind := match fld h 0 3 with
      | 0 => some .val | 1 => some .crd | 2 => some .ref | 3 => some .stop | 4 => some .done | 5 => some .eos | 7 => some .poison
      | _ => none
    match kind with
    | some k =>
      if fld h 48 16 != 0 || w == 3 || r.length < n then none
      else some ({ width := w, worth := BitVec.ofNat 16 (fld h 30 16), set := BitVec.ofNat 24 (fld h 6 24), lvl := fld h 3 3, kind := k
                   pay := payOf (((r.take n).zipIdx.map fun v => v.1.toNat * 2 ^ (64 * v.2)).sum) }, r.drop n)
    | none => none
/-- Do something at every token of a port, in order: the resident, the buffer, held segments, the landing register and what is behind it. -/
def Port.eachTok {m : Type → Type} [Monad m] (f : Slotted → m Slotted) (p : Port) : m Port := do
  let res ← p.res.mapM fun r => do pure (← f r.1, r.2)
  let q ← p.q.mapM f
  let closing ← p.closing.mapM fun c => do pure (← c.1.mapM f, ← c.2.mapM f)
  let seg ← p.seg.mapM f
  let landing ← p.landing.mapM f
  let lane ← p.lane.mapM f
  pure { p with res := res, q := q, closing := closing, seg := seg, landing := landing, lane := lane }
/-- The same at every input port of a page, the channels of the actor port included. -/
def Core.eachTok {m : Type → Type} [Monad m] (f : Slotted → m Slotted) (k : Core) : m Core := do
  let es ← k.elems.mapM fun e => do
    let chans ← e.2.chans.mapM fun ch => do pure (ch.1, ← ch.2.eachTok f)
    pure (e.1, { e.2 with pa := ← e.2.pa.eachTok f, pb := ← e.2.pb.eachTok f, pc := ← e.2.pc.eachTok f, chans := chans })
  pure { k with elems := es }
/-- The images of a page's tokens. -/
def Core.images (k : Core) : List Word :=
  ((k.eachTok fun x => (do modify (· ++ x.tok.image); pure x : StateM (List Word) Slotted)).run []).2
/-- A page with its tokens read from image words, every word used; none where a check of R64 fails. -/
def Core.refill (k : Core) (ws : List Word) : Option Core :=
  let take (x : Slotted) : StateT (List Word) Option Slotted := fun ws => (readToken ws).map fun r => ({ x with tok := r.1 }, r.2)
  match (k.eachTok take).run ws with
  | some (k, []) => some k
  | _ => none

/-- What a save keeps of a settle buffer: what is QUENCHED is discarded before it (R187), but for a store that enters a block as zeros
(R226). -/
def State.keepsEffect (s : State) (c : Nat) (e : Elem) (x : Parked) : Bool :=
  !x.quenched || match x.eff with
    | .store _ idx ent => e.op == 0xA2 && (let pg := s.elemFmt c ent e.ty idx.toNat; blockPage pg.1 pg.2)
    | _ => false
/-- A core as its image is saved: what waits on a translation is unperformed (R418); caches are empty (R208). -/
def State.savedCore (s : State) (c : Nat) : Core :=
  let k := s.core c
  { k with
    l1 := [], metaC := [], handles := [], srcRun := false
    elems := k.elems.map fun (e : Nat × Elem) => (e.1, { e.2 with xwait := none, settle := e.2.settle.filter (s.keepsEffect c e.2) })
    queues := k.queues.map fun (q : Nat × List CopyReq) => (q.1, q.2.map fun r => { r with xwait := none })
    seq := k.seq.map fun o => { o with xwait := none } }
/-- The union of a team's overflow ranges (R187). -/
def rangeUnion (a b : Option (BitVec 24 × BitVec 24)) : Option (BitVec 24 × BitVec 24) :=
  match a, b with
  | none, r => r
  | r, none => r
  | some (lo, hi), some (lo', hi') => some (if later lo lo' then lo' else lo, if later hi' hi then hi' else hi)
/-- The image of a team is saved and its cores are free. -/
def State.saveTeam (s : State) (l : Nat) : State :=
  let cs := s.hosts l
  let held := (s.launch l).cores
  let s := s.flushCores cs
  let k := s.launch l
  let pages := k.places.map fun p => 
    let q := s.savedCore p.core
    ({ place := p, core := q, toks := q.images } : SavedPage)
  let ops := s.belfry.flatMap fun (b : Nat × List BelfryOp) => b.2.filter fun o => o.launch == l
  let s := s.modLaunch l fun k =>
    { k with
      phase := .saved
      saved := pages
      savedEntries := (s.entries.filter fun e => e.2.launch == l).map (·.2)
      savedBelfry := ops.map fun o => { o with xwait := none }
      savedFilter := (pages.flatMap fun p => p.core.filter).eraseDups
      savedRange := pages.foldl (fun r p => rangeUnion r p.core.range) none }
  { s with
    cores := s.cores.filter fun c => !cs.contains c.1 && !(held.contains c.1 && c.2.own.isNone)
    entries := s.entries.filter fun e => e.2.launch != l
    belfry := s.belfry.map fun (b : Nat × List BelfryOp) => (b.1, b.2.filter fun o => o.launch != l)
    waiters := s.waiters.filter fun w => !cs.contains w.core }

/-- The bytes of a save area become the Q9's own (R404): what a read of them gives is not said. -/
def State.veilSave (s : State) (l : Nat) : State :=
  let k := s.launch l
  (pieces k.save ((k.pkt.getD 6 0).toNat / 64 * 64)).foldl (fun s p =>
    match walk s k.ctx p.1 true with
    | .ok (lvl, w) =>
      let lo := leafPA lvl w p.1 / 64
      let hi := lo + p.2 / 64
      { s with veils := cutLines s.veils lo hi ++ [(lo, hi)] }
    | .error _ => s) s
/-- Errors that a save meets in a team's own state, written into the image as poison with SRC 8 (R426). -/
def State.spoilImage (s : State) (l : Nat) (sites : List ErrorSite) : State :=
  let cs := s.hosts l
  (sites.filter fun e => (siteCore e).any cs.contains).foldl (fun s e => s.strike true e) s
/-- A team's image is lost (R404, R426): it ends with status 7, and its save area is zeroed before the completion word. -/
def State.saveLost (s : State) (l : Nat) : State := s.stopTeam l 7 0

/-! ### Resume (R188, R224, R260, R306, R330, R351, R381, R383, R404, R418) -/

/-- A source with its core renamed. -/
def Source.rename (re : Nat → Nat) : Source → Source
  | .actor c n t => .actor (re c) n t
  | .elem c p => .elem (re c) p
  | .engine c => .engine (re c)
/-- A place with its core renamed. -/
def Loc.rename (re : Nat → Nat) : Loc → Loc
  | .sp k off => .sp (re k) off
  | l => l
def Cont.rename (re : Nat → Nat) : Cont → Cont
  | .actor c n => .actor (re c) n
  | .elem c p => .elem (re c) p
  | .copy c q => .copy (re c) q
  | .append c q => .append (re c) q
def Rec.rename (re : Nat → Nat) (r : Rec) : Rec := { r with cont := r.cont.map (Cont.rename re) }
/-- A parked firing after resume: MWAIT reads its word again, an access that waited on a translation is issued again. -/
def Slot.resumed (x : Slot) : Slot :=
  match x.park with
  | some p =>
    if p.kind == .mwait && !p.done then { x with park := some { kind := .bank, done := true }, under := none }
    else if p.kind == .translation then { x with park := some { kind := .bank, done := true } }
    else x
  | none => x
/-- A saved core on the core that now hosts its page. -/
def Core.resumed (q : Core) (re : Nat → Nat) (filter : List (BitVec 24)) (range : Option (BitVec 24 × BitVec 24)) : Core :=
  let route (r : Option (Nat × Nat × Nat)) : Option (Nat × Nat × Nat) := r.map fun v => (re v.1, v.2)
  let q := { q with
    srcRun := true
    filter := []
    range := range
    elems := q.elems.map fun (e : Nat × Elem) => (e.1, { e.2 with routeX := route e.2.routeX, routeY := route e.2.routeY })
    slots := q.slots.map fun (x : Nat × Slot) => (x.1, x.2.resumed)
    lists := q.lists.map (Rec.rename re)
    writers := q.writers.map (Rec.rename re)
    poolQ := q.poolQ.map (Rec.rename re)
    queues := q.queues.map fun (b : Nat × List CopyReq) => (b.1, b.2.map fun r =>
      { r with src := r.src.rename re, from_ := r.from_.rename re, to_ := r.to_.rename re, idx := r.idx.rename re })
    seq := q.seq.map fun o => { o with src := o.src.rename re, to_ := o.to_.rename re } }
  filter.foldl Core.quench q
/-- A barrier of a resumed team: its arrivals stand on other cores, and so in another instance. -/
def Barrier.resumed (re : Nat → Nat) (b : Barrier) : Barrier :=
  { b with arrived := b.arrived.map fun a => (re a.1, a.2)
           inst := match b.arrived with | a :: _ => (match b.lvl with | 1 => re a.1 | 2 => quadOf (re a.1) | 3 => dieOf (re a.1) | _ => b.inst)
                                        | [] => b.inst }
/-- The instance that a scope record of a resumed team names (R253): that of the page it stood for. -/
def ScopeRec.resumed (re : Nat → Nat) (old : List Place) (r : ScopeRec) : ScopeRec :=
  let at_ (f : Nat → Nat) : Nat := match old.find? fun p => f p.core == r.inst with | some p => f (re p.core) | none => r.inst
  match r.lvl with
  | 1 => { r with inst := at_ id }
  | 2 => { r with inst := at_ quadOf }
  | 3 => { r with inst := at_ dieOf }
  | _ => r
/-- A page end or trigger event that fell into the stop is acted on (R392, R405). -/
def State.heldEnds (s : State) (c : Nat) : State :=
  let h := s.elem c 63
  if h.endHeld || (h.triggers != 0 && h.triggers ≤ h.events) then s.endPage c else s
/-- Has nothing been written to a team's save area since its image was saved? -/
def State.imageStands (s : State) (l : Nat) : Bool :=
  let k := s.launch l
  (pieces k.save ((k.pkt.getD 6 0).toNat / 64 * 64)).all fun p =>
    match walk s k.ctx p.1 true with
    | .ok (lvl, w) => (linesOf (leafPA lvl w p.1) p.2).all s.veiled
    | .error _ => false
/-- The pages of a saved image as they are read back; none where a token's header word fails the checks of R64. -/
def State.readImage (s : State) (l : Nat) : Option (List SavedPage) :=
  let whole := s.imageStands l
  ((s.launch l).saved.zipIdx.mapM fun p => do
    let ws := if whole then p.1.toks else (upTo p.1.toks.length).map fun i => Config.imageWord s.tick (p.2 * 2 ^ 32 + i)
    pure { p.1 with core := ← p.1.core.refill ws })
/-- A saved team stands at new places. Accesses saved unperformed are made again (R418). -/
def State.resumeAt (s : State) (l : Nat) (dies : List Nat) (ps : List Place) : State :=
  let k := s.launch l
  let re (c : Nat) : Nat :=
    match k.places.find? (·.core == c) with
    | some p => (placeOf ps p.pset p.inst p.share p.lpg).getD c
    | none => c
  let s := k.saved.foldl (fun s p => s.setCore (re p.place.core) (p.core.resumed re k.savedFilter k.savedRange)) s
  let s := k.savedBelfry.foldl (fun (s : State) o =>
    let d := dieOf (re o.core)
    { s with belfry := mset s.belfry d (s.belfryQ d ++ [{ o with core := re o.core }]) }) s
  let s := { s with
    entries := s.entries ++ k.savedEntries.map fun (e : DEntry) => (dies.getD e.share 0, e)
    reach := s.reach.map fun (r : Nat × ReachReq) => (r.1, if r.2.launch == some l then { r.2 with src := r.2.src.rename re } else r.2)
    scopes := s.scopes.map fun (r : Nat × ScopeRec) => (r.1, if r.2.launch == some l then r.2.resumed re k.places else r.2)
    watches := s.watches.filter fun w => w.team != some l }
  let s := s.modLaunch l fun k =>
    { k with phase := .running, why := none, readmit := none, dies := dies, places := ps, saved := [], savedEntries := [], savedBelfry := []
             savedFilter := [], savedRange := none, barriers := k.barriers.map (Barrier.resumed re) }
  let s := ps.foldl (fun (s : State) p => (s.core p.core).slots.foldl (fun s x => x.2.pend.foldl (fun s a => s.redoPend p.core x.1 a) s) s) s
  (ps.map (·.core)).foldl State.heldEnds s

/-- SAVE (R403 step 3, R426); a moved team resumes at once (R397). -/
def execSaveTeam (launch : Nat) (s : State) : Out :=
  match mget s.launches launch with
  | none => .next s
  | some k =>
    let ok := k.failed.isNone
      && ((k.phase == .stopping && s.quiescent launch) || (k.phase == .halted && s.settledFor launch true))
    let go (s : State) : Out :=
      let s := (s.saveTeam launch).veilSave launch
      match k.why with
      | some (.move m) =>
        let ps := movedPlaces k.places m
        .next (s.resumeAt launch k.dies (if s.placesOk launch k.dies ps then ps else k.places))
      | _ => .next s
    if !ok then .next s
    else
      match Config.saveOutcome s.tick with
      | .good => go s
      | .spoiled sites => go (s.spoilImage launch sites)
      | .lost => .next (s.saveLost launch)

/-- READMIT (R381, R410): a watchpoint of the swap has fired, or the rotation has reached the context again. The remaining
watchpoints are removed. -/
def execReadmit (launch : Nat) (bySlice : Bool) (s : State) : Out :=
  let k := s.launch launch
  if (mget s.launches launch).isNone || k.phase != .saved then .next s
  else
    let back := match s.turn with
      | some t => (upTo 16).all fun y => rotation t k.ctx ≤ rotation t y || !s.wants y
      | none => false
    if k.readmit.isNone && !(bySlice && back) then .next s
    else
      let s := { s with watches := s.watches.filter fun w => w.team != some launch }
      .next (s.modLaunch launch fun k => { k with readmit := k.readmit.or (some s.tick) })

/-- RESUME (R188, R404): an image that fails the checks of R64 or the Q9's own ends the team with status 7. -/
def execResumeTeam (launch : Nat) (s : State) : Out :=
  let k := s.launch launch
  if (mget s.launches launch).isNone || k.phase != .saved || (s.readmits k.ctx).head? != some launch || !s.myTurn k.ctx then .next s
  else
    let dies := s.resumeDies launch
    let room := dies.zipIdx.all fun d =>
      (s.entries.filter (·.1 == d.1)).length + (k.savedEntries.filter (·.share == d.2)).length ≤ 16384
    match s.plan k.img dies (packetInsts k.pkt) with
    | none => .next s
    | some ps =>
      if !room then .next s
      else
        match (if Config.imageFails s.tick then none else s.readImage launch) with
        | none => .next ((s.modLaunch launch fun k => { k with places := [] }).saveLost launch)
        | some pages => .next (((s.modLaunch launch fun k => { k with saved := pages }).resumeAt launch dies ps).served k.ctx)

end Sys2Proof.Machine
end

