-- ==== Sys2Proof/Machine/System.lean ====
section
/-!
DEFINITION. System (16): registers and their writes (R407 to R409), SREG, SYSC, TLBI, fault responses (R417), reassignment (R421),
context reset (R423), keys, scrubbing, bring-up, attestation and power (R420, R424, R432 to R434).
-/
namespace Sys2Proof.Machine

/-! ### Registers (R268, R407) -/

/-- Is a register number assigned? -/
def regAssigned (r : Nat) : Bool := r ≤ 0x0E || (0x80 ≤ r && r ≤ 0x8A)
/-- What a read of a register gives: WO fields read as zero (R408). -/
def State.regRead (s : State) (x r : Nat) : Word :=
  let c := s.ctx x
  match r with
  | 0x00 => c.ctl
  | 0x01 => c.ptb
  | 0x02 => c.htb
  | 0x03 => c.wtb
  | 0x04 => c.grp
  | 0x05 => c.rnkt
  | 0x06 => c.teamwait
  | 0x07 => c.slice
  | 0x08 => c.rtmo
  | 0x09 => c.caps
  | 0x0A => c.keys
  | 0x0B => c.trapr
  | 0x0C => c.trapwr
  | 0x0D => c.traprd
  | 0x0E => c.akl
  | 0x80 => s.poda
  | 0x81 => s.cycle
  | 0x82 => s.fltr
  | 0x83 => s.fltwr
  | 0x85 => s.mcr
  | 0x86 => s.mcwr
  | 0x87 => s.pzaddr
  | 0x88 => word (b2n s.pzBusy.isSome * 2 ^ 63)
  | 0x89 => s.plim
  | 0x8A => s.refr
  | _ => 0
/-- Bits [lo + len − 1 : lo] set. -/
def ones_ (lo len : Nat) : Nat := (2 ^ len - 1) * 2 ^ lo
/-- The bits of a register that R407 lists. -/
def regBits (r : Nat) : Nat :=
  match r with
  | 0x00 => ones_ 0 2 + ones_ 8 6
  | 0x01 | 0x02 | 0x03 | 0x05 => ones_ 0 52
  | 0x04 => ones_ 0 36
  | 0x06 | 0x07 | 0x08 => ones_ 0 32
  | 0x09 => ones_ 0 14 + ones_ 16 5
  | 0x0A => ones_ 0 64
  | 0x0B | 0x82 | 0x85 => ones_ 0 52 + ones_ 56 4
  | 0x0D => ones_ 0 48
  | 0x0E => ones_ 0 52 + ones_ 56 8
  | 0x80 => ones_ 0 9
  | 0x84 => ones_ 0 49
  | 0x87 => ones_ 16 30
  | 0x88 => ones_ 0 37 + ones_ 63 1
  | 0x89 => ones_ 0 12
  | 0x8A => ones_ 0 2 + ones_ 8 12 + ones_ 24 3
  | _ => 0
/-- Is a value outside the limits of a register's fields (R407; GRP's limits hold for a member of a group, DEDUCED, log 48)? -/
def regOutside (r : Nat) (v : Word) : Bool :=
  match r with
  | 0x01 => v.toNat % 16384 != 0
  | 0x02 | 0x03 => v.toNat % 4096 != 0
  | 0x04 => fld v 35 1 == 1 && (fld v 25 10 == 0 || 512 < fld v 25 10 || fld v 25 10 ≤ fld v 16 9)
  | 0x06 | 0x08 => v == 0
  | 0x09 => 16 < fld v 16 5
  | 0x0B => fld v 0 52 % 64 != 0
  | 0x0E => 16 < fld v 56 8
  | 0x89 => v.toNat < 1000 || 2600 < v.toNat
  | _ => false
/-- Why a write is refused (R409): 1 no writable field, 2 a reserved bit, 3 a value outside its limits, 4 BUSY. -/
def State.regRefused (s : State) (r : Nat) (v : Word) : Option Nat :=
  if r == 0x0C || r == 0x81 || r == 0x83 || r == 0x86 || (r == 0x80 && s.podaFixed) then some 1
  else if Nat.land v.toNat (regBits r) != v.toNat then some 2
  else if regOutside r v then some 3
  else if r == 0x88 && s.pzBusy.isSome then some 4
  else none

/-! ### Translation faults answered (R417, R418) -/

/-- Records held back for want of room are written as there is room, in order. -/
def State.unhold (s : State) : State :=
  s.xfaults.foldl (fun s f =>
    if f.held && s.xroom then
      let s := { s with xfaults := s.xfaults.map fun (g : XFault) => if g.ord == f.ord then { g with held := false } else g
                        fltwr := word ((f.ord + 1) % 2 ^ 48) }
      (s.xwrite f f.ord).send (.interrupt 0 0)
    else s) s
/-- Every access that waits on a record walks again. -/
def State.rewalk (s : State) (n : Nat) : State :=
  let clear (w : Option Nat) : Option Nat := if w == some n then none else w
  { s with
    cores := s.cores.map fun (c : Nat × Core) =>
      (c.1, { c.2 with
        elems := c.2.elems.map fun (e : Nat × Elem) => (e.1, { e.2 with xwait := clear e.2.xwait })
        queues := c.2.queues.map fun (q : Nat × List CopyReq) => (q.1, q.2.map fun r => { r with xwait := clear r.xwait })
        seq := c.2.seq.map fun o => { o with xwait := clear o.xwait } })
    belfry := s.belfry.map fun (b : Nat × List BelfryOp) => (b.1, b.2.map fun o => { o with xwait := clear o.xwait }) }
/-- Every access of a core that waits on a record ends with error 0x42 (R220); the page that it is about gives format and geometry. -/
def State.failCore (s : State) (f : XFault) (c : Nat) : State :=
  let n := f.ord
  let pg := s.pageOf c f.ctx (f.page * 2 ^ lvlShift f.lvl)
  let s := (upTo 16).foldl (fun (s : State) i =>
    let s := (s.slot c i).pend.foldl (fun s p =>
      if p.fault == some n then
        (s.modSlot c i fun x => { x with pend := lremove (· == p) x.pend }).failPend c i p 0x42 pg (word p.offset)
      else s) s
    match (s.slot c i).park with
    | some p => if p.kind == .translation && p.on == n && !p.done then s.asyncActor c i 0x42 p.at_.1 pg.1 pg.2 0 (word p.at_.2) else s
    | none => s) s
  let s := (s.core c).elems.foldl (fun s e =>
    if e.2.xwait == some n then s.asyncElem c e.1 0x42 e.2.xat.1 pg.1 pg.2 0 (word e.2.xat.2) else s) s
  let s := (s.core c).queues.foldl (fun s q =>
    match q.2 with
    | r :: _ =>
      if r.xwait == some n then
        (s.asyncLate (.engine c) 0x42 r.xat.1 pg 0 (word r.xat.2) 0).modHead c q.1 fun r =>
          { r with status := 0x42, stage := if r.stage == .stamp then .append else .stamp }
      else s
    | [] => s) s
  match (s.core c).seq with
  | o :: _ => if o.xwait == some n then s.seqError c 0x42 o (fld o.a 52 12) pg (fld o.a 0 52) none else s
  | [] => s
/-- A Belfry instruction that waits on a record ends, and its firing with it. -/
def State.failBelfry (s : State) (f : XFault) (d : Nat) : State :=
  (s.belfryQ d).foldl (fun s o =>
    if o.xwait == some f.ord then
      let pg := s.pageOf o.core f.ctx (f.page * 2 ^ lvlShift f.lvl)
      s.asyncActor o.core o.slot 0x42 o.xat.1 pg.1 pg.2 0 (word o.xat.2)
    else s) s
/-- Everything that waits on a record whose answer is FAIL (R417): accesses of cores and Belfries, of units, trap records, and words of
launches that the supervisor has ended. -/
def State.failAll (s : State) (f : XFault) : State :=
  let s := s.cores.foldl (fun s c => s.failCore f c.1) s
  let s := (upTo 4).foldl (fun s d => s.failBelfry f d) s
  let s := { s with unitWait := s.unitWait.map fun w => if w.on == f.ord then { w with failed := true } else w }
  (upTo 16).foldl (fun s x =>
    let k := s.ctx x
    let s := if k.trapX == some f.ord then (s.loseTrap x).modCtx x fun c => { c with trapQ := c.trapQ.drop 1 } else s
    if k.endWords.any (·.on == some f.ord) then
      (s.modCtx x fun c => { c with endWords := c.endWords.filter (·.on != some f.ord) }).unitFailed x
    else s) s
/-- Write the completion word of a launch that the supervisor has ended, or let it wait on the fault that it meets (R417, R418, R423). -/
def State.endWord (s : State) (x va : Nat) : State :=
  match completion x va 8 0 s with
  | .ok (_, t) => t
  | .error (.xfault y a cause write _) =>
    let r := s.xreport 0 engineCore y a cause write
    r.1.modCtx x fun c => { c with endWords := c.endWords ++ [{ va := va, on := some r.2 }] }
  | .error _ => s.modCtx x fun c => { c with endWords := c.endWords ++ [{ va := va }] }
/-- What waits on no outstanding record is made again: loads and stores of firings, trap records, completion words (R417, R418). -/
def State.settle (s : State) : State :=
  (upTo 16).foldl (fun (s : State) x =>
    let due := (s.ctx x).endWords.filter fun w => w.on.all fun n => !s.xfaults.any (·.ord == n)
    let s := s.modCtx x fun c => { c with endWords := c.endWords.filter fun w => !due.contains w }
    let s := due.foldl (fun s w => s.endWord x w.va) s
    if (s.ctx x).trapX.all fun n => !s.xfaults.any (·.ord == n) then s.settleTraps x else s) s.redoEvery
/-- A write of FRESP: [47:0] the record's ordinal, [48] FAIL. -/
def State.respond (s : State) (v : Word) : State :=
  let n := fld v 0 48
  match s.xfaults.find? fun f => f.ord == n && !f.held with
  | none => s
  | some f =>
    let s := { s with xfaults := s.xfaults.filter (·.ord != n) }
    let s := if fld v 48 1 == 0 then s else s.failAll f
    (s.rewalk n).unhold.settle

/-! ### Context reset (R423) -/

/-- A launch ends by the supervisor: status 8. -/
def State.endBySupervisor (s : State) (l : Nat) : State :=
  let k := s.launch l
  ((s.flushCores (s.hosts l)).freeLaunch l).endWord k.ctx k.done
/-- An accepted reach request of a context that is reset fails with error 0x44 (R282; that it is failed and not completed is a DESIGN
CHOICE, log 109); a COLL's completion word says so (R279). -/
def State.failReach (s : State) (req : Nat) (r : ReachReq) : State :=
  match r.part with
  | some own =>
    (match collEnd req r (s.collVoid r own) noFlags 0x44 3 s with
     | .ok (_, t) => t
     | .error _ => (s.reachError r 0x44 3).dropReach req)
  | none => (s.reachError r 0x44 3).dropReach req
/-- Is an event that waits on a fault record about a launch or a packet of a context? -/
def State.aboutCtx (s : State) (x : Nat) : Instr → Bool
  | .admission y _ => x == y
  | .flueWrite l | .launchEnd l => (s.launch l).ctx == x
  | .collComplete req .. => (mget s.reach req).any (·.ctx == x)
  | _ => false
/-- Clearing EN. A page table that was written while EN was set is in force from here on (R408; DEDUCED, log 102). -/
def State.resetContext (s : State) (x : Nat) : State :=
  let s := { s with unitWait := s.unitWait.filter fun w => !s.aboutCtx x w.ev }
  let s := (s.reach.filter fun r => r.2.ctx == x).foldl (fun s r => s.failReach r.1 r.2) s
  let s := (s.launches.filter fun l => l.2.ctx == x).foldl (fun s l => s.endBySupervisor l.1) s
  { s with
    heldAppends := s.heldAppends.filter fun a => a.1 != x
    watches := s.watches.filter fun w => w.ctx != x
    images := s.images.filter fun k => k.2.ctx != x
    belfryCache := s.belfryCache.filter fun b => b.2.1 != x
    exchange := s.exchange.filter fun r => r.ctx != x }.modCtx x fun c =>
      { c with queues := [], active := [], ptbUse := fld c.ptb 0 52, htbUse := fld c.htb 0 52 }

/-! ### Register writes (R409) -/

/-- EN of a context. -/
def Ctx.enabled (c : Ctx) : Bool := fld c.ctl 0 1 == 1
/-- Store a register's RW fields. A new PTB or HTB reaches accesses after TLBI or HINV, and at once while EN is clear (R408; DEDUCED,
log 102). -/
def State.regStore (s : State) (x r : Nat) (v : Word) : State :=
  match r with
  | 0x00 => s.modCtx x fun c => { c with ctl := v }
  | 0x01 => s.modCtx x fun c => { c with ptb := v, ptbUse := if c.enabled then c.ptbUse else fld v 0 52 }
  | 0x02 => s.modCtx x fun c => { c with htb := v, htbUse := if c.enabled then c.htbUse else fld v 0 52 }
  | 0x03 => s.modCtx x fun c => { c with wtb := v }
  | 0x04 => s.modCtx x fun c => { c with grp := v }
  | 0x05 => s.modCtx x fun c => { c with rnkt := v }
  | 0x06 => s.modCtx x fun c => { c with teamwait := v }
  | 0x07 => s.modCtx x fun c => { c with slice := v }
  | 0x08 => s.modCtx x fun c => { c with rtmo := v }
  | 0x09 => s.modCtx x fun c => { c with caps := v }
  | 0x0A => s.modCtx x fun c => { c with keys := v }
  | 0x0B => (s.modCtx x fun c => { c with trapr := v }).settleTraps x
  | 0x0D => s.modCtx x fun c => { c with traprd := v }
  | 0x0E => s.modCtx x fun c => { c with akl := v }
  | 0x80 => { s with poda := v }
  | 0x82 => { s with fltr := v }.unhold
  | 0x85 => { s with mcr := v }
  | 0x87 => { s with pzaddr := v }
  | 0x88 => { s with pzBusy := some (fld s.pzaddr 16 30, v) }
  | 0x89 => { s with plim := v }
  -- V and MORE are cleared by writing 1
  | 0x8A => { s with refr := s.refr &&& ~~~(v &&& 3) }
  | _ => s
/-- An accepted write, with what R407 attaches to it. -/
def State.regWrite (s : State) (x r : Nat) (v : Word) : State :=
  if r == 0x84 then s.respond v
  else
    let was := fld (s.ctx x).ctl 0 1
    let s := s.regStore x r v
    if r != 0 then s
    else if fld v 0 1 == 1 then { s with podaFixed := true }
    else if was == 1 then s.resetContext x else s
/-- A refusal through the supervisor window is recorded in register 0x8A. -/
def State.recordRefusal (s : State) (x r cause : Nat) : State :=
  if r == 0x8A then s
  else if fld s.refr 0 1 == 1 then { s with refr := s.refr ||| 2 }
  else { s with refr := word (1 + fld s.refr 1 1 * 2 + r * 2 ^ 8 + (if r < 0x80 then x else 0) * 2 ^ 16 + cause * 2 ^ 24) }
/-- A write through the supervisor window, once the supervisor has been verified (R432). -/
def State.windowWrite (s : State) (x r : Nat) (v : Word) : State :=
  if !s.hsMode || !regAssigned r || 16 ≤ x then s
  else
    match s.regRefused r v with
    | some cause => s.recordRefusal x r cause
    | none => s.regWrite x r v

/-- REGISTER_WRITE (R409). -/
def execRegisterWrite (reg ctx : Nat) (val : Word) (s : State) : Out := .next (s.windowWrite ctx reg val)
/-- CONTEXT_RESET (R423): a write of register 0x00 with EN clear. -/
def execContextReset (ctx : Nat) (val : Word) (s : State) : Out :=
  if fld val 0 1 == 1 then .next s else .next (s.windowWrite ctx 0 val)
/-- FAULT_RESPONSE (R417): a write of FRESP. -/
def execFaultResponse (val : Word) (s : State) : Out := .next (s.windowWrite 0 0x84 val)
/-- REASSIGN (R421): a write of register 0x88. -/
def execReassign (val : Word) (s : State) : Out := .next (s.windowWrite 0 0x88 val)

/-- SREG (R408). -/
def opSreg (f : XForm) (c n : Nat) : M Unit := do
  let s ← get
  let r := ctlF f.ctl 0 8
  let x := ctlF f.ctl 8 4
  let wr := ctlF f.ctl 12 1 == 1
  let v := s.reg c n f.sa
  if !regAssigned r || (0x80 ≤ r && x != 0) || (!wr && nz f.sa) then trap 0x2B
  else
    releaseAt c (s.actorSrc c n) 4 everyLine
    let s ← get
    let old := s.regRead x r
    if wr && (s.regRefused r v).isSome then trap 0x2B
    else
      modify fun s => s.modSlot c n fun y => (y.setReg f.dst.toNat old).retire
      if wr then modify fun s => s.regWrite x r v else pure ()
def execSreg (f : XForm) (s : State) : Out := s.runActor s.here.1 s.here.2 (opSreg f s.here.1 s.here.2)

/-! ### SYSC (R413) -/

/-- SYSC: without a ring the call counts as lost. It waits for room, and for the records before it, and a fault at the record's place is
its own (R418). -/
def opSysc (f : IForm) (c n : Nat) : M Unit := do
  let s ← get
  let x := s.ctxOf c
  if !s.sysGoes x then stop (.wait { kind := .sysc })
  else
    (match (if s.ringBase x == 0 then none else s.trapHeld x) with
     | some (some cause) => stop (.xfault x (s.trapPlace x) cause true (0, 0))
     | _ => pure ())
    let ord := trapWr (s.ctx x).trapwr
    modify fun s => (s.coreRecord c (ctlF f.imm 0 16) 5 0 n 1 (s.reg c n f.sa) (s.reg c n f.sb) (word (ctlF f.imm 0 16)) 0).modSlot c n fun y =>
      (y.setReg f.dst.toNat (word ord)).retire
def execSysc (f : IForm) (s : State) : Out := s.runActor s.here.1 s.here.2 (opSysc f s.here.1 s.here.2)

/-! ### TLBI (R419) -/

/-- TLBI: what the L1s of the tenants hold dirty under the dropped translations goes home, and a new PTB reaches accesses (R408). -/
def opTlbi (f : XForm) (c n : Nat) : M Unit := do
  let s ← get
  let x := ctlF f.ctl 0 4
  let kind := ctlF f.ctl 4 2
  let va := s.rd f.sa
  releaseAt c (s.actorSrc c n) 4 everyLine
  let gone (t : Xlat) : Bool := kind == 2 || (t.ctx == x && (kind == 0 || va / 2 ^ lvlShift t.lvl == t.base))
  modify fun s =>
    let s := s.flushCores ((s.cores.map (·.1)).filter fun k => kind == 2 || ((s.core k).own.isSome && s.ctxOf k == x))
    let s := { s with tlb := s.tlb.filter (!gone ·) }
    (upTo 16).foldl (fun s y => if kind == 2 || y == x then s.modCtx y fun c => { c with ptbUse := fld c.ptb 0 52 } else s) s
  finishNone c n 0
def execTlbi (f : XForm) (s : State) : Out := s.runActor s.here.1 s.here.2 (opTlbi f s.here.1 s.here.2)

/-! ### Reassignment, keys, scrubbing (R420 to R424) -/

/-- REASSIGN_DONE (R421, R422). -/
def execReassignDone (s : State) : Out :=
  match s.pzBusy with
  | none => .next s
  | some (first, v) =>
    let last := first + fld v 0 32
    let inRange (line : Nat) : Bool := first ≤ line / 1024 && line / 1024 < last
    let maps (t : Xlat) : Bool :=
      let a := ptePA t.pte / 65536
      a < last && first < a + 2 ^ (lvlShift t.lvl - 16)
    let pages := (upTo (fld v 0 32)).map (first + ·)
    .next { s with
      tlb := s.tlb.filter (!maps ·)
      cores := s.cores.map fun (c : Nat × Core) =>
        (c.1, { c.2 with l1 := c.2.l1.filter (fun l => !inRange l.1), metaC := c.2.metaC.filter fun l => !inRange l.1 })
      scopes := s.scopes.filter fun r => !inRange r.1
      hbm := s.hbm.filter fun b => !inRange (b.1 / 64)
      poison := s.poison.filter fun w => !inRange (w / 8)
      poisonSrc := s.poisonSrc.filter fun w => !inRange (w.1 / 8)
      lineKey := s.lineKey.filter fun l => !inRange l.1
      veils := cutLines s.veils (1024 * first) (1024 * last)
      placed := s.placed.flatMap fun (p : Nat × Nat × Nat) => [(p.1, min p.2.1 first, p.2.2), (max p.1 last, p.2.1, p.2.2)].filter fun r => r.1 < r.2.1
      owners := if fld v 36 1 == 1 then s.owners.filter fun p => !(first ≤ p.1 && p.1 < last)
        else pages.foldl (fun m p => mset m p (fld v 32 4)) s.owners
      pzBusy := none }.settle

/-- KEY_LOAD (R420). -/
def execKeyLoad (entry : Nat) (key : List Byte) (s : State) : Out :=
  if 64 ≤ entry then .next s
  else .next { s with keyTab := mset s.keyTab entry (key :: mgetD s.keyTab entry []) }

/-- SCRUB (R424): an error that ECC corrects is counted; one that it does not marks its word poisoned. -/
def execScrub (line : Nat) (s : State) : Out :=
  let e := Config.freeError s.tick line
  if e == 1 then .next { s with corrected := s.corrected + 1 }
  else if 2 ≤ e && e ≤ 9 then .next (s.strike false (.hbm (8 * line + (e - 2))))
  else .next s

/-! ### Bring-up, attestation, power (R432 to R434) -/

/-- Does the firmware's signature verify against the fused hash of its key (R432)? -/
def State.firmwareOk (s : State) (b : BringUp) : Bool := Sha.sha512 b.fwKey == s.fuse && Ed25519.verify b.fwKey b.firmware b.fwSig
/-- BRING_UP (R432). The supervisor acts only once it has been verified. -/
def execBringUp (b : BringUp) (s : State) : Out :=
  if s.power != .off then .next s
  else if !s.firmwareOk b then .next { s with power := .heldInReset }
  else
    let s := { s with
      power := .on
      hbm := [], poison := [], poisonSrc := [], lineKey := [], veils := []
      poda := word (b.pod % 512)
      keyTab := b.keys.foldl (fun m k => mset m (k.1 % 64) (k.2 :: mgetD m (k.1 % 64) [])) s.keyTab
      fwMeas := Sha.sha512 b.firmware
      svMeas := Sha.sha512 b.supervisor
      sysKeys := b.systemKeys
      hsMode := b.svOk }
    .next (if b.svOk then b.qpairs.foldl State.bindPair { s with
        rateStep := b.rateStep
        requesters := b.requesters.foldl (fun m r => mset m r.1 r.2) s.requesters }
      else s)

/-- The report's contents, in the order that R433 names them; its layout is the model's (DEDUCED, log 49). -/
def State.report (s : State) (nonce : List Byte) : List Byte :=
  nonce ++ leBytes 2 s.pod ++ s.fwMeas ++ s.svMeas
    ++ s.images.flatMap fun k => leBytes 1 k.2.ctx ++ leBytes 4 k.1 ++ k.2.meas
/-- ATTESTATION_REPORT (R433), with a nonce of 64 bytes. -/
def execAttestationReport (nonce : List Byte) (s : State) : Out :=
  if nonce.length != 64 then .next s
  else .next (s.send (.report (s.report nonce) (Config.deviceSign (s.report nonce))))

/-- THROTTLE (R434): one step of 1/16, as far as the clock goes. -/
def execThrottle (s : State) : Out := .next { s with throttle := min 15 (s.throttle + 1) }
/-- THERMAL_TRIP (R434): no state survives it but the fuses. What is left of the agenda is the model's own. -/
def execThermalTrip (s : State) : Out := .next { power := .tripped, fuse := s.fuse, agenda := s.agenda, tick := s.tick }

end Sys2Proof.Machine
end

