-- ==== Sys2Proof/Machine/Dispatch.lean ====
section
/-!
DEFINITION. The meaning of each row: one call of the definition that says it.
-/
namespace Sys2Proof.Machine

def exec (i : Instr) (s : State) : Host.Outcome State Fault Refusal :=
  match i with
  | .field elem fld val => Sys2Proof.Machine.execField elem fld val s
  | .page rsv page => Sys2Proof.Machine.execPage rsv page s
  | .bank rsv bank => Sys2Proof.Machine.execBank rsv bank s
  | .arm rsv all elem => Sys2Proof.Machine.execArm rsv all elem s
  | .disarm rsv all elem => Sys2Proof.Machine.execDisarm rsv all elem s
  | .sealPage count => Sys2Proof.Machine.execSealPage count s
  | .pfx hi => Sys2Proof.Machine.execPfx hi s
  | .add f => Sys2Proof.Machine.execAdd f s
  | .sub f => Sys2Proof.Machine.execSub f s
  | .mul f => Sys2Proof.Machine.execMul f s
  | .mulh f => Sys2Proof.Machine.execMulh f s
  | .div f => Sys2Proof.Machine.execDiv f s
  | .rem f => Sys2Proof.Machine.execRem f s
  | .and f => Sys2Proof.Machine.execAnd f s
  | .or f => Sys2Proof.Machine.execOr f s
  | .xor f => Sys2Proof.Machine.execXor f s
  | .shl f => Sys2Proof.Machine.execShl f s
  | .shr f => Sys2Proof.Machine.execShr f s
  | .sar f => Sys2Proof.Machine.execSar f s
  | .min f => Sys2Proof.Machine.execMin f s
  | .max f => Sys2Proof.Machine.execMax f s
  | .slt f => Sys2Proof.Machine.execSlt f s
  | .sel f => Sys2Proof.Machine.execSel f s
  | .popc f => Sys2Proof.Machine.execPopc f s
  | .clz f => Sys2Proof.Machine.execClz f s
  | .mov f => Sys2Proof.Machine.execMov f s
  | .addi f => Sys2Proof.Machine.execAddi f s
  | .andi f => Sys2Proof.Machine.execAndi f s
  | .ori f => Sys2Proof.Machine.execOri f s
  | .xori f => Sys2Proof.Machine.execXori f s
  | .shli f => Sys2Proof.Machine.execShli f s
  | .shri f => Sys2Proof.Machine.execShri f s
  | .sari f => Sys2Proof.Machine.execSari f s
  | .slti f => Sys2Proof.Machine.execSlti f s
  | .movi f => Sys2Proof.Machine.execMovi f s
  | .movhi f => Sys2Proof.Machine.execMovhi f s
  | .fadd f => Sys2Proof.Machine.execFadd f s
  | .fsub f => Sys2Proof.Machine.execFsub f s
  | .fmul f => Sys2Proof.Machine.execFmul f s
  | .ffma f => Sys2Proof.Machine.execFfma f s
  | .fmin f => Sys2Proof.Machine.execFmin f s
  | .fmax f => Sys2Proof.Machine.execFmax f s
  | .fcmp f => Sys2Proof.Machine.execFcmp f s
  | .fclass f => Sys2Proof.Machine.execFclass f s
  | .cvt f => Sys2Proof.Machine.execCvt f s
  | .br f => Sys2Proof.Machine.execBr f s
  | .bcc f => Sys2Proof.Machine.execBcc f s
  | .loop f => Sys2Proof.Machine.execLoop f s
  | .ld f => Sys2Proof.Machine.execLd f s
  | .st f => Sys2Proof.Machine.execSt f s
  | .ldf f => Sys2Proof.Machine.execLdf f s
  | .ldfe f => Sys2Proof.Machine.execLdfe f s
  | .stef f => Sys2Proof.Machine.execStef f s
  | .ways f => Sys2Proof.Machine.execWays f s
  | .hinv f => Sys2Proof.Machine.execHinv f s
  | .aadd f => Sys2Proof.Machine.execAadd f s
  | .aand f => Sys2Proof.Machine.execAand f s
  | .aor f => Sys2Proof.Machine.execAor f s
  | .axor f => Sys2Proof.Machine.execAxor f s
  | .amin f => Sys2Proof.Machine.execAmin f s
  | .amax f => Sys2Proof.Machine.execAmax f s
  | .axchg f => Sys2Proof.Machine.execAxchg f s
  | .afadd f => Sys2Proof.Machine.execAfadd f s
  | .cas f => Sys2Proof.Machine.execCas f s
  | .dcas f => Sys2Proof.Machine.execDcas f s
  | .amove f => Sys2Proof.Machine.execAmove f s
  | .bind f => Sys2Proof.Machine.execBind f s
  | .acq f => Sys2Proof.Machine.execAcq f s
  | .rel f => Sys2Proof.Machine.execRel f s
  | .bar f => Sys2Proof.Machine.execBar f s
  | .mwait f => Sys2Proof.Machine.execMwait f s
  | .watch f => Sys2Proof.Machine.execWatch f s
  | .watchAppend held => Sys2Proof.Machine.execWatchAppend held s
  | .rst f => Sys2Proof.Machine.execRst f s
  | .ramo f => Sys2Proof.Machine.execRamo f s
  | .rsend f => Sys2Proof.Machine.execRsend f s
  | .coll f => Sys2Proof.Machine.execColl f s
  | .collComplete req peers reached => Sys2Proof.Machine.execCollComplete req peers reached s
  | .cellArrival c => Sys2Proof.Machine.execCellArrival c s
  | .remoteAccessArrival a => Sys2Proof.Machine.execRemoteAccessArrival a s
  | .reachAcknowledge req data poisoned => Sys2Proof.Machine.execReachAcknowledge req data poisoned s
  | .reachTimeout req cause => Sys2Proof.Machine.execReachTimeout req cause s
  | .rdmaWriteArrival qp rkey addr data => Sys2Proof.Machine.execRdmaWriteArrival qp rkey addr data s
  | .rdmaSendLaunch qp data => Sys2Proof.Machine.execRdmaSendLaunch qp data s
  | .pcieInbound requester write addr data => Sys2Proof.Machine.execPcieInbound requester write addr data s
  | .xfer f => Sys2Proof.Machine.execXfer f s
  | .xim2c f => Sys2Proof.Machine.execXim2c f s
  | .gath f => Sys2Proof.Machine.execGath f s
  | .drain f => Sys2Proof.Machine.execDrain f s
  | .fenceq f => Sys2Proof.Machine.execFenceq f s
  | .copyPerform core queue => Sys2Proof.Machine.execCopyPerform core queue s
  | .fenceComplete core queue => Sys2Proof.Machine.execFenceComplete core queue s
  | .gatherBatch core pos => Sys2Proof.Machine.execGatherBatch core pos s
  | .oclaim f => Sys2Proof.Machine.execOclaim f s
  | .orelease f => Sys2Proof.Machine.execOrelease f s
  | .mma f => Sys2Proof.Machine.execMma f s
  | .mmaq f => Sys2Proof.Machine.execMmaq f s
  | .mchk f => Sys2Proof.Machine.execMchk f s
  | .mfix f => Sys2Proof.Machine.execMfix f s
  | .minj f => Sys2Proof.Machine.execMinj f s
  | .maccz f => Sys2Proof.Machine.execMaccz f s
  | .maccst f => Sys2Proof.Machine.execMaccst f s
  | .sequencerOperation core => Sys2Proof.Machine.execSequencerOperation core s
  | .rcap f => Sys2Proof.Machine.execRcap f s
  | .rcapMerge die => Sys2Proof.Machine.execRcapMerge die s
  | .rdisp f => Sys2Proof.Machine.execRdisp f s
  | .rcomb f => Sys2Proof.Machine.execRcomb f s
  | .rrec f => Sys2Proof.Machine.execRrec f s
  | .recv f => Sys2Proof.Machine.execRecv f s
  | .send f => Sys2Proof.Machine.execSend f s
  | .peek f => Sys2Proof.Machine.execPeek f s
  | .note f => Sys2Proof.Machine.execNote f s
  | .firend f => Sys2Proof.Machine.execFirend f s
  | .cfgw f => Sys2Proof.Machine.execCfgw f s
  | .launch f => Sys2Proof.Machine.execLaunch f s
  | .sysc f => Sys2Proof.Machine.execSysc f s
  | .sreg f => Sys2Proof.Machine.execSreg f s
  | .tlbi f => Sys2Proof.Machine.execTlbi f s
  | .digest f => Sys2Proof.Machine.execDigest f s
  | .iadd m => Sys2Proof.Machine.execIadd m s
  | .isub m => Sys2Proof.Machine.execIsub m s
  | .imul m => Sys2Proof.Machine.execImul m s
  | .imad m => Sys2Proof.Machine.execImad m s
  | .imin m => Sys2Proof.Machine.execImin m s
  | .imax m => Sys2Proof.Machine.execImax m s
  | .iabs m => Sys2Proof.Machine.execIabs m s
  | .andElement m => Sys2Proof.Machine.execAndElement m s
  | .orElement m => Sys2Proof.Machine.execOrElement m s
  | .xorElement m => Sys2Proof.Machine.execXorElement m s
  | .not m => Sys2Proof.Machine.execNot m s
  | .shlElement m => Sys2Proof.Machine.execShlElement m s
  | .shrElement m => Sys2Proof.Machine.execShrElement m s
  | .sarElement m => Sys2Proof.Machine.execSarElement m s
  | .icmp m => Sys2Proof.Machine.execIcmp m s
  | .faddElement m => Sys2Proof.Machine.execFaddElement m s
  | .fsubElement m => Sys2Proof.Machine.execFsubElement m s
  | .fmulElement m => Sys2Proof.Machine.execFmulElement m s
  | .ffmaElement m => Sys2Proof.Machine.execFfmaElement m s
  | .fminElement m => Sys2Proof.Machine.execFminElement m s
  | .fmaxElement m => Sys2Proof.Machine.execFmaxElement m s
  | .fabs m => Sys2Proof.Machine.execFabs m s
  | .fneg m => Sys2Proof.Machine.execFneg m s
  | .fcmpElement m => Sys2Proof.Machine.execFcmpElement m s
  | .cmpf m => Sys2Proof.Machine.execCmpf m s
  | .fclassElement m => Sys2Proof.Machine.execFclassElement m s
  | .fcpys m => Sys2Proof.Machine.execFcpys m s
  | .fexp m => Sys2Proof.Machine.execFexp m s
  | .fldx m => Sys2Proof.Machine.execFldx m s
  | .selElement m => Sys2Proof.Machine.execSelElement m s
  | .cvtElement m => Sys2Proof.Machine.execCvtElement m s
  | .pack m => Sys2Proof.Machine.execPack m s
  | .unpack m => Sys2Proof.Machine.execUnpack m s
  | .shuf m => Sys2Proof.Machine.execShuf m s
  | .bcast m => Sys2Proof.Machine.execBcast m s
  | .lred m => Sys2Proof.Machine.execLred m s
  | .lscan m => Sys2Proof.Machine.execLscan m s
  | .lext m => Sys2Proof.Machine.execLext m s
  | .lins m => Sys2Proof.Machine.execLins m s
  | .rot m => Sys2Proof.Machine.execRot m s
  | .lmask m => Sys2Proof.Machine.execLmask m s
  | .cnt m => Sys2Proof.Machine.execCnt m s
  | .aff m => Sys2Proof.Machine.execAff m s
  | .delay m => Sys2Proof.Machine.execDelay m s
  | .acc m => Sys2Proof.Machine.execAcc m s
  | .const m => Sys2Proof.Machine.execConst m s
  | .fork m => Sys2Proof.Machine.execFork m s
  | .join m => Sys2Proof.Machine.execJoin m s
  | .steer m => Sys2Proof.Machine.execSteer m s
  | .filter m => Sys2Proof.Machine.execFilter m s
  | .gate m => Sys2Proof.Machine.execGate m s
  | .osnew m => Sys2Proof.Machine.execOsnew m s
  | .osquench m => Sys2Proof.Machine.execOsquench m s
  | .oscommit m => Sys2Proof.Machine.execOscommit m s
  | .scanu m => Sys2Proof.Machine.execScanu m s
  | .scanc m => Sys2Proof.Machine.execScanc m s
  | .scanb m => Sys2Proof.Machine.execScanb m s
  | .isect m => Sys2Proof.Machine.execIsect m s
  | .union m => Sys2Proof.Machine.execUnion m s
  | .repeatEl m => Sys2Proof.Machine.execRepeatEl m s
  | .reduce m => Sys2Proof.Machine.execReduce m s
  | .locate m => Sys2Proof.Machine.execLocate m s
  | .crddrop m => Sys2Proof.Machine.execCrddrop m s
  | .poppfx m => Sys2Proof.Machine.execPoppfx m s
  | .band m => Sys2Proof.Machine.execBand m s
  | .bor m => Sys2Proof.Machine.execBor m s
  | .fwrite m => Sys2Proof.Machine.execFwrite m s
  | .lda m => Sys2Proof.Machine.execLda m s
  | .ldi m => Sys2Proof.Machine.execLdi m s
  | .sta m => Sys2Proof.Machine.execSta m s
  | .sti m => Sys2Proof.Machine.execSti m s
  | .atom m => Sys2Proof.Machine.execAtom m s
  | .xreq m => Sys2Proof.Machine.execXreq m s
  | .greq m => Sys2Proof.Machine.execGreq m s
  | .broute m => Sys2Proof.Machine.execBroute m s
  | .mport m => Sys2Proof.Machine.execMport m s
  | .triggerEvent core pos => Sys2Proof.Machine.execTriggerEvent core pos s
  | .dryPoll core => Sys2Proof.Machine.execDryPoll core s
  | .swap core pos => Sys2Proof.Machine.execSwap core pos s
  | .aportSwap core => Sys2Proof.Machine.execAportSwap core s
  | .discardUnfired core pos port => Sys2Proof.Machine.execDiscardUnfired core pos port s
  | .overflowLookup core pos port => Sys2Proof.Machine.execOverflowLookup core pos port s
  | .rankedArrivalElastic core pos port => Sys2Proof.Machine.execRankedArrivalElastic core pos port s
  | .rankedArrivalRepro core pos port => Sys2Proof.Machine.execRankedArrivalRepro core pos port s
  | .segmentClose core pos port => Sys2Proof.Machine.execSegmentClose core pos port s
  | .declare die req => Sys2Proof.Machine.execDeclare die req s
  | .commitIfLive die req => Sys2Proof.Machine.execCommitIfLive die req s
  | .quenchIfLive die req => Sys2Proof.Machine.execQuenchIfLive die req s
  | .damperAnswer die answer => Sys2Proof.Machine.execDamperAnswer die answer s
  | .quenchBroadcast die cast => Sys2Proof.Machine.execQuenchBroadcast die cast s
  | .frontierReport launch share => Sys2Proof.Machine.execFrontierReport launch share s
  | .noticeRelease launch => Sys2Proof.Machine.execNoticeRelease launch s
  | .flueWrite launch => Sys2Proof.Machine.execFlueWrite launch s
  | .schedulingRound core => Sys2Proof.Machine.execSchedulingRound core s
  | .slotFinish core slot => Sys2Proof.Machine.execSlotFinish core slot s
  | .lanternDeal launch share inst => Sys2Proof.Machine.execLanternDeal launch share inst s
  | .chunkRequest launch share inst => Sys2Proof.Machine.execChunkRequest launch share inst s
  | .doorbell ctx queue addr => Sys2Proof.Machine.execDoorbell ctx queue addr s
  | .guestHinv ctx val => Sys2Proof.Machine.execGuestHinv ctx val s
  | .admitImage ctx addr => Sys2Proof.Machine.execAdmitImage ctx addr s
  | .admission ctx queue => Sys2Proof.Machine.execAdmission ctx queue s
  | .launchEndStage1 launch => Sys2Proof.Machine.execLaunchEndStage1 launch s
  | .launchEnd launch => Sys2Proof.Machine.execLaunchEnd launch s
  | .sliceExpiry ctx => Sys2Proof.Machine.execSliceExpiry ctx s
  | .teamSwap core slot => Sys2Proof.Machine.execTeamSwap core slot s
  | .allocatorMove launch die places => Sys2Proof.Machine.execAllocatorMove launch die places s
  | .saveTeam launch => Sys2Proof.Machine.execSaveTeam launch s
  | .drainBudgetExpiry launch => Sys2Proof.Machine.execDrainBudgetExpiry launch s
  | .readmit launch cause => Sys2Proof.Machine.execReadmit launch cause s
  | .resumeTeam launch => Sys2Proof.Machine.execResumeTeam launch s
  | .registerWrite reg ctx val => Sys2Proof.Machine.execRegisterWrite reg ctx val s
  | .contextReset ctx val => Sys2Proof.Machine.execContextReset ctx val s
  | .faultResponse val => Sys2Proof.Machine.execFaultResponse val s
  | .reassign val => Sys2Proof.Machine.execReassign val s
  | .keyLoad entry key => Sys2Proof.Machine.execKeyLoad entry key s
  | .scrub line => Sys2Proof.Machine.execScrub line s
  | .bringUp b => Sys2Proof.Machine.execBringUp b s
  | .attestationReport nonce => Sys2Proof.Machine.execAttestationReport nonce s
  | .unassignedMajorOpcode word => Sys2Proof.Machine.execUnassignedMajorOpcode word s
  | .reservedClassCommand bits => Sys2Proof.Machine.execReservedClassCommand bits s
  | .reservedCtrlOperation opn rsv val => Sys2Proof.Machine.execReservedCtrlOperation opn rsv val s
  | .rdmaAtomicArrival qp => Sys2Proof.Machine.execRdmaAtomicArrival qp s
  | .rdmaReadArrival qp rkey addr len => Sys2Proof.Machine.execRdmaReadArrival qp rkey addr len s
  | .congestionNotificationPacket qp => Sys2Proof.Machine.execCongestionNotificationPacket qp s
  | .mfence => Sys2Proof.Machine.execMfence s
  | .nop => Sys2Proof.Machine.execNop s
  | .dportQuench => Sys2Proof.Machine.execDportQuench s
  | .dportSeal => Sys2Proof.Machine.execDportSeal s
  | .dportQuery => Sys2Proof.Machine.execDportQuery s
  | .dportSettle => Sys2Proof.Machine.execDportSettle s
  | .dportOldest => Sys2Proof.Machine.execDportOldest s
  | .dportUnassigned => Sys2Proof.Machine.execDportUnassigned s
  | .dportNotice => Sys2Proof.Machine.execDportNotice s
  | .headFlags => Sys2Proof.Machine.execHeadFlags s
  | .headClear => Sys2Proof.Machine.execHeadClear s
  | .headArmed => Sys2Proof.Machine.execHeadArmed s
  | .headEnd => Sys2Proof.Machine.execHeadEnd s
  | .headCount => Sys2Proof.Machine.execHeadCount s
  | .headUnassigned => Sys2Proof.Machine.execHeadUnassigned s
  | .watchdog => Sys2Proof.Machine.execWatchdog s
  | .reassignDone => Sys2Proof.Machine.execReassignDone s
  | .throttle => Sys2Proof.Machine.execThrottle s
  | .thermalTrip => Sys2Proof.Machine.execThermalTrip s

end Sys2Proof.Machine
end

