-- ==== Sys2Proof/Machine/Step.lean ====
section
/-!
DEFINITION. One step of the machine: one agent makes one whole, indivisible move (DESIGN CHOICE, log 1).
-/
namespace Sys2Proof.Machine

/-- A step: the next move is taken and the row it names is performed. -/
def step (s : State) : Host.Outcome State Fault Refusal :=
  match s.power with
  | .tripped => .fault .thermalTrip
  | .heldInReset => .fault .heldInReset
  | _ =>
    match s.nextMove.2.pick s.nextMove.1 with
    | (s, some i) => exec i s
    | (s, none) => .next s

/-- An image whose code holds one word at an offset: a system actor's, in which every word issues (DESIGN CHOICE, log 1). -/
def fetchImage (k : Image) (pc : Nat) (w : Word) : Image :=
  { k with system := true, code := (upTo (pc / 8)).map (fun i => k.code.getD i 0) ++ w :: k.code.drop (pc / 8 + 1) }

/-- A state in which slot 0 of core 0 runs a firing whose next instruction word is `w`. -/
def State.withActorWord (s : State) (w : Word) : State :=
  let l := (s.own 0).launch
  let x := s.slot 0 0
  let k := s.launch l
  let s := { s with launches := mset s.launches l { k with img := fetchImage k.img x.pc w, phase := .running, failed := none } }
  let s := s.modCtx (s.launch l).ctx fun c => { c with ctl := c.ctl ||| 3 }
  let s := s.modCore 0 fun k =>
    { k with own := some (k.own.getD { launch := l, pset := 0, inst := 0, share := 0, lpg := 0 }), running := some 0 }
  s.modSlot 0 0 fun x => { x with status := .firing, park := none, under := none, issued := 0, entry := min x.entry x.pc, stop := max x.stop (x.pc + 16) }

/-- A state in which the next command at the network of core 0 is `w`. -/
def State.withCommand (s : State) (w : Cmd) : State :=
  s.modCore 0 fun k =>
    let n := k.net.getD {}
    { k with net := some { n with cmds := n.cmds.take n.idx ++ List.replicate (n.idx - n.cmds.length) 0 ++ w :: n.cmds.drop (n.idx + 1) } }

/-- `s` with an instruction stored where `step` takes its next one: a 64-bit actor word or a 32-bit configuration command,
with what loads a program here — the team's image, its placement, the choice of the agent that moves — laid down (DESIGN CHOICE, log 1). -/
def State.withFetchWord (s : State) (nbits w : Nat) : State :=
  let s := { s with power := .on }
  if nbits == 64 then { s.withActorWord (word w) with agenda := .actor 0 :: s.agenda }
  else if nbits == 32 then { s.withCommand (BitVec.ofNat 32 w) with agenda := .config 0 :: s.agenda }
  else s

end Sys2Proof.Machine
end

