-- ==== Sys2Proof/Safety.lean ====
section
/-!
DEFINITION. What counts as a safe run, in the terms the statements use: every byte memory of the machine keeps its canonical
form, and a line marked zero lists no bytes.
-/
namespace Sys2Proof.Machine

/-- The canonical form of the package's memory: addresses strictly rising, and no entry equal to what an unlisted address reads
as (zero). -/
def Memory.wf (s : State) : Bool := bwf s.hbm

/-- A line that is marked zero, because nothing has been written to it under any key, lists no bytes (R422). -/
def Memory.zeroMarks (s : State) : Prop := ∀ a, mget s.lineKey (a / 64) = none → bget s.hbm a = 0

end Sys2Proof.Machine
end

