-- ==== Sys2Proof/Certificates/Slice0/Obligations.lean ====
section
/-!
DEFINITION. The statements for the provers. The words they use stand in `Sys2Proof.Claims`; each docstring names the rule that
its statement formalises.
-/


/-! ### Words of the statements: integers, registers -/

namespace Sys2Proof.Claims
open Sys2Proof.Machine

/-- The widths of the integer types (R370). -/
def intWidth (ty : Nat) : Nat := if ty = 2 then 16 else if ty = 3 then 8 else if ty = 6 then 64 else 32
/-- The integer types that R370 and R71 allow. -/
def IntTy (ty : BitVec 3) : Prop := ty = 0 ∨ ty = 1 ∨ ty = 2 ∨ ty = 3 ∨ ty = 6
/-- A register read as an operand of an integer type: TY 1 is unsigned, the others signed (R370). -/
def operand (ty : Nat) (a : Word) : Int :=
  if ty = 1 then ((a.setWidth 32).toNat : Int) else (a.setWidth (intWidth ty)).toInt
/-- An exact result fitted by wrapping. -/
def wrap (ty : Nat) (x : Int) : Int :=
  if ty = 1 then x % 2 ^ 32 else x.bmod (2 ^ intWidth ty)
/-- An exact result fitted by saturating. -/
def clamp (ty : Nat) (x : Int) : Int :=
  if ty = 1 then max 0 (min x (2 ^ 32 - 1)) else max (-2 ^ (intWidth ty - 1)) (min x (2 ^ (intWidth ty - 1) - 1))
/-- An exact result fitted to its type, and whether it was clamped. -/
def fitted (ty : Nat) (sat : Bool) (x : Int) : Int := if sat then clamp ty x else wrap ty x
/-- The flag overflow, when a saturated result was clamped. -/
def satFlag (ty : Nat) (sat : Bool) (x : Int) : BitVec 4 := if sat && clamp ty x ≠ x then 2 else 0
/-- The low bits of a word as a register holds a result of an integer type: zero-extended for TY 1, else sign-extended. -/
def extend (ty : Nat) (a : Word) : Word :=
  if ty = 1 then (a.setWidth 32).setWidth 64 else (a.setWidth (intWidth ty)).signExtend 64
/-- The register of the running firing. -/
abbrev reg (s : State) (r : Reg) : Word := s.reg s.here.1 s.here.2 r

/-- The running firing writes a register, records flags at position 60 under that element's FMSK, and goes on at the next word. -/
def wrote (s : State) (dst : Reg) (v : Word) (fl : BitVec 4) : State :=
  let t := s.modSlot s.here.1 s.here.2 fun x =>
    { x with regs := mset x.regs dst.toNat v, poisoned := ldel x.poisoned dst.toNat, pc := x.pc + 8, issued := x.issued + 1, park := none
             under := none }
  if fl = 0 then t
  else t.modElem s.here.1 60 fun e => { e with flags := e.flags ||| (fl &&& ~~~ e.fmsk) }

/-- Does a state differ from another in nothing but one slot's register, counters and waits, and flags at position 60? -/
def ScalarFrame (s t : State) (dst : Reg) : Prop :=
  let c := s.here.1
  let n := s.here.2
  t = { s with cores := t.cores }
  ∧ (∀ d, d ≠ c → t.core d = s.core d)
  ∧ t.core c = { s.core c with slots := (t.core c).slots, elems := (t.core c).elems }
  ∧ (∀ m, m ≠ n → t.slot c m = s.slot c m)
  ∧ t.slot c n = { s.slot c n with regs := (t.slot c n).regs, poisoned := ldel (s.slot c n).poisoned dst.toNat, pc := (t.slot c n).pc,
                                   issued := (t.slot c n).issued,
                                   park := none, under := none }
  ∧ (∀ r : Nat, r ≠ dst.toNat → (t.slot c n).reg r = (s.slot c n).reg r)
  ∧ (∀ p, p ≠ 60 → t.elem c p = s.elem c p)
  ∧ t.elem c 60 = { s.elem c 60 with flags := (t.elem c 60).flags }
  ∧ (s.elem c 60).flags &&& (t.elem c 60).flags = (s.elem c 60).flags
  ∧ (∀ key a, t.homeByte key a = s.homeByte key a)
  ∧ (∀ k off n, t.spRead k off n = s.spRead k off n)

/-- The scalar instructions that write one register, and that register. -/
def scalarDst : Instr → Option Reg
  | .add f | .sub f | .mul f | .mulh f | .div f | .rem f | .and f | .or f | .xor f | .shl f | .shr f | .sar f | .min f | .max f
  | .slt f | .sel f | .popc f | .clz f | .mov f | .fadd f | .fsub f | .fmul f | .ffma f | .fmin f | .fmax f | .fcmp f
  | .fclass f => some f.dst
  | .addi f | .andi f | .ori f | .xori f | .shli f | .shri f | .sari f | .slti f | .movi f | .movhi f => some f.dst
  | .cvt f => some f.dst
  | _ => none

end Sys2Proof.Claims

open Sys2Proof Sys2Proof.Machine Sys2Proof.Claims

/-! ### Reset, bring-up, and what a step does -/

/-- R407, R163, R422, R43: the registers, memory and tables right after reset. -/
def Obligations.ResetRegistersHoldTheirResetValues : Prop :=
  (∀ x, (State.reset.ctx x).teamwait = 20 ∧ (State.reset.ctx x).rtmo = 1000
    ∧ ∀ r, r ≤ 0x0E → r ≠ 0x06 → r ≠ 0x08 → State.reset.regRead x r = 0)
  ∧ State.reset.plim = 2600
  ∧ (∀ x r, 0x80 ≤ r → r ≠ 0x89 → State.reset.regRead x r = 0)
  ∧ (∀ key a, State.reset.homeByte key a = 0)
  ∧ (∀ page, mget State.reset.owners page = none)

/-- R432: nothing but bring-up happens before bring-up. -/
def Sys2Proof.Claims.BringUpComesFirst : Prop :=
  ∀ s t : State, s.power = .off → step s = .next t →
    (∃ b, s.nextMove.1 = .event (.bringUp b) ∧ exec (.bringUp b) s.nextMove.2 = .next t)
    ∨ t = s.nextMove.2

/-- R432, R434: a package held in reset, or tripped, takes no step. -/
def Sys2Proof.Claims.HeldOrTrippedPackageStops : Prop :=
  ∀ s : State, (s.power = .heldInReset → step s = .fault .heldInReset) ∧ (s.power = .tripped → step s = .fault .thermalTrip)

/-- R72, R354, R363: a step of a core's sequencer runs the instruction that the word at the running slot's program counter
decodes to. -/
def Sys2Proof.Claims.StepRunsTheDecodedActorWord : Prop :=
  ∀ (s : State) (c n : Nat) (rest : List Move) (i : Instr),
    let u := s.nextMove.2.redoCore c
    s.power = .on → s.agenda = .actor c :: rest →
    (u.core c).running = some n → u.firingLive c = true → (u.slot c n).status = .firing →
    (u.slot c n).issued < 65536 → (u.slot c n).entry ≤ (u.slot c n).pc →
    ((u.slot c n).pc + 16 ≤ (u.slot c n).stop ∨ ((u.slot c n).pc + 8 ≤ (u.slot c n).stop ∧ endsBlock i = true)) →
    decodeWord (u.launch (u.own c).launch).img.system (fld (u.ctx (u.ctxOf c)).ctl 1 1 == 1) (u.fetchWord c n) = .ok i →
    u.awaited c n i = none → u.readsPoison c n i = none →
    step s = exec i { u with cur := .actor c n }
    ∧ ((∀ x ∈ (s.core c).slots, x.2.pend = []) → u = s.nextMove.2)

/-- R218, R418, R437: an instruction that reads or writes a register which an access or answer issued earlier is still to write does not
issue; nor does FIREND while anything of the firing is still to come back. -/
def Sys2Proof.Claims.AnInstructionWaitsForWhatItsFiringAwaits : Prop :=
  ∀ (s : State) (c n : Nat) (rest : List Move) (i : Instr) (p : Pend),
    let u := s.nextMove.2.redoCore c
    s.power = .on → s.agenda = .actor c :: rest →
    (u.core c).running = some n → u.firingLive c = true → (u.slot c n).status = .firing →
    (u.slot c n).issued < 65536 → (u.slot c n).entry ≤ (u.slot c n).pc → (u.slot c n).pc + 16 ≤ (u.slot c n).stop →
    decodeWord (u.launch (u.own c).launch).img.system (fld (u.ctx (u.ctxOf c)).ctl 1 1 == 1) (u.fetchWord c n) = .ok i →
    p ∈ (u.slot c n).pend →
    ((∃ f, i = .firend f) ∨ ∃ r ∈ p.dsts, r ∈ regReads (u.slot c n) i ++ regWrites (u.fetchWord c n) i) →
    ∃ t, step s = .next t ∧ (t.slot c n).pc = (u.slot c n).pc ∧ (t.slot c n).regs = (u.slot c n).regs ∧ (t.slot c n).pend = (u.slot c n).pend
      ∧ ∀ key a, t.homeByte key a = u.homeByte key a

/-- R45 to R50: a step of a core's network runs the command that the next word of its stream decodes to. -/
def Sys2Proof.Claims.StepRunsTheDecodedCommand : Prop :=
  ∀ (s : State) (c : Nat) (rest : List Move) (n : Stream) (w : Cmd),
    s.power = .on → s.agenda = .config c :: rest → (s.core c).net = some n → n.cmds[n.idx]? = some w →
    step s = exec (decodeCmd w) { s.nextMove.2 with cur := .net c }

/-- Rows that stand for whole steps of engines, dampers, schedulers and outside parties run as they are laid down. -/
def Sys2Proof.Claims.StepRunsAnEventRow : Prop :=
  ∀ (s : State) (i : Instr) (rest : List Move), s.power = .on → s.agenda = .event i :: rest → ownedRow i = false →
    step s = exec i s.nextMove.2

/-- R72, R73, R363: a word that fails to decode is not performed: its trap is taken. -/
def Sys2Proof.Claims.RefusedWordTraps : Prop :=
  ∀ (s : State) (c n : Nat) (rest : List Move) (code : Nat),
    let u := s.nextMove.2.redoCore c
    s.power = .on → s.agenda = .actor c :: rest →
    (u.core c).running = some n → u.firingLive c = true → (u.slot c n).status = .firing →
    (u.slot c n).issued < 65536 → (u.slot c n).entry ≤ (u.slot c n).pc → (u.slot c n).pc + 8 ≤ (u.slot c n).stop →
    decodeWord (u.launch (u.own c).launch).img.system (fld (u.ctx (u.ctxOf c)).ctl 1 1 == 1) (u.fetchWord c n) = .error code →
    step s = .next (u.takeTrap c n code 0 0)

/-- R72, R363, R411: a precise trap ends the firing, finishes the slot and stops the team with status 6, once; nothing else of a
core but the slot and its channels changes. -/
def Sys2Proof.Claims.PreciseTrapEndsTheFiringAndStopsTheTeam : Prop :=
  ∀ (s : State) (c n code : Nat) (w4 w5 : Word) (o : Owner) (k : Launch),
    (s.core c).own = some o → mget s.launches o.launch = some k →
    let t := s.takeTrap c n code w4 w5
    (t.slot c n).status = .finished ∧ (t.slot c n).park = none ∧ (t.slot c n).regs = (s.slot c n).regs
    ∧ (t.core c).running ≠ some n
    ∧ (t.launch o.launch).failed = k.failed.or (some (6, code))
    ∧ (∀ m, m ≠ n → t.slot c m = (s.coreRecord c code 1 0 n 1 (s.fetchWord c n) (word ((s.slot c n).pc - (s.slot c n).entry)) w4 w5).slot c m)

/-! ### Decoding -/

/-- R65 to R69, R45 to R49: words written out from the encodings decode to what they stand for. -/
def Obligations.WrittenWordsDecode : Prop :=
  decodeWord false false 0x0040_01E0_0000_0000 = .ok (.add { dst := 0, sa := 0, sb := 3, sc := 0, ty := 6, rnd := 0, sat := 0 })
  ∧ decodeWord false false 0x0842_1060_0000_0008 = .ok (.addi { dst := 1, sa := 1, sb := 0, ty := 6, imm := 8 })
  ∧ decodeWord false false 0x1840_1110_FFFF_FFFD = .ok (.bcc { dst := 0, sa := 1, sb := 2, cc := 2, imm := 0xFFFFFFFD })
  ∧ decodeWord false false 0x2006_2073_0050_0002
      = .ok (.ld { dst := 3, sa := 2, sb := 0, sz := 3, ix := 1, os := 3, hnd := 5, ofs := 2 })
  ∧ decodeWord false false 0x3C00_0100_0000_0000 = .ok (.xfer { dst := 0, sa := 0, sb := 2, sc := 0, sd := 0, xm := 0, ctl := 0 })
  ∧ decodeWord true false 0x544A_6000_0000_1306
      = .ok (.sreg { dst := 5, sa := 6, sb := 0, sc := 0, sd := 0, xm := 0, ctl := 0x1306 })
  ∧ decodeWord false false 0x4240_0000_0000_0000 = .ok .mfence
  ∧ decodeWord false false 0 = .ok (.unassignedMajorOpcode 0)
  ∧ decodeCmd 0x4400_0001 = .bank 0 1 ∧ decodeCmd 0x4800_000C = .arm 0 0 12 ∧ decodeCmd 0x8000_0800 = .pfx 0x800
  ∧ decodeCmd 0x4C00_0008 = .sealPage 8

/-- R65 to R69: every well-formed actor instruction decodes from its word to itself, with every field as it was. -/
def Sys2Proof.Claims.ActorWordsDecodeToThemselves : Prop :=
  ∀ (i : Instr) (w : Word), i.wellFormed = true → encodeWord i = some w →
    (∀ v, i = .unassignedMajorOpcode v → rawWord v = none) → decodeWord true true w = .ok i

/-- R65 to R69: each actor word has one meaning: a word that decodes is the word of the instruction it decodes to. -/
def Sys2Proof.Claims.DecodedActorWordsEncodeBack : Prop :=
  ∀ (sys dbg : Bool) (w : Word) (i : Instr), decodeWord sys dbg w = .ok i → encodeWord i = some w

/-- R46 to R49: every configuration command is the encoding of the row it decodes to. -/
def Sys2Proof.Claims.CommandsEncodeBack : Prop := ∀ c : Cmd, encodeCmd (decodeCmd c) = some c

/-- R51, R57 to R59: every element operation decodes from its value of field 0 to itself. -/
def Sys2Proof.Claims.ElementOperationsDecodeToThemselves : Prop :=
  ∀ (i : Instr) (v : BitVec 19), encodeElem i = some v → decodeElem v = some i

/-- R70, R73: SREG and TLBI issue in a system actor only, MINJ in tenant debug mode only. -/
def Sys2Proof.Claims.SystemWordsTrapOutsideTheirMode : Prop :=
  ∀ (w : Word) (dbg sys : Bool),
    (fld w 54 10 = 0x151 ∨ fld w 54 10 = 0x152 → decodeWord false dbg w = .error 2)
    ∧ (fld w 54 10 = 0x106 → decodeWord sys false w = .error 3)

/-! ### Scalar instructions of actors -/

/-- R370, R371: ADD, SUB, MUL and ADDI: the exact result, wrapped or saturated, and overflow when it was clamped. -/
def Sys2Proof.Claims.IntegerAddSubMulAreExactThenFitted : Prop :=
  ∀ (s : State) (f : RForm) (g : IForm), IntTy f.ty → IntTy g.ty →
    let ty := f.ty.toNat
    let a := operand ty (reg s f.sa)
    let b := operand ty (reg s f.sb)
    let sat := f.sat == 1
    let x := operand g.ty.toNat (reg s g.sa) + operand g.ty.toNat (g.imm.signExtend 64)
    exec (.add f) s = .next (wrote s f.dst (BitVec.ofInt 64 (fitted ty sat (a + b))) (satFlag ty sat (a + b)))
    ∧ exec (.sub f) s = .next (wrote s f.dst (BitVec.ofInt 64 (fitted ty sat (a - b))) (satFlag ty sat (a - b)))
    ∧ exec (.mul f) s = .next (wrote s f.dst (BitVec.ofInt 64 (fitted ty sat (a * b))) (satFlag ty sat (a * b)))
    ∧ exec (.addi g) s = .next (wrote s g.dst (BitVec.ofInt 64 (wrap g.ty.toNat x)) 0)

/-- R370: MULH, DIV and REM, with the fixed results and the flag invalid of a zero divisor. -/
def Sys2Proof.Claims.IntegerHighProductAndDivision : Prop :=
  ∀ (s : State) (f : RForm), IntTy f.ty →
    let ty := f.ty.toNat
    let a := operand ty (reg s f.sa)
    let b := operand ty (reg s f.sb)
    exec (.mulh f) s = .next (wrote s f.dst (BitVec.ofInt 64 (wrap ty (a * b / 2 ^ intWidth ty))) 0)
    ∧ (b ≠ 0 →
        exec (.div f) s = .next (wrote s f.dst (BitVec.ofInt 64 (wrap ty (a.tdiv b))) 0)
        ∧ exec (.rem f) s = .next (wrote s f.dst (BitVec.ofInt 64 (a - b * a.tdiv b)) 0))
    ∧ (b = 0 →
        exec (.div f) s = .next (wrote s f.dst (extend ty (BitVec.allOnes 64)) 1)
        ∧ exec (.rem f) s = .next (wrote s f.dst (extend ty (reg s f.sa)) 1))

/-- R370, R371: the bitwise instructions, MOV, MOVI and MOVHI, and SEL. -/
def Sys2Proof.Claims.BitwiseAndMoves : Prop :=
  ∀ (s : State) (f : RForm) (g : IForm), IntTy f.ty → IntTy g.ty →
    let ty := f.ty.toNat
    let a := reg s f.sa
    let b := reg s f.sb
    let imm := g.imm.signExtend 64
    exec (.and f) s = .next (wrote s f.dst (extend ty (a &&& b)) 0)
    ∧ exec (.or f) s = .next (wrote s f.dst (extend ty (a ||| b)) 0)
    ∧ exec (.xor f) s = .next (wrote s f.dst (extend ty (a ^^^ b)) 0)
    ∧ exec (.mov f) s = .next (wrote s f.dst (extend ty a) 0)
    ∧ exec (.sel f) s
        = .next (wrote s f.dst (extend ty (if (reg s f.sc).setWidth (intWidth ty) = 0 then b else a)) 0)
    ∧ exec (.andi g) s = .next (wrote s g.dst (extend g.ty.toNat (reg s g.sa &&& imm)) 0)
    ∧ exec (.ori g) s = .next (wrote s g.dst (extend g.ty.toNat (reg s g.sa ||| imm)) 0)
    ∧ exec (.xori g) s = .next (wrote s g.dst (extend g.ty.toNat (reg s g.sa ^^^ imm)) 0)
    ∧ exec (.movi g) s = .next (wrote s g.dst imm 0)
    ∧ exec (.movhi g) s = .next (wrote s g.dst (g.imm ++ (reg s g.dst).setWidth 32) 0)

/-- R370, R371: shifts by n; for n of the width or more, zeros, or copies of the sign. -/
def Sys2Proof.Claims.ShiftsByTheWidthOrMoreLeaveZerosOrTheSign : Prop :=
  ∀ (s : State) (f : RForm) (g : IForm), IntTy f.ty → IntTy g.ty →
    let ty := f.ty.toNat
    let w := intWidth ty
    let a := (reg s f.sa).setWidth w
    let n := (reg s f.sb).toNat
    let v := intWidth g.ty.toNat
    let x := (reg s g.sa).setWidth v
    let m := (g.imm.setWidth 6).toNat
    exec (.shl f) s = .next (wrote s f.dst (extend ty ((a <<< n).setWidth 64)) 0)
    ∧ exec (.shr f) s = .next (wrote s f.dst (extend ty ((a >>> n).setWidth 64)) 0)
    ∧ exec (.sar f) s = .next (wrote s f.dst (extend ty ((a.sshiftRight n).setWidth 64)) 0)
    ∧ exec (.shli g) s = .next (wrote s g.dst (extend g.ty.toNat ((x <<< m).setWidth 64)) 0)
    ∧ exec (.shri g) s = .next (wrote s g.dst (extend g.ty.toNat ((x >>> m).setWidth 64)) 0)
    ∧ exec (.sari g) s = .next (wrote s g.dst (extend g.ty.toNat ((x.sshiftRight m).setWidth 64)) 0)

/-- R370, R371: MIN, MAX, SLT and SLTI compare as the type says; POPC counts ones and CLZ leading zeros. -/
def Sys2Proof.Claims.ComparesAndCounts : Prop :=
  ∀ (s : State) (f : RForm) (g : IForm), IntTy f.ty → IntTy g.ty →
    let ty := f.ty.toNat
    let a := operand ty (reg s f.sa)
    let b := operand ty (reg s f.sb)
    let lt := operand g.ty.toNat (reg s g.sa) < operand g.ty.toNat (g.imm.signExtend 64)
    exec (.min f) s = .next (wrote s f.dst (BitVec.ofInt 64 (min a b)) 0)
    ∧ exec (.max f) s = .next (wrote s f.dst (BitVec.ofInt 64 (max a b)) 0)
    ∧ exec (.slt f) s = .next (wrote s f.dst (if a < b then 1 else 0) 0)
    ∧ exec (.slti g) s = .next (wrote s g.dst (if lt then 1 else 0) 0)
    ∧ exec (.popc f) s = .next (wrote s f.dst
        (BitVec.ofNat 64 ((List.range (intWidth ty)).countP fun i => (reg s f.sa).getLsbD i)) 0)
    ∧ ∃ n, n ≤ intWidth ty ∧ exec (.clz f) s = .next (wrote s f.dst (BitVec.ofNat 64 n) 0)
        ∧ (∀ i, i < n → (reg s f.sa).getLsbD (intWidth ty - 1 - i) = false)
        ∧ (n < intWidth ty → (reg s f.sa).getLsbD (intWidth ty - 1 - n) = true)

/-- R372: the float instructions write their result zero-extended and record its flags; the results and flags are those of the
element operations (R137). -/
def Sys2Proof.Claims.FloatInstructionsWriteTheRoundedResult : Prop :=
  ∀ (s : State) (f : RForm), f.ty = 4 ∨ f.ty = 5 →
    let ty := f.ty.toNat
    let a := (reg s f.sa).toNat
    let b := (reg s f.sb).toNat
    let c := (reg s f.sc).toNat
    let w (r : Nat × Flags) : Out := .next (wrote s f.dst (BitVec.ofNat 64 (r.1 % 2 ^ (if f.ty = 5 then 16 else 32))) r.2)
    exec (.fadd f) s = w (fAdd ty f.rnd.toNat a b)
    ∧ exec (.fsub f) s = w (fSub ty f.rnd.toNat a b)
    ∧ exec (.fmul f) s = w (fMul ty f.rnd.toNat a b)
    ∧ exec (.ffma f) s = w (fFma ty f.rnd.toNat a b c)
    ∧ exec (.fmin f) s = w (fMin ty a b, 0)
    ∧ exec (.fmax f) s = w (fMax ty a b, 0)

/-- R372, R138: FCMP writes exactly one of less, equal, greater and unordered, and is invalid exactly when unordered, which is
when an operand is a NaN; FCLASS writes exactly one class. -/
def Sys2Proof.Claims.FloatCompareAndClassWriteOneBit : Prop :=
  ∀ (s : State) (f : RForm), f.ty = 4 ∨ f.ty = 5 →
    let fmt := tyFmt f.ty.toNat
    let x := fmt.decode (reg s f.sa).toNat
    let y := fmt.decode (reg s f.sb).toNat
    (∃ k, k < 4 ∧ exec (.fcmp f) s = .next (wrote s f.dst (BitVec.ofNat 64 (2 ^ k)) (if k = 3 then 1 else 0))
      ∧ (k = 3 ↔ x.isNan = true ∨ y.isNan = true))
    ∧ ∃ k, k < 9 ∧ exec (.fclass f) s = .next (wrote s f.dst (BitVec.ofNat 64 (2 ^ k)) 0) ∧ (k = 8 ↔ x.isNan = true)

/-- R126, R127: CVT reads SA in the source format, converts it once, under the scale in SB's low byte with USC, and writes it
as the destination format is held. An INT64 to INT64 conversion is the identity. -/
def Sys2Proof.Claims.ConvertWritesTheConvertedValue : Prop :=
  ∀ (s : State) (f : XForm),
    let sf := (f.ctl.extractLsb' 18 4).toNat
    let df := (f.ctl.extractLsb' 14 4).toNat
    let usc := f.ctl.getLsbD 13
    let sat := f.ctl.getLsbD 12
    let r := convert sf df (f.xm.extractLsb' 2 2).toNat sat (if usc then some ((reg s f.sb).toNat % 256) else none) (reg s f.sa).toNat
    exec (.cvt f) s = .next (wrote s f.dst (wrFmt df r.1) r.2)
    ∧ (sf = 12 → df = 12 → usc = false → exec (.cvt f) s = .next (wrote s f.dst (reg s f.sa) 0))

/-- R373, R73: a branch goes to PC + 8 × sext(IMM, 32) when it is taken and to the next word when it is not; outside the code
image it takes trap 0x07 and does nothing of its own. -/
def Obligations.BranchesGoToTheirTargetOrTrap : Prop :=
  ∀ (s : State) (f : BForm),
    let x := s.slot s.here.1 s.here.2
    let a := reg s f.sa
    let b := reg s f.sb
    let d := reg s f.dst - 1
    let dest (taken : Bool) : Int := if taken then (x.pc : Int) + 8 * f.imm.toInt else (x.pc : Int) + 8
    let inside (t : Int) : Prop := (x.entry : Int) ≤ t ∧ t < (x.stop : Int)
    let go (t : Int) (y : Slot) : Slot := { y with pc := t.toNat, issued := y.issued + 1, park := none, under := none }
    let holds : Bool := match f.cc.toNat with
      | 0 => a == b
      | 1 => a != b
      | 2 => a.slt b
      | 3 => b.sle a
      | 4 => a.ult b
      | _ => b.ule a
    let trapped : Out := .next (s.takeTrap s.here.1 s.here.2 0x07 0 0)
    (inside (dest true) → exec (.br f) s = .next (s.modSlot s.here.1 s.here.2 (go (dest true))))
    ∧ (¬ inside (dest true) → exec (.br f) s = trapped)
    ∧ (inside (dest holds) → exec (.bcc f) s = .next (s.modSlot s.here.1 s.here.2 (go (dest holds))))
    ∧ (¬ inside (dest holds) → exec (.bcc f) s = trapped)
    ∧ (inside (dest (d != 0)) → exec (.loop f) s
        = .next (s.modSlot s.here.1 s.here.2 fun y => go (dest (d != 0)) { y with
            regs := mset y.regs f.dst.toNat d, poisoned := ldel y.poisoned f.dst.toNat }))
    ∧ (¬ inside (dest (d != 0)) → exec (.loop f) s = trapped)

/-- R69: NOP does nothing but advance the program counter. R73: a word of an unassigned major opcode takes trap 0x01. R363: the
watchdog's trap 0x28 is taken in place of the next instruction. -/
def Obligations.NopUnassignedAndWatchdog : Prop :=
  ∀ (s : State) (w : Word),
    exec .nop s = .next (s.modSlot s.here.1 s.here.2 fun x =>
      { x with pc := x.pc + 8, issued := x.issued + 1, park := none, under := none })
    ∧ exec (.unassignedMajorOpcode w) s = .next (s.takeTrap s.here.1 s.here.2 0x01 0 0)
    ∧ exec .watchdog s = .next (s.takeTrap s.here.1 s.here.2 0x28 0 0)

/-- R370 to R372, R123: what the scalar instructions leave unchanged: every other register, every other slot, core and element, every
flag but those recorded at position 60, and every byte of memory. -/
def Sys2Proof.Claims.ScalarInstructionsChangeOneRegisterAndFlags : Prop :=
  ∀ (s t : State) (i : Instr) (dst : Reg), scalarDst i = some dst → exec i s = .next t → ScalarFrame s t dst

/-! ### Memory as actors reach it -/

namespace Sys2Proof.Claims
open Sys2Proof.Machine

/-- The firing of a slot writes a register, records flags at position 60 under its FMSK, and goes on at the next word. -/
def wroteAt (s : State) (c n : Nat) (dst : Reg) (v : Word) (fl : BitVec 4) : State :=
  let t := s.modSlot c n fun x =>
    { x with regs := mset x.regs dst.toNat v, poisoned := ldel x.poisoned dst.toNat, pc := x.pc + 8, issued := x.issued + 1, park := none
             under := none }
  if fl = 0 then t
  else t.modElem c 60 fun e => { e with flags := e.flags ||| (fl &&& ~~~ e.fmsk) }
/-- The firing of a slot goes on at the next word and records flags at position 60. -/
def wentOn (s : State) (c n : Nat) (fl : BitVec 4) : State :=
  let t := s.modSlot c n fun x => { x with pc := x.pc + 8, issued := x.issued + 1, park := none, under := none }
  if fl = 0 then t
  else t.modElem c 60 fun e => { e with flags := e.flags ||| (fl &&& ~~~ e.fmsk) }

/-- Bytes [off, off + n) of the scratchpad of core k are what a handle and byte offset name for the running firing: the entry is
in the handle cache, the bytes lie within the handle and the scratchpad, and they are aligned to n (R212, R215, R228). -/
structure SpPlace (s : State) (h o n k off : Nat) (e : List Word) : Prop where
  cached  : handle .actor s.here.1 h o s = .ok (e, s)
  space   : hSpace e = 2
  within  : o + n ≤ hSize e
  core    : k = s.spCore s.here.1 e
  offset  : off = hBase e + o
  room    : off + n ≤ (s.core k).nsp * 32768
  aligned : off % n = 0

/-- The n bytes at physical address pa, in a page with leaf entry pte, are what a handle and byte offset name for the running
firing: the entry is in the handle cache, the translation in the translation unit, a declared element format is the page's, and the
bytes are aligned to n, and no earlier access of the firing to the word still waits (R212, R215, R234, R414). -/
structure MemPlace (s : State) (h o n : Nat) (write : Bool) (va pa lvl : Nat) (pte : Word) (e : List Word) : Prop where
  cached  : handle .actor s.here.1 h o s = .ok (e, s)
  space   : hSpace e = 1
  within  : o + n ≤ hSize e
  address : va = hBase e + o
  mapped  : xlate s.here.1 (s.ctxOf s.here.1) va write s = .ok ((lvl, pte, pa), s)
  format  : hEFV e = true → hEFMT e = pteFmt pte
  aligned : va % n = 0
  first   : inOrder va 8 s = .ok ((), s)

/-- An order and scope code at a scratchpad: the scope includes the agent and the owner of the scratchpad (R254). -/
def SpScope (c k os : Nat) : Prop :=
  os = 0 ∨ (osLvl os = 1 ∧ k = c) ∨ (osLvl os = 2 ∧ k / 4 = c / 4) ∨ (osLvl os = 3 ∧ k / 64 = c / 64) ∨ 4 ≤ osLvl os
/-- The L1 lines of the firing's core, written back and invalidated after an acquire wider than the core (R249). -/
def acquired (s : State) (c os : Nat) : State :=
  if osAcq os = true ∧ 2 ≤ osLvl os ∧ ¬ (osLvl os = 2 ∧ (s.core c).fused = true) then s.purgeL1 c everyLine else s
/-- The dirty L1 lines of the firing's core, written back before a release (R249, R439). -/
def released (s : State) (c os : Nat) : State := if osRel os = true then s.flushL1 c everyLine else s
/-- What a releasing store has written, at its home before the firing goes on, for a release wider than the core (R237, R249). -/
def performed (s : State) (c os : Nat) : State :=
  if osRel os = true ∧ 2 ≤ osLvl os then s.flushL1 c everyLine else s
/-- An agent's accesses have been performed, and for a release wider than the core those through windows acknowledged (R249, R269). -/
def Settled (s : State) (lvl : Nat) : Prop :=
  let src := s.actorSrc s.here.1 s.here.2
  s.accessPending src = false ∧ (2 ≤ lvl → s.remotePending src = false)
/-- The same, where an order and scope code asks for a release. -/
def NothingPending (s : State) (os : Nat) : Prop := osRel os = true → Settled s (osLvl os)

/-- A byte of a core's scratchpad, and a full/empty bit. -/
def spByte (s : State) (k a : Nat) : Byte := bget (s.core k).sp a
def Full (s : State) (k w : Nat) : Prop := w ∈ (s.core k).full
/-- No request waits at a scratchpad. -/
def NoWaiters (s : State) (k : Nat) : Prop := (s.core k).lists = [] ∧ (s.core k).writers = [] ∧ (s.core k).poolQ = []

/-- The single-word atomics, by the operations of R238. -/
def amoInstr (op : Nat) (f : MForm) : Instr :=
  match op with
  | 0 => .aadd f
  | 1 => .aand f
  | 2 => .aor f
  | 3 => .axor f
  | 4 => .amin f
  | 5 => .amax f
  | 6 => .axchg f
  | 7 => .afadd f
  | _ => .cas f
/-- The value an integer atomic leaves in a word of w bits, from the old value, SB and the value DST held at issue (R239). -/
def amoResult {w : Nat} (op : Nat) (old b cmp : BitVec w) : BitVec w :=
  match op with
  | 0 => old + b
  | 1 => old &&& b
  | 2 => old ||| b
  | 3 => old ^^^ b
  | 4 => if b.slt old then b else old
  | 5 => if old.slt b then b else old
  | 6 => b
  | _ => if old = cmp then b else old

end Sys2Proof.Claims

/-- R231: an agent that has used a handle entry goes on using that version: the use after a use is the same and reads no table. -/
def Sys2Proof.Claims.HandleEntryIsReadOnceThenCached : Prop :=
  ∀ (s t : State) (w : Who) (c i o : Nat) (e : List Word), handle w c i o s = .ok (e, t) → handle w c i o t = .ok (e, t)

/-- R414, R416: a translation once found is kept: the use after a use is the same, and changes nothing. -/
def Sys2Proof.Claims.TranslationIsKept : Prop :=
  ∀ (s t : State) (c x va : Nat) (write : Bool) (r : Nat × Word × Nat),
    xlate c x va write s = .ok (r, t) → xlate c x va write t = .ok (r, t)

/-- R416, R418, R421: what a walk may answer: a leaf of the table that is well formed for its level, owned by the context and tagged so, under
a permitted key, and writable for a write. -/
def Sys2Proof.Claims.WalkGivesOnlyPermittedLeaves : Prop :=
  ∀ (s : State) (x va lvl : Nat) (write : Bool) (pte : Word), walk s x va write = .ok (lvl, pte) →
    pteV pte = true ∧ pteLeaf pte = true ∧ pteOk lvl pte = true ∧ pteOwner pte = x
    ∧ mget s.owners (leafPA lvl pte va / 65536) = some x
    ∧ fld (s.ctx x).keys (pteKey pte) 1 = 1 ∧ (write = true → pteW pte = true)

/-- R216, R217, R254: LD and ST of a scratchpad: LD writes the 2^SZ bytes zero-extended; ST writes the low 2^SZ bytes of SB. -/
def Sys2Proof.Claims.LoadAndStoreOfAScratchpad : Prop :=
  ∀ (s : State) (f : MForm) (k off : Nat) (e : List Word),
    let n := 2 ^ f.sz.toNat
    let os := f.os.toNat
    SpPlace s f.hnd.toNat (s.mOfs f) n k off e → SpScope s.here.1 k os →
    (s.spPoisoned k off n = false → osRel os = false →
      exec (.ld f) s = .next (wroteAt (acquired s s.here.1 os) s.here.1 s.here.2 f.dst (word (leVal (s.spRead k off n))) 0))
    ∧ (osAcq os = false → NothingPending s os →
      exec (.st f) s = .next (wentOn
        (performed ((released s s.here.1 os).spWrite k off (leBytes n (reg s f.sb).toNat)) s.here.1 os) s.here.1 s.here.2 0))

/-- R216, R217, R214: LD and ST of memory in every FLAT format, through the L1 under the page's policy; values convert as R216 says. -/
def Sys2Proof.Claims.LoadAndStoreOfMemory : Prop :=
  ∀ (s : State) (f : MForm) (va pa lvl : Nat) (pte : Word) (e : List Word),
    let c := s.here.1
    let sz := f.sz.toNat
    let n := accBytes (pteFmt pte) sz
    let os := f.os.toNat
    let pol := polAt (hPol e) pte
    let l : Loc := .mem (s.ctxOf c) va (hPol e) (hIL e)
    pteGeo pte = 0 →
    (∀ s1, MemPlace s f.hnd.toNat (s.mOfs f) n false va pa lvl pte e → ldOk (pteFmt pte) sz = true → osRel os = false →
      scopeAt false c f.hnd.toNat (s.mOfs f) os l s = .ok ((), s1) →
      let r := s1.lineRead c (pteKey pte) pol pa n
      let v := ldValue (pteFmt pte) sz 127 (leVal r.2.1)
      r.2.2 = none → exec (.ld f) s = .next (wroteAt (acquired r.1 c os) c s.here.2 f.dst v.1 v.2))
    ∧ (∀ s1, MemPlace s f.hnd.toNat (s.mOfs f) n true va pa lvl pte e → stOk (pteFmt pte) 0 sz = true → osAcq os = false →
      NothingPending s os → scopeAt false c f.hnd.toNat (s.mOfs f) os l (released s c os) = .ok ((), s1) →
      let v := stValue (pteFmt pte) sz (reg s f.sb).toNat
      let u := (s1.placePage (some (dieOf c)) (hIL e) lvl va pa).lineWrite c (pteKey pte) pol pa (leBytes n v.1)
      exec (.st f) s = .next (wentOn (performed u c os) c s.here.2 v.2))

/-- R216: what a load delivers and a store writes, by format: raw bytes zero-extended and cut, integers extended and saturated, BF16
codes of a BF16 access unchanged unless they are NaNs. -/
def Sys2Proof.Claims.LoadedAndStoredValuesByFormat : Prop :=
  ∀ (sz n : Nat), n < 2 ^ 64 →
    ldValue 0 sz 127 n = (word n, 0)
    ∧ stValue 0 sz n = (n % 2 ^ (8 * 2 ^ sz), 0)
    ∧ (n < 2 ^ 8 → ldValue 7 sz 127 n = ((BitVec.ofNat 8 n).signExtend 64, 0) ∧ ldValue 8 sz 127 n = (word n, 0))
    ∧ (n < 2 ^ 16 → ldValue 9 sz 127 n = ((BitVec.ofNat 16 n).signExtend 64, 0))
    ∧ (n < 2 ^ 32 → ldValue 10 sz 127 n = ((BitVec.ofNat 32 n).signExtend 64, 0) ∧ ldValue 11 sz 127 n = (word n, 0))
    ∧ (let x := (BitVec.ofNat (8 * 2 ^ sz) n).toInt
       let fits (lo hi : Int) (w : Nat) : Nat × Flags :=
         ((BitVec.ofInt w (max lo (min x hi))).toNat, if lo ≤ x ∧ x ≤ hi then 0 else 2)
       sz < 4 → stValue 7 sz n = fits (-128) 127 8 ∧ stValue 8 sz n = fits 0 255 8 ∧ stValue 9 sz n = fits (-32768) 32767 16
         ∧ stValue 10 sz n = fits (-2 ^ 31) (2 ^ 31 - 1) 32 ∧ stValue 11 sz n = fits 0 (2 ^ 32 - 1) 32)

/-- R217, R216: what LD and ST of a scratchpad without order leave unchanged. LD changes no byte; ST changes the bytes at the offset that its
handle and offset name, and no other byte of any memory, when no word of the scratchpad is waited on. -/
def Sys2Proof.Claims.ScratchpadStoreChangesOnlyItsBytes : Prop :=
  ∀ (s t u : State) (f : MForm) (k off : Nat) (e : List Word),
    SpPlace s f.hnd.toNat (s.mOfs f) (2 ^ f.sz.toNat) k off e → f.os = 0 → s.spPoisoned k off (2 ^ f.sz.toNat) = false →
    exec (.ld f) s = .next t → exec (.st f) s = .next u → s.waiters = [] → NoWaiters s k →
    (∀ j a, spByte t j a = spByte s j a) ∧ (∀ key a, t.homeByte key a = s.homeByte key a)
    ∧ (∀ j a, (j ≠ k ∨ a < off ∨ off + 2 ^ f.sz.toNat ≤ a) → spByte u j a = spByte s j a)
    ∧ (∀ i, i < 2 ^ f.sz.toNat → spByte u k (off + i) = ((leBytes 8 (reg s f.sb).toNat).getD i 0))
    ∧ (∀ key a, u.homeByte key a = s.homeByte key a)
    ∧ (∀ d m, (d ≠ s.here.1 ∨ m ≠ s.here.2) → t.slot d m = s.slot d m ∧ u.slot d m = s.slot d m)
    ∧ (u.slot s.here.1 s.here.2).regs = (s.slot s.here.1 s.here.2).regs
    ∧ (∀ d p, u.elem d p = s.elem d p)

/-- R214, R217: what a store to memory leaves unchanged: under wb or strm no byte at its home changes but what the fill of the line wrote
back, and of the L1 line only the bytes stored; under uc, where the L1 does not hold the line, no byte at its home but those stored. -/
def Sys2Proof.Claims.MemoryStoreChangesOnlyItsBytes : Prop :=
  ∀ (s t : State) (f : MForm) (va pa lvl : Nat) (pte : Word) (e : List Word),
    let c := s.here.1
    let n := accBytes (pteFmt pte) f.sz.toNat
    let pol := polAt (hPol e) pte
    let k := s.l1Core c (pa / 64)
    MemPlace s f.hnd.toNat (s.mOfs f) n true va pa lvl pte e → stOk (pteFmt pte) 0 f.sz.toNat = true → pteGeo pte = 0 → f.os = 0 →
    exec (.st f) s = .next t →
    (pol ≠ 1 → pol ≠ 3 → (∀ key a, t.homeByte key a = (s.fillL1 k (pa / 64) (pteKey pte)).homeByte key a)
      ∧ ∀ l l', t.l1Line k (pa / 64) = some l → (s.fillL1 k (pa / 64) (pteKey pte)).l1Line k (pa / 64) = some l' → l'.bytes.length = 64 →
          ∀ i, i < pa % 64 ∨ pa % 64 + n ≤ i → l.bytes.getD i 0 = l'.bytes.getD i 0)
    ∧ (pol = 3 → s.l1Line k (pa / 64) = none → Memory.zeroMarks s → ∀ a, a < pa ∨ pa + n ≤ a →
        t.homeByte (pteKey pte) a = s.homeByte (pteKey pte) a)
    ∧ (∀ d m r, (t.slot d m).reg r = (s.slot d m).reg r)

/-- R221 to R223: LDF, LDFE and STEF at a word no other request waits at: LDF of a FULL word reads it and leaves it FULL; LDFE leaves it EMPTY;
STEF fills an EMPTY word. On the other state of the word each waits: it parks, and the word is as it was. -/
def Obligations.FullEmptyReadsAndWrites : Prop :=
  ∀ (s : State) (f : MForm) (k off : Nat) (e : List Word),
    let c := s.here.1
    let n := s.here.2
    let w := off / 8
    let v := word (leVal (bgetN (s.core k).sp off 8))
    SpPlace s f.hnd.toNat (s.mOfs f) 8 k off e → NoWaiters s k → s.waiters = [] →
    s.given c n .fullEmpty = none →
    (Full s k w → w ∉ (s.core k).spPoison →
      (∃ t, exec (.ldf f) s = .next t ∧ (t.slot c n).reg f.dst.toNat = v ∧ (t.slot c n).pc = (s.slot c n).pc + 8
        ∧ (t.slot c n).park = none ∧ Full t k w ∧ ∀ a, spByte t k a = spByte s k a)
      ∧ (∃ t, exec (.ldfe f) s = .next t ∧ (t.slot c n).reg f.dst.toNat = v ∧ (t.slot c n).pc = (s.slot c n).pc + 8
        ∧ (t.slot c n).park = none ∧ ¬ Full t k w ∧ ∀ a, spByte t k a = spByte s k a)
      ∧ (∃ t p, exec (.stef f) s = .next t ∧ (t.slot c n).status = .parked ∧ (t.slot c n).park = some p ∧ p.done = false
        ∧ Full t k w ∧ ∀ a, spByte t k a = spByte s k a))
    ∧ (¬ Full s k w →
      (∃ t, exec (.stef f) s = .next t ∧ (t.slot c n).pc = (s.slot c n).pc + 8 ∧ (t.slot c n).park = none ∧ Full t k w
        ∧ bgetN (t.core k).sp off 8 = leBytes 8 (reg s f.sb).toNat
        ∧ ∀ a, (a < off ∨ off + 8 ≤ a) → spByte t k a = spByte s k a)
      ∧ (∀ take : Bool, ∃ t p, exec (if take then .ldfe f else .ldf f) s = .next t ∧ (t.slot c n).status = .parked
        ∧ (t.slot c n).park = some p ∧ p.done = false ∧ ¬ Full t k w ∧ ∀ a, spByte t k a = spByte s k a))

/-- R229, R230, R232: WAYS moves the boundary, keeps the bytes of the ways that stay and leaves zeros in the rest; HINV leaves no cached
version of the entries it names in any handle cache, and no other's version is touched. -/
def Obligations.WaysAndHandleInvalidation : Prop :=
  ∀ (s : State) (f : IForm),
    let c := s.here.1
    let n := s.here.2
    let m := (f.imm.setWidth 5).toNat
    let x := s.ctxOf c
    ((s.core c).fused = false → (s.core c).lists = [] → (s.core c).writers = [] → s.coreWaits c (m * 4096) = false →
      ∃ t, exec (.ways f) s = .next t ∧ (t.core c).nsp = m ∧ (t.slot c n).pc = (s.slot c n).pc + 8
        ∧ ∀ a, spByte t c a = if a < min (s.core c).nsp m * 32768 then spByte s c a else 0)
    ∧ (Settled s 4 →
      ∃ t, exec (.hinv f) s = .next t ∧ (t.slot c n).pc = (s.slot c n).pc + 8
        ∧ ∀ d v, v ∈ (t.core d).handles ↔ v ∈ (s.core d).handles
            ∧ ¬ (v.ctx = x ∧ (f.imm.getLsbD 12 = true ∨ v.idx = (f.imm.setWidth 12).toNat)))

/-! ### Atomics and synchronisation -/

namespace Sys2Proof.Claims
open Sys2Proof.Machine

/-- A word of memory brought to its home for an atomic: the L1's line is written back and invalidated, and the page placed if it has no
place yet (R236, R43). -/
def homed (s : State) (c : Nat) (il : Bool) (lvl va pa : Nat) : State :=
  (s.evictLine (s.l1Core c (pa / 64)) (pa / 64)).placePage (some (dieOf c)) il lvl va pa
/-- An L1 purged of the lines of a cover after an acquire of a scope, unless the scope needs no purge (R249). -/
def acquiredOf (s : State) (c lvl : Nat) (cover : Nat → Bool) : State :=
  if lvl ≤ 1 ∨ (lvl = 2 ∧ (s.core c).fused = true) then s else s.purgeL1 c cover
/-- An L1's dirty lines of a cover written back before a release of a scope. -/
def releasedOf (s : State) (c lvl : Nat) (cover : Nat → Bool) : State := if lvl = 0 then s else s.flushL1 c cover
/-- A released object's line at its home, for a scope wider than the core. -/
def performedOf (s : State) (c lvl : Nat) (cover : Nat → Bool) : State := if lvl ≤ 1 then s else s.flushL1 c cover
/-- Both registers of a pair written, and on at the next word. -/
def wrotePair (s : State) (c n : Nat) (dst : Reg) (v1 v2 : Word) : State :=
  s.modSlot c n fun x => { x with regs := mset (mset x.regs dst.toNat v1) (dst + 1).toNat v2
                                  poisoned := ldel (ldel x.poisoned dst.toNat) (dst + 1).toNat, pc := x.pc + 8,
                                  issued := x.issued + 1, park := none, under := none }

end Sys2Proof.Claims

/-- R238, R239: what an atomic leaves in its word and delivers: the old value, sign-extended for an integer. -/
def Sys2Proof.Claims.AtomicResults : Prop :=
  ∀ (op sz old : Nat) (b cmp : Word), op < 9 → op ≠ 7 → sz = 2 ∨ sz = 3 → old < 2 ^ (8 * 2 ^ sz) →
    let w := 8 * 2 ^ sz
    amoNew op sz old b.toNat cmp.toNat
      = ((amoResult op (BitVec.ofNat w old) (b.setWidth w) (cmp.setWidth w)).toNat, 0)
    ∧ amoDst op sz old = (BitVec.ofNat w old).signExtend 64

/-- R236 to R240: a single-word atomic reads the word at its home, writes the result there, and delivers the old value to DST; all as one
step. -/
def Sys2Proof.Claims.AtomicsUpdateTheHome : Prop :=
  ∀ (s : State) (f : MForm) (op : Nat) (e : List Word),
    let c := s.here.1
    let sz := f.sz.toNat
    let n := 2 ^ sz
    let os := f.os.toNat
    let b := (reg s f.sb).toNat
    let cmp := (reg s f.dst).toNat
    let r := released s c os
    op < 9 → NothingPending s os →
    (∀ k off, SpPlace s f.hnd.toNat (s.mOfs f) n k off e → SpScope c k os → s.spPoisoned k off n = false →
      let old := leVal (r.spRead k off n)
      let v := amoNew op sz old b cmp
      exec (amoInstr op f) s
        = .next (wroteAt (acquired (r.spWrite k off (leBytes n v.1)) c os) c s.here.2 f.dst (amoDst op sz old) v.2))
    ∧ (∀ va pa lvl pte s1, MemPlace s f.hnd.toNat (s.mOfs f) n true va pa lvl pte e → amoOk (pteFmt pte) sz (op == 7) = true →
      pteGeo pte = 0 → scopeAt false c f.hnd.toNat (s.mOfs f) os (.mem (s.ctxOf c) va (hPol e) (hIL e)) r = .ok ((), s1) →
      let u := homed s1 c (hIL e) lvl va pa
      let old := leVal (u.readHome pa n (pteKey pte))
      let v := amoNew op sz old b cmp
      u.poisoned pa n = false →
      exec (amoInstr op f) s
        = .next (wroteAt (acquired ((homed u c (hIL e) lvl va pa).writeHome pa (leBytes n v.1) (pteKey pte)) c os) c s.here.2 f.dst
            (amoDst op sz old) v.2))

/-- R241, R242: DCAS and AMOVE read two words of a scratchpad as one step: DCAS writes both when both match, AMOVE moves word 1 into word 2
when word 2 matches SA and stores SB in word 1; both deliver the two old values. -/
def Sys2Proof.Claims.DoubleWordAtomicsInAScratchpad : Prop :=
  ∀ (s : State) (f : XForm) (k off1 off2 : Nat) (e : List Word),
    let c := s.here.1
    let h := (f.ctl.extractLsb' 10 12).toNat
    let os := (f.xm.setWidth 4).toNat
    let r := released s c os
    let old1 := word (leVal (r.spRead k off1 8))
    let old2 := word (leVal (r.spRead k off2 8))
    SpPlace s h (reg s f.sc).toNat 8 k off1 e → SpPlace s h (reg s f.sd).toNat 8 k off2 e → SpScope c k os → NothingPending s os →
    s.spPoisoned k off1 8 = false → s.spPoisoned k off2 8 = false →
    exec (.dcas f) s = .next (wrotePair (acquired
        (if old1 = reg s f.sa ∧ old2 = reg s (f.sa + 1) then
          (r.spWrite k off1 (leBytes 8 (reg s f.sb).toNat)).spWrite k off2 (leBytes 8 (reg s (f.sb + 1)).toNat)
        else r) c os) c s.here.2 f.dst old1 old2)
    ∧ exec (.amove f) s = .next (wrotePair (acquired
        (if old2 = reg s f.sa then
          (r.spWrite k off2 (leBytes 8 old1.toNat)).spWrite k off1 (leBytes 8 (reg s f.sb).toNat)
        else r) c os) c s.here.2 f.dst old1 old2)

/-- R250 to R252: BIND adds a region to the object's binding, or with length 0 removes them all, after a release; ACQ reads the object and
purges only its cover; REL writes back the cover before its write. -/
def Obligations.EntryConsistency : Prop :=
  ∀ (s : State) (f : MForm) (va pa lvl : Nat) (pte : Word) (e : List Word),
    let c := s.here.1
    let n := s.here.2
    let o := s.mOfs f
    let h := f.hnd.toNat
    let scope := osLvl f.os.toNat
    let l : Loc := .mem (s.ctxOf c) va (hPol e) (hIL e)
    let pol := polAt (hPol e) pte
    let region := reg s f.sb
    let len := (reg s (f.sb + 1)).toNat
    f.sz = 3 → pteFmt pte = 0 → pteGeo pte = 0 →
    (MemPlace s h o 8 false va pa lvl pte e → Settled s 4 →
      (len = 0 → exec (.bind f) s = .next (wentOn
        ((s.flushL1 c everyLine).modLaunch (s.own c).launch fun k => { k with binds := k.binds.filter (·.obj != pa) }) c n 0))
      ∧ (∀ e2, 0 < len → len ≤ 2 ^ 32 → (s.launch (s.own c).launch).binds.length < 64 →
        handle .actor c (fld region 52 12) (fld region 0 52) s = .ok (e2, s) → hSpace e2 = 1 → fld region 0 52 + len ≤ hSize e2 →
        exec (.bind f) s = .next (wentOn
          ((s.flushL1 c everyLine).modLaunch (s.own c).launch fun k =>
            { k with binds := k.binds ++ [{ obj := pa, hnd := fld region 52 12, ofs := fld region 0 52, len := len }] }) c n 0)))
    ∧ (∀ s1, MemPlace s h o 8 false va pa lvl pte e → scopeAt false c h o f.os.toNat l s = .ok ((), s1) → osRel f.os.toNat = false →
      let r := s1.lineRead c (pteKey pte) pol pa 8
      r.2.2 = none →
      exec (.acq f) s = .next (wroteAt (acquiredOf r.1 c scope (r.1.coverOf c pa)) c n f.dst (word (leVal r.2.1)) 0))
    ∧ (∀ s1, MemPlace s h o 8 true va pa lvl pte e → (scope ≠ 0 → Settled s scope) →
      scopeAt false c h o f.os.toNat l (releasedOf s c scope (s.coverOf c pa)) = .ok ((), s1) →
      let u := (s1.placePage (some (dieOf c)) (hIL e) lvl va pa).lineWrite c (pteKey pte) pol pa (leBytes 8 region.toNat)
      exec (.rel f) s = .next (wentOn (performedOf u c scope (· == pa / 64)) c n 0))

/-- R255, R256: an arrival at a barrier parks the firing until COUNT arrivals have been made; the last arrival frees the instance, releases
every firing that waits there, and goes on itself. (A firing that waits at a barrier waits for no word besides.) -/
def Obligations.BarrierHoldsUntilItsLastArrival : Prop :=
  ∀ (s : State) (f : IForm) (k : Launch),
    let c := s.here.1
    let n := s.here.2
    let lvl := (f.imm.setWidth 3).toNat
    let id := (f.imm.extractLsb' 8 4).toNat
    let count := (f.imm.extractLsb' 16 16).toNat
    let lid := (s.own c).launch
    let here (b : Barrier) : Bool := b.lvl == lvl && b.inst == barInst c lvl && b.id == id
    mget s.launches lid = some k → s.given c n .barrier = none → (lvl ≠ 0 → Settled s lvl) →
    (k.barriers.find? here = none → 1 < count →
      ∃ t, exec (.bar f) s = .next t ∧ (t.slot c n).status = .parked ∧ (t.slot c n).pc = (s.slot c n).pc
        ∧ ∃ b ∈ (t.launch lid).barriers, here b = true ∧ b.count = count ∧ b.arrived = [(c, n)])
    ∧ (k.barriers.find? here = none → count ≤ 1 →
      ∃ t, exec (.bar f) s = .next t ∧ (t.slot c n).pc = (s.slot c n).pc + 8 ∧ (t.slot c n).park = none)
    ∧ (∀ b, k.barriers.find? here = some b → b.count = count → b.arrived.length + 1 < count →
      ∃ t, exec (.bar f) s = .next t ∧ (t.slot c n).status = .parked
        ∧ ∃ b' ∈ (t.launch lid).barriers, here b' = true ∧ b'.count = count ∧ b'.arrived = b.arrived ++ [(c, n)])
    ∧ (∀ b, k.barriers.find? here = some b → b.count = count → b.arrived.length + 1 = count →
      (∀ w ∈ s.waiters, (w.core, w.slot) ∉ b.arrived) →
      ∃ t, exec (.bar f) s = .next t ∧ (t.slot c n).pc = (s.slot c n).pc + 8 ∧ (t.slot c n).park = none
        ∧ (∀ b' ∈ (t.launch lid).barriers, here b' = false)
        ∧ ∀ d m, (d, m) ∈ b.arrived → (d, m) ≠ (c, n) →
            ∃ p, (t.slot d m).park = some p ∧ p.kind = .barrier ∧ p.done = true)

/-- R257: MWAIT answers a word that has reached its bound, and otherwise registers a waiter and parks. -/
def Sys2Proof.Claims.MwaitAnswersOrWaits : Prop :=
  ∀ (s : State) (f : MForm) (e : List Word),
    let c := s.here.1
    let n := s.here.2
    let sz := 2 ^ f.sz.toNat
    let os := f.os.toNat
    let bound := (reg s f.sb).toNat % 2 ^ (8 * sz)
    s.given c n .mwait = none →
    (∀ k off, SpPlace s f.hnd.toNat (s.mOfs f) sz k off e → SpScope c k os → s.spPoisoned k off sz = false →
      let v := leVal (s.spRead k off sz)
      (bound ≤ v → exec (.mwait f) s = .next (wroteAt (acquired s c os) c n f.dst (word v) 0))
      ∧ (v < bound → ∃ t p, exec (.mwait f) s = .next t ∧ (t.slot c n).status = .parked ∧ (t.slot c n).park = some p
          ∧ p.kind = .mwait ∧ p.done = false ∧ (∀ a, spByte t k a = spByte s k a)
          ∧ t.waiters = s.waiters ++ [{ core := c, slot := n, sp := some k, addr := off, size := sz, bound := bound }]))
    ∧ (∀ va pa lvl pte s1, MemPlace s f.hnd.toNat (s.mOfs f) sz false va pa lvl pte e →
      amoOk (pteFmt pte) f.sz.toNat false = true → pteGeo pte = 0 → osRel os = false →
      scopeAt false c f.hnd.toNat (s.mOfs f) os (.mem (s.ctxOf c) va (hPol e) (hIL e)) s = .ok ((), s1) →
      let u := s1.evictLine (s1.l1Core c (pa / 64)) (pa / 64)
      let v := leVal (u.readHome pa sz (pteKey pte))
      u.poisoned pa sz = false → bound ≤ v →
      exec (.mwait f) s = .next (wroteAt (acquired u c os) c n f.dst (word v) 0))

/-- R258, R259: WATCH cancels the watchpoint it names, or registers one at the slice of its range and delivers its identifier; with no entry
free it delivers bit 63. An append that a full queue holds enters it once there is room, oldest first.
One whose packet could not be read is dropped with a CLASS 6 record. -/
def Sys2Proof.Claims.WatchpointsAndHeldAppends : Prop :=
  (∀ (s s1 : State) (f : MForm) (e : List Word) (bs : List Byte),
    let c := s.here.1
    let n := s.here.2
    let o := s.mOfs f
    let x := s.ctxOf c
    let ws := wordsOf 8 bs
    let w1 := ws.getD 1 0
    handle .actor c f.hnd.toNat o s = .ok (e, s) → hSpace e = 1 → o + 64 ≤ hSize e → (hBase e + o) % 8 = 0 →
    readLoc c (.mem x (hBase e + o) (hPol e) (hIL e)) 64 s = .ok ((bs, none), s1) →
    fld w1 7 1 = 0 → fld w1 11 21 = 0 → fld w1 48 15 = 0 → ws.getD 5 0 = 0 → ws.getD 6 0 = 0 → ws.getD 7 0 = 0 →
    (fld w1 63 1 = 1 →
      let it (v : Watch) : Bool := v.ctx == x && v.team.isNone && v.die * 2 ^ 14 + v.slice * 2 ^ 9 + v.entry == fld w1 32 16
      exec (.watch f) s = .next (wroteAt (s1.dropWatch it) c n f.dst (if s1.watches.any it then 0 else BitVec.ofNat 64 (2 ^ 63)) 0))
    ∧ (∀ s2 s3 s4 va pol il p r,
      let len := fld w1 0 7
      let w : Watch :=
        { ctx := x, die := s4.homeDie r.2.2, slice := sliceOf r.2.2, entry := 0, addr := r.2.2, len := len
          cq := fld w1 8 3, mask := ws.getD 2 0, value := ws.getD 3 0, packet := ws.getD 4 0 }
      fld w1 63 1 = 0 → 0 < len → len ≤ 64 → va / 64 = (va + len - 1) / 64 → 8 * cdiv va 8 + 8 ≤ va + len →
      sideRef (.trap 0x1A (word f.hnd.toNat) (word o)) c (ws.getD 0 0) len [1] false s1 = .ok (.mem x va pol il, s2) →
      sideRef (.trap 0x1A (word f.hnd.toNat) (word o)) c (ws.getD 4 0) 256 [1] false s2 = .ok (p, s3) →
      xlate c x va false s3 = .ok (r, s4) →
      exec (.watch f) s = .next (match s4.addWatch w with
        | some (s5, id) => wroteAt s5 c n f.dst (word id) 0
        | none => wroteAt s4 c n f.dst (BitVec.ofNat 64 (2 ^ 63)) 0)))
  ∧ (∀ (s : State) (held x q : Nat) (p : List Word),
    s.heldAppends[held]? = some (x, q, p) → p ≠ [] → (∀ a ∈ s.heldAppends.take held, ¬ (a.1 = x ∧ a.2.1 = q)) →
    (mgetD (s.ctx x).queues q []).length < 64 →
    ∃ t, exec (.watchAppend held) s = .next t ∧ t.heldAppends = s.heldAppends.eraseIdx held
      ∧ mgetD (t.ctx x).queues q [] = mgetD (s.ctx x).queues q [] ++ [p] ∧ mgetD (t.ctx x).counts q 0 = mgetD (s.ctx x).counts q 0 + 1
      ∧ (∀ y, y ≠ x → t.ctx y = s.ctx y) ∧ t.cores = s.cores ∧ t.hbm = s.hbm)
  ∧ (∀ (s : State) (held x q : Nat), s.heldAppends[held]? = some (x, q, []) →
    exec (.watchAppend held) s = .next ({ s with heldAppends := s.heldAppends.eraseIdx held }.dropRecord x q 2 0 0))

/-! ### Reach -/

namespace Sys2Proof.Claims
open Sys2Proof.Machine

/-- n bytes at byte offset ofs of window idx are what a handle and byte offset name for the running firing: the descriptor is an outbound one
of the handle's space, clean, and wide enough (R264 to R267). -/
structure WinPlace (s : State) (h o n : Nat) (write : Bool) (sp idx ofs : Nat) (e : List Word) : Prop where
  cached  : handle .actor s.here.1 h o s = .ok (e, s)
  space   : hSpace e = sp
  outside : 3 ≤ sp
  within  : o + n ≤ hSize e
  window  : idx = bits (hBase e) 46 6
  offset  : ofs = bits (hBase e) 0 46 + o
  kind    : wKind (s.window (s.ctxOf s.here.1) idx) = sp
  out     : wIn (s.window (s.ctxOf s.here.1) idx) = false
  clean   : wClean (s.window (s.ctxOf s.here.1) idx) = true
  room    : ofs + n ≤ wSize (s.window (s.ctxOf s.here.1) idx)
  rw      : write = true → wRdonly (s.window (s.ctxOf s.here.1) idx) = false
  raw     : hEFV e = true → hEFMT e = 0
/-- The next state of the running firing goes on at the next word, having waited for nothing. -/
def WentOn (s t : State) : Prop :=
  (t.slot s.here.1 s.here.2).pc = (s.slot s.here.1 s.here.2).pc + 8 ∧ (t.slot s.here.1 s.here.2).park = none
/-- The running firing is parked for a kind of event and has not been given it. -/
def Waits (s t : State) (kind : ParkKind) : Prop :=
  (t.slot s.here.1 s.here.2).status = .parked ∧ (t.slot s.here.1 s.here.2).pc = (s.slot s.here.1 s.here.2).pc
  ∧ ∃ p, (t.slot s.here.1 s.here.2).park = some p ∧ p.kind = kind ∧ p.done = false

end Sys2Proof.Claims

/-- R253, R269 to R273, R278: what RST, RAMO, RSEND and COLL send. RST goes on at once, or, a checked access, once the target's slice has
checked it; RAMO waits for the old value and then delivers it; a refusal of the slice is trap 0x18; RSEND of a row without a set sends one
cell for each 256 bytes, on ports in rotation, and one with a set first asks the damper; COLL sends the member's part, with its place
among the COLLs of its tag. -/
def Obligations.ReachInstructionsSend : Prop :=
  (∀ (s : State) (f : MForm) (space idx ofs : Nat) (e : List Word),
    let c := s.here.1
    let n := s.here.2
    let sz := 2 ^ f.sz.toNat
    let os := f.os.toNat
    let d := (released s c os).window (s.ctxOf c) idx
    let far := (d.getD 0 0).toNat + ofs
    let pkg := bits (wTgt d) 0 9
    let ctx := bits (wTgt d) 9 4
    WinPlace s f.hnd.toNat (s.mOfs f) sz true space idx ofs e → ofs % sz = 0 → NothingPending s os → s.given c n .scope = none →
    (let v := leBytes sz (reg s f.sb).toNat
     ∃ t, exec (.rst f) s = .next t ∧ (if os ≠ 0 ∧ space = 3 then Waits s t .scope else WentOn s t) ∧ t.nextId = s.nextId + 1
      ∧ (∃ q, mget t.reach s.nextId = some q ∧ q.kind = .rst ∧ q.src = s.actorSrc c n ∧ q.os = os)
      ∧ t.sent = (released s c os).sent ++ [if space = 3 then .remote s.nextId pkg ctx (wRkey d) far sz none os (word (leVal v)) 0
          else .write s.nextId space idx far v []])
    ∧ (let op := (reg s (f.sb + 1)).toNat
      space = 3 → op < 9 → ¬ (op = 7 ∧ f.sz = 3) → s.given c n .ramo = none →
      ∃ t, exec (.ramo f) s = .next t ∧ Waits s t .ramo ∧ t.nextId = s.nextId + 1
        ∧ (∃ q, mget t.reach s.nextId = some q ∧ q.kind = .ramo ∧ q.src = s.actorSrc c n ∧ q.os = os)
        ∧ t.sent = (released s c os).sent ++ [.remote s.nextId pkg ctx (wRkey d) far sz (some op) os (reg s f.sb) (reg s f.dst)]))
  ∧ (∀ (s : State) (f : MForm) (p : Park),
      let trapped : Out := .next (s.takeTrap s.here.1 s.here.2 0x18 (scopeWord f.hnd.toNat p.val.toNat (osLvl f.os.toNat)) (word (s.mOfs f)))
      s.given s.here.1 s.here.2 .scope = some p → p.kind = .scope → p.done = true →
      (p.flag = true → exec (.rst f) s = .next (wentOn s s.here.1 s.here.2 0))
      ∧ (p.flag = false → exec (.rst f) s = trapped ∧ exec (.ramo f) s = trapped))
  ∧ (∀ (s : State) (f : MForm) (p : Park), s.given s.here.1 s.here.2 .scope = none →
      s.given s.here.1 s.here.2 .ramo = some p → p.kind = .ramo → p.done = true → p.flag = false →
      exec (.ramo f) s = .next (wroteAt (acquired s s.here.1 f.os.toNat) s.here.1 s.here.2 f.dst
        (amoDst (reg s (f.sb + 1)).toNat f.sz.toNat p.val.toNat)
        (ramoFlags (reg s (f.sb + 1)).toNat f.sz.toNat p.val.toNat (reg s f.sb).toNat)))
  ∧ (∀ (s : State) (f : XForm) (k off ofs idx : Nat) (e : List Word),
    let c := s.here.1
    let n := s.here.2
    let len := (reg s f.sc).toNat
    let ncell := cdiv len 256
    let d := s.window (s.ctxOf c) idx
    let set := (reg s f.dst).setWidth 24
    let head : RowHead := { far := (d.getD 0 0).toNat + ofs, cnt := none, desc := d, set := if f.ctl.getLsbD 0 then set.toNat else 0
                            wide := f.ctl.getLsbD 1, row := mgetD s.rowTag (dieOf c) 0, ncell := ncell, len := len }
    0 < len → len ≤ 2 ^ 24 → f.ctl.getLsbD 2 = true →
    handle (.fixed (.trap 0x1D 0 0)) c (fld (reg s f.sb) 52 12) (fld (reg s f.sb) 0 52) s = .ok (e, s) → hSpace e = 3 →
    (hEFV e = true → hEFMT e = 0) →
    sideRef (.trap 0x1D 0 0) c (reg s f.sa) len [1, 2] false s = .ok (.sp k off, s) →
    sideRef (.trap 0x1D 0 0) c (reg s f.sb) len [3, 4, 5] false s = .ok (.win 3 idx ofs, s) →
    wRdonly d = false → s.given c n .rsend = none →
    (f.ctl.getLsbD 0 = false ∨ set = 0 → s.spPoisoned k off len = false →
      ∃ t, exec (.rsend f) s = .next t ∧ WentOn s t ∧ mgetD t.rowTag (dieOf c) 0 = (mgetD s.rowTag (dieOf c) 0 + 1) % 2 ^ 32
        ∧ mgetD t.rail (dieOf c) 0 = (mgetD s.rail (dieOf c) 0 + ncell) % 16
        ∧ (∃ q, mget t.reach s.nextId = some q ∧ q.kind = .row ∧ q.src = s.actorSrc c n)
        ∧ t.sent = s.sent ++ (List.range ncell).map fun i =>
            .cell ((mgetD s.rail (dieOf c) 0 + i) % 16) (rowCell s.pod (dieOf c) head i (s.spRead k off len) false))
    ∧ (f.ctl.getLsbD 0 = true → set ≠ 0 →
      ∃ t, exec (.rsend f) s = .next t ∧ Waits s t .rsend ∧ t.sent = s.sent ∧ (∃ p, (t.slot c n).park = some p ∧ p.row.isSome = true)
        ∧ ∃ r, mget t.dreqs s.nextId = some r ∧ r.kind = .commit ∧ r.set = set ∧ r.src = .actor c n))
  ∧ (∀ (s s1 : State) (f : XForm) (bs : List Byte) (src : Loc) (va pol : Nat) (il : Bool) (dva dpol : Nat) (dil : Bool) (bad),
    let c := s.here.1
    let x := s.ctx (s.ctxOf c)
    let op := (f.ctl.extractLsb' 19 3).toNat
    let ty := (f.ctl.extractLsb' 16 3).toNat
    let root := (f.ctl.extractLsb' 5 9).toNat
    let tag := (f.ctl.setWidth 5).toNat
    let cnt := (reg s f.sc).toNat
    let t0 : Stop := .trap 0x1D 0 0
    let issued := mgetD (s1.ctx (s.ctxOf c)).colls tag []
    let part : CollPart :=
      { op := op, ty := ty, rop := (f.ctl.extractLsb' 14 2).toNat, root := root, n := cnt, data := bs, tag := tag, k := issued.length }
    x.gv = true → root < x.gsize → 0 < cnt → cnt ≤ 2 ^ 24 →
    sideRef t0 c (reg s f.sa) (collSrc op cnt x.gsize * collSize ty) [1] false s = .ok (src, s) →
    sideRef t0 c (reg s f.sb) (collDst op cnt x.gsize * collSize ty) [1] true s = .ok (.mem (s.ctxOf c) va pol il, s) →
    sideRef t0 c (reg s f.sd) 8 [1] true s = .ok (.mem (s.ctxOf c) dva dpol dil, s) → dva % 8 = 0 →
    (if op ≠ 3 ∨ x.rank = root then readLoc c src (collSrc op cnt x.gsize * collSize ty) s = .ok ((bs, bad), s1)
      else bs = [] ∧ s1 = s) →
    ∃ t, exec (.coll f) s = .next t ∧ (t.slot c s.here.2).pc = (s1.slot c s.here.2).pc + 8
      ∧ t.sent = s1.sent ++ [.coll s1.nextId part]
      ∧ (∃ q, mget t.reach s1.nextId = some q ∧ q.kind = .coll ∧ q.src = s1.actorSrc c s.here.2 ∧ q.part = some part
          ∧ q.args = [word va, word (b2n il), word dva, word (b2n dil)])
      ∧ mgetD (t.ctx (s.ctxOf c)).colls tag [] = issued ++ [part])

namespace Sys2Proof.Claims
open Sys2Proof.Machine

/-- An event of a unit outside the cores has been served: no translation is awaited for it. -/
def served (s : State) (ev : Instr) : State := { s with unitWait := s.unitWait.filter (·.ev != ev) }
/-- An event of such a unit awaits no translation. -/
def Fresh (s : State) (ev : Instr) : Prop := ∀ w ∈ s.unitWait, w.ev ≠ ev

end Sys2Proof.Claims

/-- R266, R269, R270, R274, R276, R430, R431: what arrives from outside: an access that an inbound descriptor admits is performed at its home and
answered; one that none admits is refused, and nothing else happens. -/
def Obligations.ArrivalsAreAdmittedOrRefused : Prop :=
  (∀ (s : State) (a : RemoteAccess),
    let ev := Instr.remoteAccessArrival a
    let n := if a.read ∨ a.amo.isSome then a.size else a.data.length
    (s.admits a.ctx 3 a.rkey a.addr n (!a.read) = false → exec (.remoteAccessArrival a) s = .next (s.send (.refuse a.pkg a.tag)))
    ∧ (s.admits a.ctx 3 a.rkey a.addr n (!a.read) = true → Fresh s ev →
      (∀ r bad s1 s2, a.read = true → unitRead none a.ctx a.addr n s = .ok (r, s1) → unitBad none a.ctx a.addr n s1 = .ok (bad, s2) →
        exec ev s = .next (served (s2.send (.answer a.pkg a.tag r.1 bad)) ev))
      ∧ (∀ pa key s1, a.read = false → unitXlate none a.ctx a.addr false true s = .ok ((pa, key), s1) →
        (∀ r, a.os ≠ 0 → s1.scopeCheck pa (s1.farScope a) = .error r →
          exec ev s = .next (served (s1.send (.scopeRefuse a.pkg a.tag r.lvl)) ev))
        ∧ (∀ s2, (if a.os = 0 then s2 = s1 else s1.scopeCheck pa (s1.farScope a) = .ok s2) →
          (∀ s3, a.amo = none → a.bad = [] → unitWrite none a.ctx a.addr false a.data s2 = .ok ((), s3) →
            exec ev s = .next (served (s3.send (.ack a.pkg a.tag 0 false)) ev))
          ∧ (∀ op, a.amo = some op → s2.poisoned pa n = false →
            let old := leVal (s2.readHome pa n key)
            exec ev s = .next (served ((s2.writeHome pa
              (leBytes n (amoNew op (Nat.log2 n) old a.val.toNat a.cmp.toNat).1) key).send (.ack a.pkg a.tag (word old) false)) ev))))))
  ∧ (∀ (s : State) (c : Cell),
    let spkg := fld c.p0 0 9
    let addr := fld c.p1 0 52 + 256 * fld c.h0 0 16
    let len := if fld c.h0 0 16 = fld c.h0 16 16 then fld c.h0 32 8 + 1 else 256
    fld c.p0 9 9 = s.pod → fld c.h0 0 16 ≤ fld c.h0 16 16 → fld c.h1 32 1 = 0 → fld c.h1 34 1 = 0 →
    (s.admits (fld c.p0 18 4) 3 (fld c.p0 32 32) addr len true = false →
      exec (.cellArrival c) s = .next (s.send (.refuse spkg (fld c.h1 0 32))))
    ∧ (∀ s1, s.admits (fld c.p0 18 4) 3 (fld c.p0 32 32) addr len true = true → Fresh s (.cellArrival c) →
      unitWrite none (fld c.p0 18 4) addr false (c.data.take len) s = .ok ((), s1) →
      exec (.cellArrival c) s = .next (served (s1.send (.ack spkg (fld c.h1 0 32) 0 false)) (.cellArrival c))))
  ∧ (∀ (s : State) (qp rkey addr len : Nat) (data : List Byte), mget s.qpairs qp = none →
    exec (.rdmaWriteArrival qp rkey addr data) s = .next (s.send (.rdmaNak qp 0))
    ∧ exec (.rdmaReadArrival qp rkey addr len) s = .next (s.send (.rdmaNak qp 0))
    ∧ exec (.rdmaSendLaunch qp data) s = .next (s.send (.rdmaNak qp 0)))
  ∧ (∀ (s : State) (qp : Nat), exec (.rdmaAtomicArrival qp) s = .next (s.send (.rdmaNak qp 0)))
  ∧ (∀ (s : State) (qp rkey addr len : Nat) (data : List Byte) (q : QPair), mget s.qpairs qp = some q →
    (s.admits q.ctx 4 rkey addr data.length true = false →
      exec (.rdmaWriteArrival qp rkey addr data) s = .next (s.send (.rdmaNak qp 2)))
    ∧ (let ev := Instr.rdmaWriteArrival qp rkey addr data
      ∀ s1, s.admits q.ctx 4 rkey addr data.length true = true → Fresh s ev → unitWrite none q.ctx addr false data s = .ok ((), s1) →
      exec ev s = .next (served (s1.send (.rdmaAck qp)) ev))
    ∧ (let ev := Instr.rdmaReadArrival qp rkey addr len
      ∀ r s1, s.admits q.ctx 4 rkey addr len false = true → Fresh s ev → unitRead none q.ctx addr len s = .ok (r, s1) →
      exec ev s = .next (served (match r.2 with
        | some mc => (s1.machineCheck mc.1 q.ctx mc.2).send (.rdmaNak qp 1)
        | none => s1.send (.rdmaRead qp r.1)) ev))
    ∧ (q.launch = true → data.length = 256 → (mgetD (s.ctx q.ctx).queues q.queue []).length < 64 →
      ∃ t, exec (.rdmaSendLaunch qp data) s = .next t ∧ t.sent = s.sent ++ [.rdmaAck qp]
        ∧ mgetD (t.ctx q.ctx).queues q.queue [] = mgetD (s.ctx q.ctx).queues q.queue [] ++ [wordsOf 32 data])
    ∧ (∃ t, exec (.congestionNotificationPacket qp) s = .next t
        ∧ mget t.qpairs qp = some { q with lowered := q.lowered + s.rateStep } ∧ t = { s with qpairs := t.qpairs }))
  ∧ (∀ (s : State) (req addr : Nat) (write : Bool) (data : List Byte),
    (mget s.requesters req = none → exec (.pcieInbound req write addr data) s = .next (s.send (.pcieUr req)))
    ∧ (∀ x, mget s.requesters req = some x →
      (write = false ∨ s.admits x 5 0 addr data.length true = false →
        exec (.pcieInbound req write addr data) s = .next (s.send (.pcieUr req)))
      ∧ (∀ s1, write = true → s.admits x 5 0 addr data.length true = true → Fresh s (.pcieInbound req write addr data) →
        unitWrite none x addr false data s = .ok ((), s1) →
        exec (.pcieInbound req write addr data) s = .next (served s1 (.pcieInbound req write addr data)))))

/-- R253, R269, R270, R278 to R280: an acknowledgment ends the access it answers, lets a checked RST go on, and hands an atomic's old value to
the firing that waits; a refusal of the target's slice hands it the recorded scope; a time-out ends a reach access with error 0x44, once;
a collective's end performs the destination and then writes its completion word once. -/
def Obligations.ReachAccessesEnd : Prop :=
  (∀ (s : State) (req c n serial : Nat) (r : ReachReq) (data : List Byte) (bad : List (Nat × Nat)),
    let home := r.launch = none ∨ (s.core c).own.map (·.launch) = r.launch
    let left : State := { s with reach := mdel s.reach req }
    mget s.reach req = some r → r.src = .actor c n serial →
    (r.kind = .row → exec (.reachAcknowledge req data bad) s = .next left)
    ∧ (∀ p, r.kind = .rst ∨ r.kind = .ramo → home → (s.slot c n).serial = serial →
      (s.slot c n).park = some p → p.kind = .ramo ∨ p.kind = .scope → p.on = req →
      (∃ t q, exec (.reachAcknowledge req data bad) s = .next t ∧ mget t.reach req = none
        ∧ (t.slot c n).park = some q ∧ q.done = true
        ∧ (r.kind = .rst → q.kind = .scope ∧ q.flag = true)
        ∧ (r.kind = .ramo → q.kind = .ramo ∧ q.val = word (leVal data) ∧ q.flag = !bad.isEmpty)
        ∧ ∀ d m, (d ≠ c ∨ m ≠ n) → t.slot d m = s.slot d m)
      ∧ (∀ cause lvl, r.os ≠ 0 →
        ∃ t q, exec (.reachTimeout req { cause := cause, scope := some lvl }) s = .next t ∧ mget t.reach req = none
          ∧ (t.slot c n).park = some q ∧ q.kind = .scope ∧ q.done = true ∧ q.flag = false ∧ q.val = word lvl
          ∧ ∀ d m, (d ≠ c ∨ m ≠ n) → t.slot d m = s.slot d m))
    ∧ (∀ cause, r.kind = .rst ∨ r.kind = .ramo ∨ r.kind = .row → home →
      exec (.reachTimeout req { cause := cause }) s = .next (left.asyncLate r.src 0x44 r.win (0, 0) cause (word r.ofs) 0)
      ∧ ∀ t d, exec (.reachTimeout req { cause := cause }) s = .next t → exec (.reachTimeout req d) t = .next t))
  ∧ (∀ (s s1 s2 : State) (req : Nat) (peers : List (Nat × CollPart)) (r : ReachReq) (own : CollPart),
    let a (i : Nat) : Nat := (r.args.getD i 0).toNat
    let ev := Instr.collComplete req peers true
    let k := s.ctx r.ctx
    let parts := (List.range k.gsize).filterMap (s.collPart r.ctx own peers)
    let col (j : Nat) : Nat × Flags := collFold own.ty own.rop (parts.map fun p => collElem own.ty p.data j)
    let folds := if own.op = 1 then (List.range own.n).map fun j => col (k.rank * own.n + j)
      else if own.op = 2 then (List.range own.n).map col else []
    let bytes := match own.op with
      | 0 => parts.flatMap (·.data)
      | 3 => ((parts[own.root]?).map (·.data)).getD []
      | _ => folds.flatMap fun v => leBytes (collSize own.ty) v.1
    mget s.reach req = some r → r.kind = .coll → r.part = some own → own.op < 4 → parts.length = k.gsize →
    (∀ p ∈ parts, p.op = own.op ∧ p.ty = own.ty ∧ p.rop = own.rop ∧ p.root = own.root ∧ p.n = own.n) → Fresh s ev →
    unitWrite (some r.die) r.ctx (a 0) (a 1 == 1) bytes s = .ok ((), s1) →
    unitWrite (some r.die) r.ctx (a 2) (a 3 == 1) (leBytes 8 (1 + 2 * (joinFlags (folds.map (·.2))).toNat))
      (({ s1 with reach := mdel s1.reach req }).pkgRelease r.ctx (a 2)) = .ok ((), s2) →
    exec ev s = .next (served s2 ev))

/-! ### Copies -/

namespace Sys2Proof.Claims
open Sys2Proof.Machine

/-- A request has entered a copy queue at its tail, and the firing has gone on. -/
def Accepted (s t : State) (q : Nat) (r : CopyReq) : Prop :=
  let c := s.here.1
  (t.core c).queue q = (s.core c).queue q ++ [r] ∧ r.id = s.nextId ∧ t.nextId = s.nextId + 1
  ∧ (∀ j, j ≠ q → (t.core c).queue j = (s.core c).queue j) ∧ WentOn s t
  ∧ r.fences = (((s.core c).requests.filter fun f => f.joins q).map (·.id))
/-- The dirty lines written back when ORD asks for it. -/
def ordered (s : State) (ord : Bool) : State := if ord then s.flushL1 s.here.1 everyLine else s

end Sys2Proof.Claims

/-- R285, R288, R298 to R300, R303, R304: XFER, XIM2C, GATH and FENCEQ put a request that passes its checks at the tail of its queue, behind the
fences that joined the queue, and go on; a fence joins exactly the queues of its mask; a full queue makes each of them wait. -/
def Sys2Proof.Claims.CopyRequestsEnterTheirQueue : Prop :=
  ∀ (s : State) (f : XForm) (g : IForm),
    let c := s.here.1
    let n := s.here.2
    let ord := f.xm.getLsbD 0
    let s0 := ordered s ord
    let src := s.actorSrc c n
    (ord = true → Settled s 4) →
    (let w0 := reg s f.sa
      ∀ r s1, (s.core c).qRoom (pQ w0) = true →
      checkPacket false c src w0 (reg s (f.sa + 1)) (reg s f.sb) (reg s (f.sb + 1)) s0 = .ok (r, s1) →
      ∃ t r', exec (.xfer f) s = .next t ∧ r' = { r with id := r'.id, fences := r'.fences, ahead := r'.ahead }
        ∧ (t.core c).queue (pQ r.w0) = (s1.core c).queue (pQ r.w0) ++ [r'] ∧ r'.id = s1.nextId
        ∧ r.w0 = w0 ∧ r.kind = (if pFence w0 then .fence else .copy) ∧ (t.slot c n).pc = (s1.slot c n).pc + 8)
    ∧ ((s.core c).qRoom (pQ (reg s f.sa)) = false → ∃ t, exec (.xfer f) s = .next t ∧ (t.slot c n).status = .parked)
    ∧ (let mask := (g.imm.setWidth 8)
      mask ≠ 0 →
      let q := ((List.range 8).find? fun i => mask.getLsbD i).getD 0
      ((s.core c).qRoom q = true → ∃ t r, exec (.fenceq g) s = .next t ∧ r.kind = .fence ∧ Accepted s t q r
        ∧ ∀ j, j < 8 → r.joins j = mask.getLsbD j)
      ∧ ((s.core c).qRoom q = false → ∃ t, exec (.fenceq g) s = .next t ∧ Waits s t .copyQueue))
    ∧ (let q := (f.ctl.extractLsb' 5 3).toNat
      let slot := (f.ctl.setWidth 5).toNat
      let h := fld (reg s f.sa) 52 12
      let o := fld (reg s f.sa) 0 52
      ∀ e l bs s1 s2 img,
      let d := wordsOf 8 bs
      let ext := (fld (d.getD 1 0) 16 16 - 1) * fld (d.getD 3 0) 0 52 + fld (d.getD 1 0) 0 16 * fld (d.getD 1 0) 32 16 * 2 ^ fld (d.getD 4 0) 0 2
      ord = false → f.ctl.getLsbD 8 = false → (s.core c).qRoom q = true → handle .actor c h o s = .ok (e, s) → hSpace e = 1 →
      locate .actor c h e o 64 false s = .ok (l, s) → placeAddr l % 8 = 0 → homeBytes c l 64 s = .ok ((bs, none), s1) →
      (s1.core c).holdsOp (s1.own c).launch slot = true → im2colOk d (reg s f.sc).toNat = true →
      sideRef (.trap 0x21 (word h) (word o)) c (d.getD 0 0) ext [1] false s1 = .ok (img, s2) →
      ∃ t r, exec (.xim2c f) s = .next t ∧ r.kind = .im2col ∧ r.from_ = img ∧ r.w2 = word slot
        ∧ r.gen = ((s2.core c).opSlot slot).gen ∧ (t.core c).queue q = (s2.core c).queue q ++ [r]
        ∧ (t.slot c n).pc = (s2.slot c n).pc + 8)
    ∧ (let q := (f.ctl.extractLsb' 3 3).toNat
      let sz := 2 ^ (f.ctl.setWidth 3).toNat
      let cnt := (reg s f.sc).toNat
      let i := reg s f.sa
      let b := reg s f.sb
      let d := reg s f.sd
      ∀ ei eb ed,
      ord = false → f.ctl.extractLsb' 6 6 = 0 → (s.core c).qRoom q = true → 0 < cnt → cnt ≤ 65536 →
      handle .actor c (fld i 52 12) (fld i 0 52) s = .ok (ei, s) → hSpace ei = 1 → fld i 0 52 + 4 * cnt ≤ hSize ei →
      handle .actor c (fld b 52 12) (fld b 0 52) s = .ok (eb, s) → hSpace eb = 1 → fld b 0 52 ≤ hSize eb →
      handle .actor c (fld d 52 12) (fld d 0 52) s = .ok (ed, s) → hSpace ed = 1 → fld d 0 52 + cnt * sz ≤ hSize ed →
      ∃ t r, exec (.gath f) s = .next t ∧ r.kind = .gather ∧ Accepted s t q r
        ∧ r.idx = .mem (s.ctxOf c) (hBase ei + fld i 0 52) (hPol ei) (hIL ei)
        ∧ r.from_ = .mem (s.ctxOf c) (hBase eb + fld b 0 52) (hPol eb) (hIL eb)
        ∧ r.to_ = .mem (s.ctxOf c) (hBase ed + fld d 0 52) (hPol ed) (hIL ed))

/-- R301: DRAIN goes on once no request that it covers is left, and until then the firing waits. -/
def Sys2Proof.Claims.DrainWaitsForTheRequestsOnItsPath : Prop :=
  ∀ (s : State) (f : IForm),
    let c := s.here.1
    let n := s.here.2
    let path := (f.imm.setWidth 3).toNat
    let bound := ((s.given c n .drain).map (·.on)).getD s.nextId
    ((∀ r ∈ (s.core c).requests, r.id < bound → r.onPath path = false) → exec (.drain f) s = .next (wentOn s c n 0))
    ∧ ((∃ r ∈ (s.core c).requests, r.id < bound ∧ r.onPath path = true) → ∃ t, exec (.drain f) s = .next t ∧ Waits s t .drain)

/-- R285, R289 to R293: the engine moves the head of a queue on, and only the head: it reads the source a word at a time, writes the destination a
word at a time, then passes its stamp, append and follow-on, and leaves the queue. A fence, or a head that a fence holds, is not moved;
a fence leaves once every request ahead of it in its joined queues is complete. -/
def Obligations.CopyEngineMovesTheHeadOn : Prop :=
  ∀ (s : State) (c q : Nat) (r : CopyReq) (rest : List CopyReq),
    let k := s.core c
    let held := r.xwait.isSome ∨ r.fences.any k.open_ = true
    let queued := k.poolQ.any (·.cont == some (.append c q))
    let p := r.taken.length
    let len := pLen r.w0
    k.queue q = r :: rest →
    (r.kind = .fence ∨ held → exec (.copyPerform c q) s = .next s)
    ∧ (r.kind = .copy → ¬ held →
      (∀ j off, r.stage = .read → r.from_ = .sp j off → pTag r.w0 = 0 →
        let m := toWord (off + p) (len - p)
        s.spPoisoned j (off + p) m = false →
        exec (.copyPerform c q) s = .next (s.modHead c q fun r =>
          { r with taken := r.taken ++ s.spRead j (off + p) m, got := none, stage := if len ≤ p + m then .write else .read }))
      ∧ (∀ j off, r.stage = .write → r.to_ = .sp j off → pDk r.w0 = 0 → r.bad = [] →
        let m := toWord (off + r.pos) (len - r.pos)
        let u := (s.spWrite j (off + r.pos) ((r.taken.drop r.pos).take m)).modHead c q fun r => { r with pos := r.pos + m }
        exec (.copyPerform c q) s = .next (if len ≤ r.pos + m then u.modHead c q fun r => { r with stage := .stamp } else u))
      ∧ (r.stage = .stamp → pStamp r.w0 = false →
        exec (.copyPerform c q) s = .next (s.modHead c q fun r => { r with got := none, due := false, stage := .append }))
      ∧ (r.stage = .append → pAppend r.w0 = false → queued = false →
        exec (.copyPerform c q) s = .next (s.modHead c q fun r => { r with due := false, stage := .follow }))
      ∧ (r.stage = .append → r.due = true → queued = true → exec (.copyPerform c q) s = .next s)
      ∧ (r.stage = .follow → pFollow r.w0 = false → (∀ c' p', r.src ≠ .elem c' p') →
        ∃ t, exec (.copyPerform c q) s = .next t ∧ (t.core c).queue q = rest ∧ t = { s with cores := t.cores }))
    ∧ (r.kind = .fence → r.ahead.any k.open_ = false → r.fences.any k.open_ = false →
      (r.stage ≠ .follow → pAppend r.w0 = false → queued = false →
        exec (.fenceComplete c q) s = .next (s.modHead c q fun r => { r with due := false, stage := .follow }))
      ∧ (r.stage = .follow → pFollow r.w0 = false → (∀ c' p', r.src ≠ .elem c' p') →
        ∃ t, exec (.fenceComplete c q) s = .next t ∧ (t.core c).queue q = rest))
    ∧ (r.kind = .fence → (r.ahead.any k.open_ = true ∨ r.fences.any k.open_ = true) → exec (.fenceComplete c q) s = .next s)

/-! ### The matrix array -/

namespace Sys2Proof.Claims
open Sys2Proof.Machine

/-- A matrix operation of the running firing has entered the sequencer queue of its core at the tail; nothing else of the matrix array has
changed. -/
def Queued (s t : State) (o : MatOp) : Prop :=
  let c := s.here.1
  (t.core c).seq = (s.core c).seq ++ [o] ∧ o.src = s.actorSrc c s.here.2 ∧ o.launch = (s.own c).launch
  ∧ (t.core c).op = (s.core c).op ∧ (t.core c).tiles = (s.core c).tiles
/-- The sequencer queue of the running firing's core holds operations, and the firing awaits that the one it issued writes registers, which are
yet as they were (R437). -/
def Awaits (s t : State) (seq : List MatOp) (dsts : List Nat) : Prop :=
  let c := s.here.1
  let n := s.here.2
  (t.core c).seq = seq ∧ (t.slot c n).pend = (s.slot c n).pend ++ [.matrix dsts] ∧ (t.slot c n).regs = (s.slot c n).regs

end Sys2Proof.Claims

/-- R315, R316, R326: OCLAIM of a free slot or tile gives it to the team, advances its generation by one, and is queued to deliver it; a slot
takes its descriptor. One that is claimed takes trap 0x22, and a bad descriptor trap 0x23. ORELEASE marks what the team holds and queues its release; what
it does not hold takes trap 0x20. No claim touches another slot or tile. -/
def Obligations.SlotsAndTilesAreClaimedAndReleased : Prop :=
  ∀ (s : State) (f : XForm),
    let c := s.here.1
    let n := s.here.2
    let i := (f.ctl.setWidth 5).toNat
    let k := s.core c
    let l := (s.own c).launch
    let claim (g : Nat) : MatOp := { word := encX 0x100#10 f, src := s.actorSrc c n, a := word ((g + 1) % 2 ^ 32), launch := l }
    (f.ctl.getLsbD 5 = false → (k.opSlot i).releasing = false →
      ((k.opSlot i).owner = none → descOk (reg s f.sa) = true → k.seqRoom = true →
        ∃ t, exec (.oclaim f) s = .next t ∧ WentOn s t ∧ Awaits s t (k.seq ++ [claim (k.opSlot i).gen]) [f.dst.toNat]
          ∧ (t.core c).opSlot i = { k.opSlot i with owner := some l, gen := ((k.opSlot i).gen + 1) % 2 ^ 32, desc := reg s f.sa }
          ∧ (∀ j, j ≠ i → (t.core c).opSlot j = k.opSlot j) ∧ (t.core c).tiles = k.tiles)
      ∧ (∀ o, (k.opSlot i).owner = some o → exec (.oclaim f) s = .next (s.takeTrap c n 0x22 0 0))
      ∧ ((k.opSlot i).owner = none → descOk (reg s f.sa) = false → exec (.oclaim f) s = .next (s.takeTrap c n 0x23 0 0)))
    ∧ (f.ctl.getLsbD 5 = true → (k.tile i).releasing = false →
      ((k.tile i).owner = none → k.seqRoom = true →
        ∃ t, exec (.oclaim f) s = .next t ∧ WentOn s t ∧ Awaits s t (k.seq ++ [claim (k.tile i).gen]) [f.dst.toNat]
          ∧ (t.core c).tile i = { k.tile i with owner := some l, gen := ((k.tile i).gen + 1) % 2 ^ 32 } ∧ (t.core c).op = k.op)
      ∧ (∀ o, (k.tile i).owner = some o → exec (.oclaim f) s = .next (s.takeTrap c n 0x22 0 0)))
    ∧ (let held := if f.ctl.getLsbD 5 then k.holdsTile l i else k.holdsOp l i
      (held = false → exec (.orelease f) s = .next (s.takeTrap c n 0x20 0 0))
      ∧ (held = true → k.seqRoom = true →
        ∃ t, exec (.orelease f) s = .next t ∧ WentOn s t
          ∧ (t.core c).seq = k.seq ++ [{ word := encX 0x101#10 f, src := s.actorSrc c n, launch := l }]
          ∧ (if f.ctl.getLsbD 5 then (t.core c).tile i = { k.tile i with releasing := true }
             else (t.core c).opSlot i = { k.opSlot i with releasing := true })))

/-- R317 to R319, R321, R322, R324, R326, R437, R450: what claims and descriptors allow is queued in issue order and the firing goes on; what
MCHK and MFIX deliver is written when they complete; a full queue makes each wait; what is not allowed traps. -/
def Sys2Proof.Claims.MatrixWordsAreQueued : Prop :=
  ∀ (s : State) (f : XForm),
    let c := s.here.1
    let n := s.here.2
    let k := s.core c
    let l := (s.own c).launch
    let qd (m : BitVec 10) : Instr := if m = 0x102 then .mma f else if m = 0x103 then .mmaq f else if m = 0x104 then .mchk f
      else if m = 0x105 then .mfix f else if m = 0x106 then .minj f else .maccz f
    (∀ m : BitVec 10, 0x102 ≤ m → m ≤ 0x107 →
      (k.matCheck l (encX m f) = none → k.seqRoom = true → ∃ t, exec (qd m) s = .next t ∧ WentOn s t
        ∧ Queued s t { word := encX m f, src := s.actorSrc c n, launch := l
                       a := if m = 0x105 then reg s f.sa else 0, b := if m = 0x105 then reg s (f.sa + 1) else 0 })
      ∧ (k.matCheck l (encX m f) = none → k.seqRoom = false → ∃ t, exec (qd m) s = .next t ∧ Waits s t .seqQueue)
      ∧ (∀ code, k.matCheck l (encX m f) = some code → exec (qd m) s = .next (s.takeTrap c n code 0 0)))
    ∧ (k.seqRoom = true → ∀ t,
      (k.matCheck l (encX 0x104#10 f) = none → exec (.mchk f) s = .next t →
        (t.slot c n).pend = (s.slot c n).pend ++ [.matrix [f.dst.toNat, (f.dst.toNat + 1) % 32]] ∧ (t.slot c n).regs = (s.slot c n).regs)
      ∧ (k.matCheck l (encX 0x105#10 f) = none → exec (.mfix f) s = .next t →
        (t.slot c n).pend = (s.slot c n).pend ++ [.matrix [f.dst.toNat]] ∧ (t.slot c n).regs = (s.slot c n).regs))
    ∧ (let w := encX 0x108#10 f
      let sh := stShape w
      let r := reg s f.sa
      let p := (reg s f.sb).toNat
      ∀ e loc, k.matCheck l w = none → k.seqRoom = true → p % sh.2.2 = 0 → sh.2.1 ≤ p →
      (fld w 3 2 = 2 → fld w 5 6 = 0 ∧ fld w 11 6 = 0) →
      handle .actor c (fld r 52 12) (fld r 0 52) s = .ok (e, s) → hSpace e < 3 →
      locate .actor c (fld r 52 12) e (fld r 0 52) ((sh.1 - 1) * p + sh.2.1) true s = .ok (loc, s) →
      (hEFV e = true → stFmt w (hEFMT e) = true) →
      ∃ t, exec (.maccst f) s = .next t ∧ WentOn s t
        ∧ Queued s t { word := w, src := s.actorSrc c n, a := r, b := word p, launch := l, to_ := loc
                       efmt := if hEFV e then some (hEFMT e) else none })

/-- R325: MFENCE goes on when nothing is ahead of it in the queue, with the lines that completed MACCSTs wrote dropped from the L1; otherwise it
waits. -/
def Sys2Proof.Claims.MatrixFenceWaitsForTheQueue : Prop :=
  ∀ (s : State),
    let c := s.here.1
    let n := s.here.2
    (s.given c n .matrix = none → (s.core c).seq = [] →
      ∃ t, exec .mfence s = .next t ∧ WentOn s t ∧ (t.core c).stLines = []
        ∧ ∀ line ∈ (s.core c).stLines, (s.core c).fused = false → t.l1Line c line = none)
    ∧ (s.given c n .matrix = none → (s.core c).seq ≠ [] → ∃ t, exec .mfence s = .next t ∧ Waits s t .matrix)
    ∧ (∀ p, s.given c n .matrix = some p → p.done = true → ∃ t, exec .mfence s = .next t ∧ WentOn s t)

/-- R316, R318, R321 to R324, R326, R437: the sequencer performs the head of its queue: a release frees what it names, MACCZ zeroes its tile, MINJ
inverts one bit, what OCLAIM, and MCHK and MFIX of a tile without checksums, deliver is written, and a product without ACC leaves in each element of its tile the exact sum of the chunk's products, rounded once. -/
def Obligations.SequencerPerformsTheHead : Prop :=
  ∀ (s : State) (c : Nat) (o : MatOp) (rest : List MatOp),
    let k := s.core c
    let w := o.word
    let i := mTile w
    k.seq = o :: rest → o.xwait = none → (s.launch o.launch).phase = .running → o.port = false →
    (fld w 54 10 = 0x101 → ∃ t, exec (.sequencerOperation c) s = .next t ∧ (t.core c).seq = rest
      ∧ (fld w 5 1 = 0 → ((t.core c).opSlot (fld w 0 5)).owner = none ∧ ((t.core c).opSlot (fld w 0 5)).releasing = false)
      ∧ (fld w 5 1 = 1 → ((t.core c).tile (fld w 0 5)).owner = none ∧ ((t.core c).tile (fld w 0 5)).releasing = false))
    ∧ (fld w 54 10 = 0x107 → ∃ t, exec (.sequencerOperation c) s = .next t ∧ (t.core c).seq = rest
      ∧ (∀ j, mgetD ((t.core c).tile i).acc j 0 = 0) ∧ ((t.core c).tile i).ckv = false ∧ ((t.core c).tile i).owner = (k.tile i).owner
      ∧ (t.core c).op = k.op ∧ ∀ j, j ≠ i → (t.core c).tile j = k.tile j)
    ∧ (fld w 54 10 = 0x106 → ∃ t, exec (.sequencerOperation c) s = .next t ∧ (t.core c).seq = rest
      ∧ let at_ := 64 * fld w 3 6 + fld w 9 6
        mgetD ((t.core c).tile i).acc at_ 0 = mgetD (k.tile i).acc at_ 0 ^^^ (1#32 <<< fld w 15 5)
        ∧ ∀ j, j ≠ at_ → mgetD ((t.core c).tile i).acc j 0 = mgetD (k.tile i).acc j 0)
    ∧ (let a := k.opSlot (mA w)
      let b := k.opSlot (mB w)
      fld w 54 10 = 0x102 ∨ fld w 54 10 = 0x103 → o.chunk = 0 → a.bad = none → b.bad = none → chunkError c w a b (k.tile (mC w)) 0 = none →
      mAcc w = false → dK a.desc ≤ 32 →
      ∃ t, exec (.sequencerOperation c) s = .next t ∧ (t.core c).seq = rest
        ∧ ∀ x y, x < dRows a.desc → y < dRows b.desc → dRows b.desc ≤ 64 →
            mgetD ((t.core c).tile (mC w)).acc (64 * x + y) 0
              = BitVec.ofNat 32 (fp32.round 0
                  (chunkSum ((a.elems x 0 (dK a.desc)).map (·.1)) ((b.elems y 0 (dK a.desc)).map (·.1))).1).1)
    ∧ (∀ c' n serial (v : Word), o.src = .actor c' n serial → (s.slot c' n).inFiring serial = true →
      (fld w 54 10 = 0x100 ∧ v = o.a) ∨ ((k.tile i).ckv = false ∧ ((fld w 54 10 = 0x104 ∧ v = BitVec.allOnes 64) ∨ (fld w 54 10 = 0x105 ∧ v = 1))) →
      ∃ t, exec (.sequencerOperation c) s = .next t ∧ (t.core c).seq = rest ∧ (t.slot c' n).reg (fld w 49 5) = v
        ∧ (fld w 54 10 = 0x104 → (t.slot c' n).reg ((fld w 49 5 + 1) % 32) = v)
        ∧ (t.slot c' n).pend = lremove (· == .matrix (matDsts w)) (s.slot c' n).pend
        ∧ (t.core c).tiles = k.tiles ∧ (t.core c).op = k.op)

/-! ### Routing -/

namespace Sys2Proof.Claims
open Sys2Proof.Machine

/-- The instruction that heads the queue of a die's Belfry, accepted, waiting for no translation, of a team that nothing has failed. -/
structure AtHead (s : State) (die : Nat) (o : BelfryOp) : Prop where
  head   : (s.belfryQ die).head? = some o
  taken  : o.waiting = false
  mapped : o.xwait = none
  live   : (s.launch o.launch).failed = none
/-- A state as the Belfry works on an instruction: its accesses are the issuing agent's (R350). -/
def working (s : State) (o : BelfryOp) : State := { s with cur := .actor o.core o.slot }
/-- RCAP, RDISP, RCOMB and RREC, by kind. -/
def belfryInstr (kind : Nat) (f : XForm) : Instr :=
  match kind with
  | 0 => .rcap f
  | 1 => .rdisp f
  | 2 => .rcomb f
  | _ => .rrec f
/-- The Belfry has done with a token of an instruction: the next follows, or the instruction is told that it is complete. -/
def afterToken (s : State) (o : BelfryOp) : State :=
  if o.last ≤ o.next + 1 then s.belfryTell o 0
  else s.modBelfry (dieOf o.core) o.id fun o => { o with next := o.next + 1, asked := false, got := [], asks := [] }

end Sys2Proof.Claims

/-- R338, R339, R361: RCAP, RDISP, RCOMB and RREC take their place in the queue of their die's Belfry in the order of issue, are accepted once
there is room, and are parked until the Belfry has performed them; then they deliver what it gives, RCAP and RREC in DST, and go on. -/
def Sys2Proof.Claims.RoutingInstructionsEnterTheQueueInTurn : Prop :=
  ∀ (s : State) (f : XForm) (kind : Nat), kind < 4 →
    let c := s.here.1
    let n := s.here.2
    let die := dieOf c
    let q := s.belfryQ die
    let mine (o : BelfryOp) : Bool := o.core == c && o.slot == n
    let id := ((q.find? mine).map (·.id)).getD s.nextId
    let u : State := if q.any mine then s else
      { s with nextId := s.nextId + 1
               belfry := mset s.belfry die (q ++ [{ id := s.nextId, waiting := true, kind := kind, core := c, slot := n, launch := (s.own c).launch }]) }
    (∀ p, s.given c n (belfryPark kind) = some p → p.done = true →
      exec (belfryInstr kind f) s = .next (if kind = 0 ∨ kind = 3 then wroteAt s c n f.dst p.val 0 else wentOn s c n 0))
    ∧ (s.given c n (belfryPark kind) = none →
      (16 ≤ ((u.belfryQ die).filter (!·.waiting)).length ∨ (∃ o, (u.belfryQ die).find? (·.waiting) = some o ∧ o.id ≠ id) →
        ∃ t, exec (belfryInstr kind f) s = .next t ∧ Waits s t .belfryQueue ∧ t.belfryQ die = u.belfryQ die)
      ∧ (((u.belfryQ die).filter (!·.waiting)).length < 16 → (∃ o, (u.belfryQ die).find? (·.waiting) = some o ∧ o.id = id) →
        ∀ o s1, belfryAccept kind f c n id u = .ok (o, s1) →
        ∃ t p, exec (belfryInstr kind f) s = .next t ∧ (t.slot c n).status = .parked ∧ (t.slot c n).park = some p
          ∧ p.kind = belfryPark kind ∧ p.done = false ∧ p.on = id
          ∧ t.belfryQ die = (s1.belfryQ die).map fun w => if w.id = id then o else w))

/-- R339, R340, R344: at the head of its queue RCAP publishes the share's choices; the merge does nothing to the arrays before every share has
published; once merged and its quenches answered, the firing is given its answer and the instruction leaves the queue. -/
def Sys2Proof.Claims.RcapPublishesThenDeliversTheMerge : Prop :=
  ∀ (s : State) (die : Nat) (o : BelfryOp), AtHead s die o → o.kind = 0 →
    let u := working s o
    let x := s.ctxOf o.core
    let all := o.epoch * (s.launch o.launch).dies.length
    (o.published = false →
      exec (.rcapMerge die) s = .next s
      ∧ ((s.launch o.launch).stopped = false → ∀ s1, rcapPublish o u = .ok ((), s1) →
        s.belfryAct die = s1
        ∧ ∃ r ∈ s1.exchange, r.launch = o.launch ∧ r.ctx = x ∧ r.at_ = o.va 6 ∧ r.parity = o.epoch % 2 ∧ r.share = o.share))
    ∧ (o.published = true → o.merged = false → ∀ s0 v s1, xctrCheck o x false u = .ok ((), s0) → xctrRead o x false s0 = .ok (v, s1) →
      (v < all → exec (.rcapMerge die) s = .next s1)
      ∧ (∀ t, all ≤ v → rcapMerge o s1 = .ok ((), t) → exec (.rcapMerge die) s = .next t))
    ∧ (o.published = true → o.merged = true → (∃ a ∈ o.asks, a.2 = none) → exec (.rcapMerge die) s = .next s)
    ∧ (o.published = true → o.merged = true → (∀ a ∈ o.asks, a.2 = some true) → o.bad48 = none →
      exec (.rcapMerge die) s = .next (s.belfryTell o o.result)
      ∧ ∃ p, ((s.belfryTell o o.result).slot o.core o.slot).park = some p ∧ p.kind = .rcap ∧ p.done = true ∧ p.val = o.result)

/-- R341: a run keeps every candidate, in the order of the key: weight descending, NaNs last, then the global index. -/
def Sys2Proof.Claims.RunsAreSortedByTheKey : Prop :=
  ∀ l : List Cand, (keySort l).Perm l ∧ (keySort l).Pairwise fun a b => keyBefore b a = false

/-- R345 to R348: a move of a Belfry performs one token of the RDISP or RCOMB at the head of its queue, in this package, or reads the record,
inverse entry or count that an RREC names; after its last token each is told that it is complete, and an RREC what it read. -/
def Sys2Proof.Claims.RoutingInstructionsRunInTurn : Prop :=
  (∀ (s : State) (die : Nat) (rest : List Move), s.power = .on → s.agenda = .belfry die :: rest → step s = .next (s.nextMove.2.belfryAct die))
  ∧ ∀ (s : State) (die : Nat) (o : BelfryOp), AtHead s die o → (s.launch o.launch).stopped = false →
    let u := working s o
    let x := s.ctxOf o.core
    let g := o.next
    (o.kind = 1 → rSetv o.desc = false → ∀ rs s1, tokenRecords o x g u = .ok (rs, s1) →
      let slotted := rs.filter fun r => fld r.2 62 2 == 0
      ∀ s2, (slotted = [] ∧ s2 = s1) ∨ (slotted ≠ [] ∧ sendToken o x g 0 false slotted s1 = .ok (true, s2)) →
      s.belfryAct die = afterToken s2 o)
    ∧ (o.kind = 2 → ∀ rs s1 rows s2 s3, tokenRecords o x g u = .ok (rs, s1) →
      outRows o (rs.filter fun r => fld r.2 62 2 == 0) s1 = .ok (some rows, s2) → (∀ r ∈ rows, placeIsWin r.2.2.1 = false) →
      combineToken o x g rows s2 = .ok (false, s3) → o.bad41 = false →
      s.belfryAct die = afterToken (s3.modBelfry (dieOf o.core) o.id fun o => { o with bad41 := o.bad41 || false }) o)
    ∧ (o.kind = 3 →
      let i := if o.epoch = 0 then 3 else if o.epoch = 1 then 4 else 5
      let k := if o.epoch = 0 then o.at_ o.next o.last else if o.epoch = 1 then o.inv o.next o.last else 8 * o.next
      ∀ v s1, o.get8 x i k u = .ok ((v, none), s1) → s.belfryAct die = s1.belfryTell o v)

/-! ### Actors at their channels -/

/-- R364 to R367: SEND places one token, from its payload register, in the channel of its port, and counts it; RECV takes the head of its channel,
delivers payload and header, and counts it; PEEK delivers and leaves the head. An empty channel makes RECV and PEEK wait; a head of
an unsealed set makes RECV ask its damper first; SEND waits only while a consumer may not take the old producer's tokens yet (R391); beyond
the declared count RECV and SEND take trap 0x29, and SEND takes it for a header that names level 7. -/
def Obligations.ActorsSendReceiveAndPeek : Prop :=
  ∀ (s : State) (f : XForm),
    let c := s.here.1
    let n := s.here.2
    let e := s.elem c 60
    let port := (f.ctl.setWidth 4).toNat
    let w := (f.ctl.extractLsb' 4 2).toNat
    let hdr := f.ctl.getLsbD 6
    (∀ ch tok, e.outChan n port = some ch → mgetD (s.slot c n).sent port 0 < e.outRate ch → sentToken (s.slot c n) f = some tok →
      (s.chanOpen c ch = true → exec (.send f) s = .next ((s.emit c 60 ch tok).modSlot c n fun y =>
        { y with sent := mset y.sent port (mgetD y.sent port 0 + 1), pc := y.pc + 8, issued := y.issued + 1, park := none, under := none }))
      ∧ (s.chanOpen c ch = false → ∃ t, exec (.send f) s = .next t ∧ Waits s t .bank))
    ∧ (∀ ch, e.outChan n port = some ch → sentToken (s.slot c n) f = none → exec (.send f) s = .next (s.takeTrap c n 0x29 0 0))
    ∧ (hdr = true → fld (reg s f.sb) 3 3 = 7 → sentToken (s.slot c n) f = none)
    ∧ (hdr = false → sentToken (s.slot c n) f = some
        { width := w, pay := BitVec.ofNat 512 (if w = 2 then ((List.range 8).map fun j => ((s.slot c n).reg (f.sa.toNat + j)).toNat * 2 ^ (64 * j)).sum
                                              else if w = 1 then (reg s f.sa).toNat else (reg s f.sa).toNat % 2 ^ 32) })
    ∧ (∀ ch, e.outChan n port = some ch → e.outRate ch ≤ mgetD (s.slot c n).sent port 0 → exec (.send f) s = .next (s.takeTrap c n 0x29 0 0))
    ∧ (e.outChan n port = none → exec (.send f) s = .next (s.takeTrap c n 0x29 0 0))
    ∧ (e.inChan n port = none → exec (.recv f) s = .next (s.takeTrap c n 0x29 0 0))
    ∧ ∀ ch, e.inChan n port = some ch →
      (e.inRate ch ≤ mgetD (s.slot c n).taken port 0 → exec (.recv f) s = .next (s.takeTrap c n 0x29 0 0))
      ∧ (mgetD (s.slot c n).taken port 0 < e.inRate ch → s.given c n .recv = none →
        ((s.core c).chan ch = [] → (∃ t, exec (.recv f) s = .next t ∧ Waits s t .recv) ∧ ∃ t, exec (.peek f) s = .next t ∧ Waits s t .peek)
        ∧ (∀ x rest, (s.core c).chan ch = x :: rest → (s.core c).quenches x = false → (s.core c).asks x = false →
          x.tok.kind = .val ∨ x.tok.kind = .crd ∨ x.tok.kind = .ref → x.tok.width = w → w < 2 → f.sd ≠ f.dst →
          (x.tok.set = 0 ∨ x.tok.set = e.lastSealed → (e.port (8 + ch)).res = none →
            ∃ t, exec (.recv f) s = .next t ∧ WentOn s t ∧ (t.core c).chan ch = rest
              ∧ mgetD (t.slot c n).taken port 0 = mgetD (s.slot c n).taken port 0 + 1
              ∧ (t.slot c n).reg f.dst.toNat = word x.tok.num
              ∧ (hdr = true → (t.slot c n).reg f.sd.toNat = x.tok.header)
              ∧ ∀ j, j ≠ ch → (t.core c).chan j = (s.core c).chan j)
          ∧ (x.tok.set ≠ 0 → x.tok.set ≠ e.lastSealed →
            ∃ t, exec (.recv f) s = .next t ∧ Waits s t .recv ∧ (t.core c).chan ch = x :: rest
              ∧ ∃ q, mget t.dreqs s.nextId = some q ∧ q.kind = .commit ∧ q.set = x.tok.set)
          ∧ ∃ t, exec (.peek f) s = .next t ∧ WentOn s t ∧ (t.core c).chan ch = x :: rest
            ∧ (t.slot c n).reg f.dst.toNat = word x.tok.num ∧ (hdr = true → (t.slot c n).reg f.sd.toNat = x.tok.header)))

/-- R253, R368, R374: NOTE reads WR, a checked access, and delivers the next released notice, or says that there is none; without WAIT it never
waits. FIREND ends the firing: the slot returns to idle, or with DONE becomes finished, and the sequencer is free. -/
def Sys2Proof.Claims.NoteAndFirend : Prop :=
  ∀ (s : State) (f : XForm) (g : IForm),
    let c := s.here.1
    let n := s.here.2
    let l := (s.own c).launch
    let e := s.elem c 60
    let gives (u t : State) (v seq : Word) : Prop := (t.slot c n).pc = (u.slot c n).pc + 8 ∧ (t.slot c n).park = none
      ∧ (t.slot c n).reg f.dst.toNat = v ∧ (t.slot c n).reg (f.dst + 1).toNat = seq
    ((s.launch l).img.osnew = [] → ∃ t, exec (.note f) s = .next t ∧ gives s t (3 <<< 62) 0)
    ∧ (∀ va s1 u, s.noteArea l = some va → noteTouch c l s = .ok ((), s1) →
      scopeAt false c 0 0 4 (.mem (s1.ctxOf c) (va + 8) 3 false) s1 = .ok ((), u) →
      (u.noticeAt l = none → (u.launch l).img.osnew ≠ [] → f.ctl.getLsbD 0 = false →
        ∃ t, exec (.note f) s = .next t ∧ gives u t (1 <<< 63) 0)
      ∧ (∀ note rd, u.noticeAt l = some (note, rd) →
        ∃ t, exec (.note f) s = .next t ∧ gives u t (word (noticeTok note).num) (word (fld note.w1 16 40))))
    ∧ (g.imm.getLsbD 0 = true → exec (.firend g) s = .next (s.finishSlot c n)
        ∧ ((s.finishSlot c n).slot c n).status = .finished ∧ ((s.finishSlot c n).core c).running ≠ some n)
    ∧ (g.imm.getLsbD 0 = false → e.ending = false →
      ∃ t, exec (.firend g) s = .next t ∧ (t.slot c n).status = .idle ∧ (t.slot c n).park = none ∧ (t.core c).running ≠ some n
        ∧ (t.slot c n).regs = (s.slot c n).regs ∧ (∀ ch, (t.core c).chan ch = (s.core c).chan ch)
        ∧ t = { s with cores := t.cores, belfry := t.belfry })

/-- R28, R29, R360: a scheduling round of a core whose sequencer is free takes one candidate: an idle slot starts a firing at its entry with its held
registers unchanged, a parked one goes on where it stood; without a candidate nothing happens. -/
def Sys2Proof.Claims.SchedulingRoundTakesOneCandidate : Prop :=
  ∀ (s : State) (c : Nat),
    let k := s.core c
    let cands := (List.range 16).filter (s.candidateSlot c)
    (∀ m, k.running = some m → exec (.schedulingRound c) s = .next s)
    ∧ (k.running = none → cands = [] → exec (.schedulingRound c) s = .next s)
    ∧ (k.running = none → cands ≠ [] → ∃ t n, exec (.schedulingRound c) s = .next t ∧ n ∈ cands ∧ (t.core c).running = some n
      ∧ (t.slot c n).status = .firing
      ∧ ((s.slot c n).status = .idle → (t.slot c n).pc = (s.slot c n).entry ∧ (t.slot c n).issued = 0 ∧ (t.slot c n).park = none
          ∧ ∀ r, 24 ≤ r → (t.slot c n).reg r = (s.slot c n).reg r)
      ∧ ((s.slot c n).status = .parked → (t.slot c n).pc = (s.slot c n).pc ∧ (t.slot c n).regs = (s.slot c n).regs
          ∧ (t.slot c n).park = (s.slot c n).park))

/-- R362, R376 to R378: an idle slot whose input channels all stand at eos with nothing counted becomes finished; a finished slot sends the eos that is
due where there is room. The Lantern gives an instance its next record, then one eos; a chunk request of the lowest instance that asks moves the share's
cursor on by the chunk it gives. -/
def Obligations.SlotsFinishAndLanternsDeal : Prop :=
  (∀ (s : State) (c n : Nat),
    let e := s.elem c 60
    let ins := e.inChans n
    s.pageLive c = true → (s.slot c n).status = .idle → ins ≠ [] →
    (∀ ch ∈ ins, (∃ t ∈ (s.core c).chan ch, t.tok.kind = .eos) ∧ (s.core c).countedAt ((s.core c).chan ch) = 0) →
    exec (.slotFinish c n) s = .next (s.finishSlot c n) ∧ ((s.finishSlot c n).slot c n).status = .finished
      ∧ ((s.finishSlot c n).slot c n).eosDue = e.outChans n)
  ∧ (∀ (s : State) (c n ch : Nat), s.pageLive c = true → (s.slot c n).status = .finished → (s.slot c n).eosDue = [ch] →
      s.canEmit c 60 ch true = true →
      exec (.slotFinish c n) s = .next ((s.emit c 60 ch eosTok).modSlot c n fun x => { x with eosDue := ldel x.eosDue ch }))
  ∧ (∀ (s : State) (l share inst c ch : Nat) (k : Launch) (d : Deal), mget s.launches l = some k →
    (k.deals.find? fun d => d.share == share && d.inst == inst) = some d → s.jobChan l share inst = some (c, ch) →
    k.dealing = true → s.sourcesRun c = true →
    (d.next < d.stop → s.canTake (c, 60, 8 + ch) false = true →
      exec (.lanternDeal l share inst) s = .next ((s.arrive (c, 60, 8 + ch) { width := 1, pay := BitVec.ofNat 512 (d.next % 2 ^ 32) }).modDeal l share inst
        fun d => { d with next := d.next + (if k.elastic then 1 else k.insts) }))
    ∧ (d.stop ≤ d.next → d.eosSent = false → k.elastic = false → s.canTake (c, 60, 8 + ch) true = true →
      exec (.lanternDeal l share inst) s
        = .next ((s.arrive (c, 60, 8 + ch) eosTok).modDeal l share inst fun d => { d with eosSent := true }))
    ∧ (k.elastic = true → d.stop ≤ d.next → (s.core c).chan ch = [] → k.cursorOf share < k.shareEnd share →
      inst < k.insts → (∀ i, i < inst → s.asksChunk l share i = false) →
      let left := k.shareEnd share - k.cursorOf share
      let m := min left (max k.minChunk (cdiv left (2 * k.insts)))
      ∃ t, exec (.chunkRequest l share inst) s = .next t ∧ (t.launch l).cursorOf share = k.cursorOf share + m
        ∧ ∃ d', ((t.launch l).deals.find? fun d => d.share == share && d.inst == inst) = some d'
            ∧ d'.next = k.cursorOf share ∧ d'.stop = k.cursorOf share + m))

/-! ### System instructions, registers and the supervisor's events -/

namespace Sys2Proof.Claims
open Sys2Proof.Machine

/-- The bits that R407 lists for each register number; a number it does not list has none. -/
def listedBits (r : Nat) : Word :=
  match r with
  | 0x00 => 0x3F03
  | 0x01 | 0x02 | 0x03 | 0x05 => 0xF_FFFF_FFFF_FFFF
  | 0x04 => 0xF_FFFF_FFFF
  | 0x06 | 0x07 | 0x08 => 0xFFFF_FFFF
  | 0x09 => 0x1F_3FFF
  | 0x0A => 0xFFFF_FFFF_FFFF_FFFF
  | 0x0B | 0x82 | 0x85 => 0x0F0F_FFFF_FFFF_FFFF
  | 0x0D => 0xFFFF_FFFF_FFFF
  | 0x0E => 0xFF0F_FFFF_FFFF_FFFF
  | 0x80 => 0x1FF
  | 0x84 => 0x1_FFFF_FFFF_FFFF
  | 0x87 => 0x3FFF_FFFF_0000
  | 0x88 => 0x8000_001F_FFFF_FFFF
  | 0x89 => 0xFFF
  | 0x8A => 0x070F_FF03
  | _ => 0
/-- Nothing waits to be made again: no load or store of a firing, no trap record, no completion word (R418). -/
def NothingWaits (s : State) : Prop :=
  (∀ k ∈ s.cores, ∀ x ∈ k.2.slots, x.2.pend = []) ∧ ∀ x, (s.ctx x).trapQ = [] ∧ (s.ctx x).endWords = []

end Sys2Proof.Claims

/-- R407 to R409, R432: the supervisor window acts only once the supervisor has been verified. A write through the supervisor window of a value with a reserved bit set is refused and changes nothing but the refusal
record; so is one of a register without a writable field, and one outside its field's limits; an accepted write of a plain register is
read back, and no other register of any context changes. -/
def Obligations.RegisterWritesAreCheckedAndRecorded : Prop :=
  (∀ (s : State) (r x : Nat) (v : Word), s.hsMode = false → exec (.registerWrite r x v) s = .next s)
  ∧ (∀ (s : State) (r x : Nat) (v : Word), s.hsMode = true → regAssigned r = true → x < 16 →
    (v &&& ~~~ listedBits r ≠ 0 → ∃ t, exec (.registerWrite r x v) s = .next t ∧ t = { s with refr := t.refr })
    ∧ (r = 0x0C ∨ r = 0x81 ∨ r = 0x83 ∨ r = 0x86 ∨ (r = 0x80 ∧ s.podaFixed = true) →
        exec (.registerWrite r x v) s = .next (s.recordRefusal x r 1))
    ∧ (fld s.refr 0 1 = 0 → r ≠ 0x8A → v &&& ~~~ listedBits r ≠ 0 → r ≠ 0x0C → r ≠ 0x81 → r ≠ 0x83 → r ≠ 0x86 → s.podaFixed = false →
        ∃ t, exec (.registerWrite r x v) s = .next t ∧ fld t.refr 0 1 = 1 ∧ fld t.refr 8 8 = r ∧ fld t.refr 24 3 = 2
          ∧ (r < 0x80 → fld t.refr 16 4 = x))
    ∧ (fld s.refr 0 1 = 1 → r ≠ 0x8A → s.regRefused r v ≠ none → ∃ t, exec (.registerWrite r x v) s = .next t
          ∧ fld t.refr 1 1 = 1 ∧ fld t.refr 8 8 = fld s.refr 8 8))
  ∧ (∀ (s : State) (r x : Nat) (v : Word), s.hsMode = true → x < 16 →
    r = 0x01 ∨ r = 0x02 ∨ r = 0x03 ∨ r = 0x04 ∨ r = 0x05 ∨ r = 0x06 ∨ r = 0x07 ∨ r = 0x08 ∨ r = 0x09 ∨ r = 0x0A ∨ r = 0x0B ∨ r = 0x0D ∨ r = 0x0E →
    s.regRefused r v = none → (r = 0x0B → (s.ctx x).trapQ = []) →
    ∃ t, exec (.registerWrite r x v) s = .next t ∧ t.regRead x r = v ∧ t = { s with ctxs := t.ctxs }
      ∧ ∀ y q, (y ≠ x ∨ q ≠ r) → q < 0x80 → t.regRead y q = s.regRead y q)

/-- R408, R409: SREG delivers the register's old value; with WR it writes as the supervisor window does. A register number that is not assigned, or a
write that is refused, takes trap 0x2B with nothing done. -/
def Sys2Proof.Claims.SystemRegisterInstruction : Prop :=
  ∀ (s : State) (f : XForm),
    let c := s.here.1
    let n := s.here.2
    let r := (f.ctl.setWidth 8).toNat
    let x := (f.ctl.extractLsb' 8 4).toNat
    let wr := f.ctl.getLsbD 12
    let s0 := s.flushL1 c everyLine
    Settled s 4 →
    (regAssigned r = false ∨ (0x80 ≤ r ∧ x ≠ 0) → exec (.sreg f) s = .next (s.takeTrap c n 0x2B 0 0))
    ∧ (regAssigned r = true → (0x80 ≤ r → x = 0) →
      (wr = false → f.sa = 0 → exec (.sreg f) s = .next (wroteAt s0 c n f.dst (s0.regRead x r) 0))
      ∧ (wr = true → s0.regRefused r (reg s f.sa) = none →
        exec (.sreg f) s = .next ((wroteAt s0 c n f.dst (s0.regRead x r) 0).regWrite x r (reg s f.sa)))
      ∧ (∀ cause, wr = true → s0.regRefused r (reg s f.sa) = some cause → exec (.sreg f) s = .next (s.takeTrap c n 0x2B 0 0)))

/-- R411 to R413, R418: SYSC delivers the ordinal of the record it writes, which is of CLASS 5 with the call code and SA, SB; it never loses a record
to a full ring, or one whose page does not translate: the firing waits. Without a ring the call counts as lost. -/
def Sys2Proof.Claims.SystemCallWritesItsRecord : Prop :=
  ∀ (s : State) (f : IForm),
    let c := s.here.1
    let n := s.here.2
    let x := s.ctxOf c
    let code := (f.imm.setWidth 16).toNat
    ((s.ringBase x = 0 ∨ (s.ringRoom x = true ∧ (s.ctx x).trapQ = [] ∧ s.trapHeld x = none)) →
      exec (.sysc f) s = .next (wroteAt (s.coreRecord c code 5 0 n 1 (reg s f.sa) (reg s f.sb) (word code) 0) c n f.dst
        (word (trapWr (s.ctx x).trapwr)) 0))
    ∧ (s.ringBase x ≠ 0 → (s.ringRoom x = false ∨ (s.ctx x).trapQ ≠ []) → ∃ t, exec (.sysc f) s = .next t ∧ Waits s t .sysc)
    ∧ (∀ cause, s.ringBase x ≠ 0 → s.ringRoom x = true → (s.ctx x).trapQ = [] → s.trapHeld x = some (some cause) →
      ∃ t, exec (.sysc f) s = .next t ∧ Waits s t .translation)
    ∧ (s.ringBase x = 0 → trapLost (s.ctx x).trapwr < 0xFFFF →
      ∃ t, exec (.sysc f) s = .next t ∧ trapLost (t.ctx x).trapwr = trapLost (s.ctx x).trapwr + 1
        ∧ trapWr (t.ctx x).trapwr = trapWr (s.ctx x).trapwr ∧ t.hbm = s.hbm)

/-- R408, R419: TLBI leaves in no translation unit a translation that it names: of a context, of one page of a context, or of every context; others
stay; and the page table that PTB names is in force for accesses of the contexts it names. -/
def Sys2Proof.Claims.TlbiDropsTheTranslationsItNames : Prop :=
  ∀ (s : State) (f : XForm),
    let x := (f.ctl.setWidth 4).toNat
    let kind := (f.ctl.extractLsb' 4 2).toNat
    Settled s 4 →
    ∃ t, exec (.tlbi f) s = .next t ∧ WentOn s t
      ∧ (∀ y, y < 16 → (t.ctx y).ptbUse = if kind = 2 ∨ y = x then fld (s.ctx y).ptb 0 52 else (s.ctx y).ptbUse)
      ∧ ∀ v, v ∈ t.tlb ↔ v ∈ s.tlb ∧ ¬ (kind = 2 ∨ (v.ctx = x ∧ (kind = 0 ∨ (reg s f.sa).toNat / 2 ^ lvlShift v.lvl = v.base)))

/-- R428: DIGEST writes the 64-byte SHA-512 digest of the bytes that SA and SC name to the place that SB names, and goes on. -/
def Sys2Proof.Claims.DigestWritesTheHashOfItsBytes : Prop :=
  ∀ (s : State) (f : XForm) (k off k2 off2 : Nat) (e : List Word),
    let c := s.here.1
    let n := s.here.2
    let r := reg s f.sa
    let d := reg s f.sb
    let len := (reg s f.sc).toNat
    let bad (q : Word) : Stop := .trap 0x2C (word (fld q 52 12)) (word (fld q 0 52))
    f.ctl.setWidth 2 = 0 → len ≤ 2 ^ 32 →
    sideRef (bad d) c d 64 [1, 2] true s = .ok (.sp k off, s) → off % 8 = 0 →
    sideRef (bad r) c r len [1, 2] false s = .ok (.sp k2 off2, s) → handle (.fixed (bad r)) c (fld r 52 12) (fld r 0 52) s = .ok (e, s) →
    s.spPoisoned k2 off2 len = false →
    exec (.digest f) s = .next (wentOn (s.spWrite k off (Sha.sha512 (s.spRead k2 off2 len))) c n 0)

/-- R424, R426, R220, R135: a soft error that ECC corrects is counted; one that it does not marks what it strikes, a register among them, and keeps its bits; an
instruction that reads a poisoned register ends its firing with error 0x41 (DEDUCED, log 50); the first firing of a poisoned element is fault 0x23. -/
def Sys2Proof.Claims.SoftErrorsMeetTheirReaders : Prop :=
  (∀ (s : State) (rest : List Move), s.power = .on → s.agenda = .softError none :: rest →
    step s = .next { s.nextMove.2 with corrected := s.corrected + 1 })
  ∧ (∀ (s : State) (rest : List Move) (c n r : Nat) (o : Owner), s.power = .on → s.agenda = .softError (some (.register c n r)) :: rest →
    (s.core c).own = some o → (s.slot c n).status ≠ .absent → r < 32 →
    ∃ t, step s = .next t ∧ r ∈ (t.slot c n).poisoned ∧ (t.slot c n).regs = (s.slot c n).regs)
  ∧ (∀ (s : State) (c n r : Nat) (rest : List Move) (i : Instr),
    let u := s.nextMove.2.redoCore c
    s.power = .on → s.agenda = .actor c :: rest →
    (u.core c).running = some n → u.firingLive c = true → (u.slot c n).status = .firing →
    u.nextInstr c n = .ok i → u.awaited c n i = none → r ∈ regReads (u.slot c n) i → r ∈ (u.slot c n).poisoned →
    ∃ t, step s = .next t ∧ (t.slot c n).status = .idle ∧ (t.core c).running = none ∧ (t.slot c n).regs = (u.slot c n).regs
      ∧ (t.launch (u.own c).launch).failed = (u.launch (u.own c).launch).failed)
  ∧ ∀ (s : State) (c p : Nat) (rest : List Move) (k : Launch), s.power = .on → s.agenda = .element c p :: rest → s.pageLive c = true →
    mget s.launches (s.own c).launch = some k → s.nextMove.2.pickDiscard c p = none →
    (s.elem c p).spoiled = true → s.nextMove.2.firesNext c p = true →
    ∃ t, step s = .next t ∧ (t.launch (s.own c).launch).failed = k.failed.or (some (6, 0x23)) ∧ t.elem c p = s.elem c p

/-- R417, R420, R421, R422, R423, R424, R434: the supervisor's and the hardware's own events: a fault response takes the record it answers away; a reassignment
sets the owners of its pages and leaves them marked zero, with no translation or cached line of them; a key load is remembered; a context
reset leaves the context no launch, image, queue or reach request; a throttle slows the clock one step of fifteen; a thermal trip halts
and leaves nothing of the state but the fuses. -/
def Obligations.SupervisorAndHardwareEvents : Prop :=
  Sys2Proof.Claims.SoftErrorsMeetTheirReaders
  ∧ (∀ (s : State) (v : Word), s.hsMode = true → NothingWaits s → v &&& ~~~ listedBits 0x84 = 0 → fld v 48 1 = 0 → (∃ f ∈ s.xfaults, f.ord = fld v 0 48 ∧ f.held = false) →
      ∃ t, exec (.faultResponse v) s = .next t ∧ ∀ f ∈ t.xfaults, f.ord ≠ fld v 0 48)
  ∧ (∀ (s : State) (v : Word), s.hsMode = true → s.pzBusy = none → v &&& ~~~ 0x1F_FFFF_FFFF = 0 →
      exec (.reassign v) s = .next { s with pzBusy := some (fld s.pzaddr 16 30, v) })
  ∧ (∀ (s : State) (first : Nat) (v : Word), NothingWaits s → s.pzBusy = some (first, v) →
      ∃ t, exec .reassignDone s = .next t ∧ t.pzBusy = none
        ∧ (∀ p, first ≤ p → p < first + fld v 0 32 →
            mget t.owners p = (if fld v 36 1 = 1 then none else some (fld v 32 4))
            ∧ ∀ a key, a / 65536 = p → t.homeByte key a = 0)
        ∧ (∀ p, p < first ∨ first + fld v 0 32 ≤ p → mget t.owners p = mget s.owners p
            ∧ ∀ a key, a / 65536 = p → t.homeByte key a = s.homeByte key a)
        ∧ (∀ c l, first ≤ l / 1024 → l / 1024 < first + fld v 0 32 → mget (t.core c).l1 l = none))
  ∧ (∀ (s : State) (entry : Nat) (key : List Byte), entry < 64 → ∃ t, exec (.keyLoad entry key) s = .next t
      ∧ mgetD t.keyTab entry [] = key :: mgetD s.keyTab entry []
      ∧ (∀ j, j ≠ entry → mget t.keyTab j = mget s.keyTab j) ∧ t = { s with keyTab := t.keyTab })
  ∧ (∀ (s : State) (x : Nat) (v : Word), s.hsMode = true → x < 16 → fld v 0 1 = 0 → v &&& ~~~ listedBits 0 = 0 → fld (s.ctx x).ctl 0 1 = 1 →
      ∃ t, exec (.contextReset x v) s = .next t ∧ (t.ctx x).ctl = v ∧ (t.ctx x).queues = [] ∧ (∀ k ∈ t.images, k.2.ctx ≠ x)
        ∧ (∀ r ∈ t.reach, r.2.ctx ≠ x))
  ∧ (∀ (s : State) (line : Nat), ∃ t, exec (.scrub line) s = .next t
      ∧ (Config.freeError s.tick line = 1 → t = { s with corrected := s.corrected + 1 })
      ∧ (Config.freeError s.tick line = 0 → t = s))
  ∧ (∀ s : State, exec .throttle s = .next { s with throttle := min 15 (s.throttle + 1) }
      ∧ exec .thermalTrip s = .next { power := .tripped, fuse := s.fuse, agenda := s.agenda, tick := s.tick })
  ∧ (∀ (s : State) (nonce : List Byte), nonce.length = 64 →
      ∃ m sig, exec (.attestationReport nonce) s = .next (s.send (.report m sig)) ∧ m.take 64 = nonce)

/-- R432: bring-up with firmware whose key has the fused hash and whose signature verifies turns the package on with every line marked zero and the pod
address set, and the supervisor acts if it was verified; with other firmware the package stays in reset. -/
def Sys2Proof.Claims.BringUpTurnsOn : Prop :=
  ∀ (s : State) (b : BringUp), s.power = .off →
    let verified : Prop := Sha.sha512 b.fwKey = s.fuse ∧ Ed25519.verify b.fwKey b.firmware b.fwSig = true
    (verified → ∃ t, exec (.bringUp b) s = .next t ∧ t.power = .on ∧ (∀ key a, t.homeByte key a = 0)
      ∧ t.poda = word (b.pod % 512) ∧ t.hsMode = b.svOk ∧ t.fwMeas = Sha.sha512 b.firmware ∧ t.cores = s.cores ∧ t.ctxs = s.ctxs)
    ∧ (¬ verified → exec (.bringUp b) s = .next { s with power := .heldInReset })

/-! ### Elements: how tokens leave, arrive and are consumed -/

namespace Sys2Proof.Claims
open Sys2Proof.Machine

/-- The element at a position may act: its page is live, it awaits no answer, nothing waits to leave, and no parked effect is
decided. -/
def Acts (s : State) (c p : Nat) : Prop :=
  s.cur = .elem c p ∧ s.pageLive c = true ∧ (s.elem c p).xwait = none ∧ (s.elem c p).outQ = [] ∧ (s.elem c p).got = none
    ∧ (s.elem c p).due = false ∧ ∀ x ∈ (s.elem c p).settle.head?, x.decided = false
/-- The heads of the logical ports of a firing, ports a and b exchanged with SW. -/
def Heads (s : State) (c p : Nat) (sw : Bool) (ports : List Nat) (hs : List (Nat × Slotted)) : Prop :=
  hs.map (·.1) = ports ∧ ∀ h ∈ hs, s.headAt c p (physPort sw h.1) = some h.2
/-- Are all heads data: val, crd or ref? -/
def AllData (hs : List (Nat × Slotted)) : Prop := ∀ h ∈ hs, h.2.tok.kind = .val ∨ h.2.tok.kind = .crd ∨ h.2.tok.kind = .ref
/-- Under POL "require equal", heads of nonzero sets carry one set (R132). -/
def SetsAgree (e : Elem) (hs : List (Nat × Slotted)) : Prop :=
  e.pol = 2 → ∀ h ∈ hs, ∀ k ∈ hs, h.2.tok.set ≠ 0 → k.2.tok.set ≠ 0 → h.2.tok.set = k.2.tok.set
/-- The heads are consumed, each once. -/
def eaten (t : State) (c p : Nat) (sw : Bool) (hs : List (Nat × Slotted)) : State :=
  t.modElem c p fun e => (hs.map fun h => physPort sw h.1).foldl Elem.take e
/-- Flags are recorded at the element under its FMSK. -/
def flagged (t : State) (c p : Nat) (fl : BitVec 4) : State :=
  t.modElem c p fun e => { e with flags := e.flags ||| (fl &&& ~~~ e.fmsk) }
/-- Tokens on x and y, on those of the two that the element drives. -/
def sentOn (s : State) (c p : Nat) (x y : Option Token) : State :=
  let put (o : Nat) (k : Option Token) (t : State) : State :=
    match k with
    | some k => if (s.elem c p).outs.contains o then t.emit c p o k else t
    | none => t
  put 1 y (put 0 x s)
/-- Has every output that the element drives room for what is sent on it? -/
def OutRoom (s : State) (c p : Nat) (x y : Option Token) : Prop :=
  let ctl (k : Option Token) : Bool := match k with | some k => k.isCtl | none => false
  (0 ∈ (s.elem c p).outs → s.canEmit c p 0 (ctl x) = true) ∧ (1 ∈ (s.elem c p).outs → s.canEmit c p 1 (ctl y) = true)
/-- An effect parked in the settle buffer. -/
def parked (t : State) (c p : Nat) (x : Parked) : State := t.modElem c p fun e => { e with settle := e.settle ++ [x] }

end Sys2Proof.Claims

/-- R25, R37, R133: an element's outputs leave together when every output that it drives has room; at a commit point they are
parked instead, with a commit request for their set unless it is set 0 or the last that was sealed there (DEDUCED from R37: one
request serves a run of effects of one sealed set). -/
def Sys2Proof.Claims.OutputsLeaveTogetherOrAreParked : Prop :=
  ∀ (s : State) (c p : Nat) (set : BitVec 24) (x y : Option Token),
    let e := s.elem c p
    (e.cmt = false → OutRoom s c p x y → sendOut c p set x y s = .ok ((), sentOn s c p x y))
    ∧ (e.cmt = false → ¬ OutRoom s c p x y → sendOut c p set x y s = .error (.wait { kind := .bank }))
    ∧ (e.cmt = true → 32 ≤ e.settle.length → sendOut c p set x y s = .error (.wait { kind := .bank }))
    ∧ (e.cmt = true → e.settle.length < 32 → set = 0 →
        sendOut c p set x y s = .ok ((), parked s c p { set := 0, eff := .emit x y }))
    ∧ (e.cmt = true → e.settle.length < 32 → set ≠ 0 → set = e.lastSealed →
        sendOut c p set x y s = .ok ((), parked s c p { set := set, ans := some false, eff := .emit x y }))
    ∧ (e.cmt = true → e.settle.length < 32 → set ≠ 0 → set ≠ e.lastSealed →
        let q := s.askCommit c set (.settle c p)
        sendOut c p set x y s = .ok ((), parked q.1 c p { set := set, req := some q.2, eff := .emit x y })
        ∧ ∃ r, mget q.1.dreqs q.2 = some r ∧ r.kind = .commit ∧ r.set = set ∧ r.src = .settle c p)

/-- R24, R26, R23: a token that arrives at an unranked port joins the end of its buffer and nothing else of the machine changes, but
that an arriving eos removes a resident whose sticky count is 15, outside a step of its element (DEDUCED, log 34); a head is consumed
once, or stays resident as its sticky count says. -/
def Sys2Proof.Claims.TokensQueueInOrderAndHeadsAreConsumedOnce : Prop :=
  (∀ (s : State) (c p r : Nat) (k : Token), r < 3 → (s.elem c p).ranked r = false →
    let t := s.arrive (c, p, r) k
    ((t.elem c p).port r).q = ((s.elem c p).port r).q ++ [{ tok := k, ord := ((s.elem c p).port r).seen }]
    ∧ ((t.elem c p).port r).res
        = (if k.kind = .eos ∧ (s.elem c p).inStep = false then ((s.elem c p).port r).res.filter fun x => x.2.isSome else ((s.elem c p).port r).res)
    ∧ (∀ q, q ≠ r → (t.elem c p).port q = (s.elem c p).port q)
    ∧ (∀ q, q ≠ p → t.elem c q = s.elem c q) ∧ (∀ d, d ≠ c → t.core d = s.core d) ∧ t = { s with cores := t.cores })
  ∧ (∀ (p : Port) (x : Slotted) (rest : List Slotted) (stk : Nat), p.q = x :: rest →
    (p.res = none → p.head = some x ∧ (stk = 0 ∨ (stk = 15 ∧ ∃ y ∈ p.q, y.tok.kind = .eos) → p.take stk = ({ p with q := rest }, true)))
    ∧ (p.res = none → (∀ y ∈ p.q, y.tok.kind ≠ .eos) → stk = 15 → p.take stk = ({ p with q := rest, res := some (x, none) }, true))
    ∧ (p.res = none → 0 < stk → stk < 15 → p.take stk = ({ p with q := rest, res := some (x, some stk) }, true)))
  ∧ ∀ (p : Port) (x : Slotted) (n stk : Nat),
    (p.res = some (x, some (n + 2)) → p.head = some x ∧ (p.take stk).1 = { p with res := some (x, some (n + 1)) })
    ∧ (p.res = some (x, some 1) → p.head = some x ∧ (p.take stk).1 = { p with res := none })
    ∧ (p.res = some (x, none) → (∀ y ∈ p.q, y.tok.kind ≠ .eos) → p.head = some x ∧ (p.take stk).1 = p)

/-! ### Elements: the common firing rule -/

namespace Sys2Proof.Claims
open Sys2Proof.Machine

/-- The ports that a lane operation uses with a port for its index k under DYN. -/
def withIndex (e : Elem) (base : List Nat) (port : Nat) : List Nat := if bitAt e.mode 0 then base ++ [port] else base
/-- The element operations of the common firing rule: their modifiers and the ports that they use. -/
def commonRow (e : Elem) : Instr → Option (EMod × List Nat)
  | .iadd m | .isub m | .imul m | .imin m | .imax m | .andElement m | .orElement m | .xorElement m | .shlElement m | .shrElement m
  | .sarElement m | .icmp m | .faddElement m | .fsubElement m | .fmulElement m | .fminElement m | .fmaxElement m | .fcmpElement m
  | .fcpys m | .fldx m | .pack m | .shuf m | .lmask m => some (m, [0, 1])
  | .imad m | .ffmaElement m | .selElement m => some (m, [0, 1, 2])
  | .iabs m | .not m | .fabs m | .fneg m | .fclassElement m | .fexp m | .cvtElement m | .unpack m | .lred m => some (m, [0])
  | .bcast m | .lext m | .rot m => some (m, withIndex e [0] 1)
  | .lins m => some (m, withIndex e [0, 1] 2)
  | .cmpf m => some (m, if bitAt e.mode 1 then [0, 1, 2] else [0, 1])
  | _ => none
/-- A firing that met poison gives poison: the machine-check code of the lowest-lettered poison head, and the header that POL and
RSRC give (R132). -/
def poisoned (e : Elem) (hs : List (Nat × Slotted)) (x : Slotted) : Token :=
  let h := e.headerOf (tokensOf hs) 0
  { width := e.ow, worth := h.2, set := h.1, kind := .poison, pay := BitVec.ofNat 512 (x.tok.num % 65536) }
/-- The record of an element fault about a head, and the team's stop. -/
def faulted (s : State) (c p code port : Nat) (x : Slotted) : State :=
  s.elemFault c p code 0 x.tok.header (s.elem c p).op x.ord port 0 0

end Sys2Proof.Claims

/-- R131, R132, R133, R135, R390: under the common firing rule, one control token at every channel head passes to every driven
output, and the eos of an armed element is followed by its swap, once every earlier parked effect is decided;
control tokens that differ, or that meet data, are fault 0x22; sets that clash are fault 0x21; poison gives poison, and at a
commit point fault 0x23. A fault consumes nothing. -/
def Obligations.CommonRuleForControlTokensPoisonAndClashes : Prop :=
  ∀ (s t : State) (c p : Nat) (i : Instr) (m : EMod) (ports : List Nat) (hs : List (Nat × Slotted)),
    let e := s.elem c p
    let sw := m.sw == 1
    let chan := hs.filter fun h => !e.isReg (physPort sw h.1)
    commonRow e i = some (m, ports) → Acts s c p → Heads s c p sw ports hs →
    (∀ k : Token, chan ≠ [] → (∀ h ∈ chan, h.2.tok.kind = k.kind ∧ h.2.tok.lvl = k.lvl) → (∀ h ∈ chan.head?, h.2.tok = k) →
      k.isCtl = true → (e.cmt = true → ∀ h ∈ hs, h.2.tok.kind ≠ .poison) →
      (k.kind ≠ .eos → sendOut c p 0 (some k) (some k) s = .ok ((), t) → exec i s = .next (eaten t c p sw chan))
      ∧ (k.kind = .eos → e.armed = false → sendOut c p 0 (some k) (some k) s = .ok ((), t) →
          exec i s = .next ((eaten t c p sw chan).modElem c p fun e => { e with holds := true }))
      ∧ (k.kind = .eos → e.armed = true → e.settle = [] → OutRoom s c p (some k) (some k) →
          exec i s = .next ((eaten (sentOn s c p (some k) (some k)) c p sw chan).swapAt c p))
      ∧ (k.kind = .eos → e.armed = true → e.settle ≠ [] → exec i s = .next s))
    ∧ ((∃ h ∈ chan, h.2.tok.isCtl = true) → (e.cmt = true → ∀ h ∈ hs, h.2.tok.kind ≠ .poison) →
        (¬ ∀ h ∈ chan, ∀ g ∈ chan, h.2.tok.kind = g.2.tok.kind ∧ h.2.tok.lvl = g.2.tok.lvl) →
        ∃ h ∈ chan, exec i s = .next (faulted s c p 0x22 (physPort sw h.1) h.2))
    ∧ ((∀ h ∈ hs, h.2.tok.isCtl = false) → (e.cmt = true → ∀ h ∈ hs, h.2.tok.kind ≠ .poison) → ¬ SetsAgree e hs →
        ∃ h ∈ hs, h.2.tok.set ≠ 0 ∧ exec i s = .next (faulted s c p 0x21 (physPort sw h.1) h.2))
    ∧ (∀ x, e.cmt = true → hs.find? (fun h => h.2.tok.isPoison) = some x →
        exec i s = .next (faulted s c p 0x23 (physPort sw x.1) x.2))
    ∧ (∀ x, e.cmt = false → (∀ h ∈ hs, h.2.tok.isCtl = false) → SetsAgree e hs →
        (∀ n, i = .cmpf n → e.lf ≠ 3 → ∀ y z, (0, y) ∈ hs → (1, z) ∈ hs → z.tok.set = 0 ∨ z.tok.set = y.tok.set) →
        hs.find? (fun h => h.2.tok.isPoison) = some x →
        sendOut c p (poisoned e hs x.2).set (some (poisoned e hs x.2)) (some (poisoned e hs x.2)) s = .ok ((), t) →
        exec i s = .next (eaten t c p sw hs))

/-- R54, R132: the set of a built token follows POL, and its worth RSRC. -/
def Sys2Proof.Claims.HeadersFollowPolAndRsrc : Prop :=
  ∀ (e : Elem) (hs : List (Nat × Token)) (lane0 : Nat),
    let at_ (i : Nat) : Option Token := (hs.find? (·.1 == i)).map (·.2)
    let h := e.headerOf hs lane0
    (∀ a, e.pol = 0 → at_ 0 = some a → h.1 = a.set ∧ (e.rsrc = 0 → h.2 = a.worth))
    ∧ (∀ b, e.pol = 1 → at_ 1 = some b → h.1 = b.set ∧ (e.rsrc = 0 → h.2 = b.worth))
    ∧ (∀ x, e.pol = 2 → hs.find? (fun h => h.2.set != 0) = some x → h.1 = x.2.set ∧ (e.rsrc = 0 → h.2 = x.2.worth))
    ∧ (∀ a, e.pol = 2 → (∀ g ∈ hs, g.2.set = 0) → at_ 0 = some a → h.1 = 0 ∧ (e.rsrc = 0 → h.2 = a.worth))
    ∧ (e.pol = 3 → h.1 = 0 ∧ (e.rsrc = 0 → h.2 = 0))
    ∧ (e.rsrc = 1 → h.2 = BitVec.ofNat 16 (lane0 / 65536)) ∧ (e.rsrc = 2 → h.2 = BitVec.ofNat 16 (e.k 3))
    ∧ (∀ b, e.rsrc = 3 → at_ 1 = some b → h.2 = b.pay.setWidth 16)

/-! ### Elements: lane-wise operations -/

namespace Sys2Proof.Claims
open Sys2Proof.Machine

/-- Width of an element type in bits. -/
def tyBits (ty : Nat) : Nat := if ty = 2 ∨ ty = 5 then 16 else if ty = 3 then 8 else if ty = 6 then 64 else 32
/-- Lanes and lane width of a lane form; LF 3 is the scalar form. -/
def lanesFor (lf : Nat) : Nat := if lf = 0 then 16 else if lf = 1 then 32 else if lf = 2 then 64 else 1
def laneBits (lf ty : Nat) : Nat := if lf = 0 then 32 else if lf = 1 then 16 else if lf = 2 then 8 else tyBits ty
/-- Lane i that a token supplies: a vector's own lane, or the low bits of a 32-bit or 64-bit input (R129). -/
def laneAt (e : Elem) (ty : Nat) (t : Token) (i : Nat) : Nat :=
  if e.lf ≠ 3 ∧ t.width = 2 then (t.pay >>> (laneBits e.lf ty * i)).toNat % 2 ^ laneBits e.lf ty
  else t.pay.toNat % 2 ^ laneBits e.lf ty
def lanesAt (e : Elem) (ty : Nat) (t : Token) : List Nat := (List.range (lanesFor e.lf)).map (laneAt e ty t)
/-- The payload of result lanes of a width: packed, or a scalar extended to OW (R129). -/
def laid (e : Elem) (signed : Bool) (w : Nat) (ls : List Nat) : BitVec 512 :=
  if e.lf = 3 then
    (if signed then ((BitVec.ofNat w (ls.headD 0)).signExtend (if e.ow = 0 then 32 else if e.ow = 1 then 64 else 512)).setWidth 512
     else BitVec.ofNat 512 (ls.headD 0 % 2 ^ w))
  else BitVec.ofNat 512 (packLanes w ls)
/-- The token of result lanes. -/
def resultTok (e : Elem) (hs : List (Nat × Slotted)) (kind : TKind) (signed : Bool) (w : Nat) (ls : List Nat) : Token :=
  let h := e.headerOf (tokensOf hs) (ls.headD 0 % 2 ^ w)
  { width := e.ow, worth := h.2, set := h.1, kind := kind, pay := laid e signed w ls }
/-- A firing on data heads: the result token leaves, the heads are consumed, and the flags are recorded. -/
def Fires (s : State) (c p : Nat) (i : Instr) (sw : Bool) (hs : List (Nat × Slotted)) (k : Token) (fl : BitVec 4) : Prop :=
  ∀ t, sendOut c p k.set (some k) none s = .ok ((), t) → exec i s = .next (flagged (eaten t c p sw hs) c p fl)
/-- Heads of a data firing of a row. -/
def DataFiring (s : State) (c p : Nat) (sw : Bool) (ports : List Nat) (hs : List (Nat × Slotted)) : Prop :=
  Acts s c p ∧ Heads s c p sw ports hs ∧ AllData hs ∧ SetsAgree (s.elem c p) hs
def headOf (hs : List (Nat × Slotted)) (n : Nat) : Token := (((hs.find? (·.1 == n)).map (·.2.tok)).getD {})
def kindAt (hs : List (Nat × Slotted)) : TKind := (headOf hs 0).kind

/-- A lane-wise operation: what each lane gives from the lanes of a, b and c. -/
structure LaneOp where
  m : EMod
  ports : List Nat
  f : Nat → Nat → Nat → Nat × BitVec 4
  signed : Bool
  kind : Option TKind := none
/-- An exact integer result as its code, with overflow when a saturated result was clamped. -/
def fitCode (ty : Nat) (sat : Bool) (x : Int) : Nat × BitVec 4 :=
  ((BitVec.ofInt (intWidth ty) (fitted ty sat x)).toNat, satFlag ty sat x)
/-- A lane read as an operand of an integer type. -/
def laneInt (ty a : Nat) : Int := operand ty (BitVec.ofNat 64 a)
def laneVec (ty a : Nat) : BitVec (intWidth ty) := BitVec.ofNat (intWidth ty) a
/-- The conditions SUB of ICMP. -/
def cond (sub : Nat) (a b : Int) : Bool :=
  match sub with
  | 0 => a == b
  | 1 => a != b
  | 2 => a < b
  | 3 => a ≤ b
  | 4 => b < a
  | _ => b ≤ a

/-- The integer operations of R136, from exact arithmetic on the lanes. -/
def intRow : Instr → Option LaneOp
  | .iadd m => exact2 m fun a b => a + b
  | .isub m => exact2 m fun a b => a - b
  | .imul m => exact2 m fun a b => a * b
  | .imad m => let ty := m.ty.toNat
               some { m := m, ports := [0, 1, 2], signed := ty ≠ 1
                      f := fun a b d => fitCode ty (m.sat == 1) (laneInt ty a * laneInt ty b + laneInt ty d) }
  | .imin m => plain2 m fun ty a b => (BitVec.ofInt (intWidth ty) (min (laneInt ty a) (laneInt ty b))).toNat
  | .imax m => plain2 m fun ty a b => (BitVec.ofInt (intWidth ty) (max (laneInt ty a) (laneInt ty b))).toNat
  | .iabs m => let ty := m.ty.toNat
               some { m := m, ports := [0], signed := ty ≠ 1
                      f := fun a _ _ => fitCode ty (m.sat == 1) ((laneInt ty a).natAbs : Int) }
  | .andElement m => plain2 m fun ty a b => (laneVec ty a &&& laneVec ty b).toNat
  | .orElement m => plain2 m fun ty a b => (laneVec ty a ||| laneVec ty b).toNat
  | .xorElement m => plain2 m fun ty a b => (laneVec ty a ^^^ laneVec ty b).toNat
  | .not m => let ty := m.ty.toNat
              some { m := m, ports := [0], signed := ty ≠ 1, f := fun a _ _ => ((~~~ laneVec ty a).toNat, 0) }
  | .shlElement m => plain2 m fun ty a n => (laneVec ty a <<< n).toNat
  | .shrElement m => plain2 m fun ty a n => (laneVec ty a >>> n).toNat
  | .sarElement m => plain2 m fun ty a n => ((laneVec ty a).sshiftRight n).toNat
  | .icmp m => plain2 m fun ty a b => if cond m.sub.toNat (laneInt ty a) (laneInt ty b) then 1 else 0
  | _ => none
where
  exact2 (m : EMod) (g : Int → Int → Int) : Option LaneOp :=
    let ty := m.ty.toNat
    some { m := m, ports := [0, 1], signed := ty ≠ 1, f := fun a b _ => fitCode ty (m.sat == 1) (g (laneInt ty a) (laneInt ty b)) }
  plain2 (m : EMod) (g : Nat → Nat → Nat → Nat) : Option LaneOp :=
    let ty := m.ty.toNat
    some { m := m, ports := [0, 1], signed := ty ≠ 1, f := fun a b _ => (g ty a b, 0) }
/-- A float row: flags only where its entry records them. -/
def fltRow (rnd : Nat) : Instr → Option LaneOp
  | .faddElement m => two m (fun a b => fAdd m.ty.toNat rnd a b) none
  | .fsubElement m => two m (fun a b => fSub m.ty.toNat rnd a b) none
  | .fmulElement m => two m (fun a b => fMul m.ty.toNat rnd a b) none
  | .ffmaElement m => some { m := m, ports := [0, 1, 2], signed := false, f := fun a b d => fFma m.ty.toNat rnd a b d }
  | .fminElement m => two m (fun a b => (fMin m.ty.toNat a b, 0)) none
  | .fmaxElement m => two m (fun a b => (fMax m.ty.toNat a b, 0)) none
  | .fabs m => one m (fun a => (canon m.ty.toNat a a (a % signOf m.ty.toNat), 0)) none
  | .fneg m => one m (fun a => (canon m.ty.toNat a a (Nat.xor a (signOf m.ty.toNat)), 0)) none
  | .fcpys m =>
      two m (fun a b => let g := signOf m.ty.toNat; (canon m.ty.toNat a b (a % g + b / g % 2 * g), 0)) none
  | .fcmpElement m => two m (fun a b => fCmp m.ty.toNat m.sub.toNat a b) (some .val)
  | .fclassElement m => one m (fun a => (fClass m.ty.toNat a, 0)) (some .val)
  | .fldx m => two m (fun a b => fLdx m.ty.toNat rnd a b) none
  | .fexp m => some { m := m, ports := [0], signed := m.sub.toNat % 2 = 1, f := fun a _ _ => (fExp m.ty.toNat m.sub.toNat a, 0) }
  | _ => none
where
  signOf (ty : Nat) : Nat := 2 ^ (tyBits ty - 1)
  /-- A NaN operand gives the canonical NaN (R103). -/
  canon (ty a b r : Nat) : Nat :=
    if ((tyFmt ty).decode a).isNan || ((tyFmt ty).decode b).isNan then (if ty = 5 then 0x7FC0 else 0x7FC00000) else r % 2 ^ tyBits ty
  two (m : EMod) (g : Nat → Nat → Nat × BitVec 4) (kind : Option TKind) : Option LaneOp :=
    some { m := m, ports := [0, 1], signed := false, kind := kind, f := fun a b _ => g a b }
  one (m : EMod) (g : Nat → Nat × BitVec 4) (kind : Option TKind) : Option LaneOp :=
    some { m := m, ports := [0], signed := false, kind := kind, f := fun a _ _ => g a }

/-- Lanes and flags of a lane-wise firing. -/
def LaneOp.lanes (r : LaneOp) (e : Elem) (hs : List (Nat × Slotted)) : List (Nat × BitVec 4) :=
  let l (n i : Nat) : Nat := laneAt e r.m.ty.toNat (headOf hs n) i
  let has (n : Nat) : Bool := r.ports.contains n
  (List.range (lanesFor e.lf)).map fun i =>
    r.f (l 0 i) (if has 1 then l 1 i else 0) (if has 2 then l 2 i else 0)
/-- A lane-wise operation fires: its result leaves, its heads are consumed, its flags are recorded. -/
def LaneFires (s : State) (c p : Nat) (i : Instr) (r : LaneOp) : Prop :=
  ∀ hs, DataFiring s c p (r.m.sw == 1) r.ports hs →
    let e := s.elem c p
    let ls := r.lanes e hs
    Fires s c p i (r.m.sw == 1) hs
      (resultTok e hs (r.kind.getD (kindAt hs)) r.signed (laneBits e.lf r.m.ty.toNat) (ls.map (·.1)))
      ((ls.map (·.2)).foldl (· ||| ·) 0)

end Sys2Proof.Claims

/-- R129, R136: the integer element operations, lane by lane: exact, then wrapped or saturated, with overflow when a lane was
clamped and no other flag. -/
def Sys2Proof.Claims.IntegerElementsFireOnEveryLane : Prop :=
  ∀ (s : State) (c p : Nat) (i : Instr) (r : LaneOp), intRow i = some r → IntTy r.m.ty → LaneFires s c p i r

/-- R129, R137 to R140: the float element operations, lane by lane, each rounded once in the element's RND mode; those that R137
gives no flag record none, and a NaN operand gives the canonical NaN. -/
def Sys2Proof.Claims.FloatElementsFireOnEveryLane : Prop :=
  ∀ (s : State) (c p : Nat) (i : Instr) (r : LaneOp), fltRow (s.elem c p).rnd i = some r → r.m.ty = 4 ∨ r.m.ty = 5 →
    LaneFires s c p i r

/-! ### Elements: selection, conversion and lane moves -/

namespace Sys2Proof.Claims
open Sys2Proof.Machine

/-- A lane move under LF 0 to 2: the ports it uses and its result lanes from the lanes of a, b and c. -/
structure MoveOp where
  m : EMod
  ports : List Nat
  /-- the port whose lane 0 gives the lane index k under DYN -/
  index : Nat := 0
  f : (k : Nat) → (a b c : List Nat) → List Nat

def moveRow (e : Elem) : Instr → Option MoveOp
  | .selElement m => some { m := m, ports := [0, 1, 2], f := fun _ a b d => (a.zip (b.zip d)).map fun x => if x.2.2 = 0 then x.2.1 else x.1 }
  | .shuf m => some { m := m, ports := [0, 1], f := fun _ a b _ => b.map fun n => a.getD (n % lanesFor e.lf) 0 }
  | .bcast m => some { m := m, ports := withIndex e [0] 1, index := 1, f := fun k a _ _ => List.replicate (lanesFor e.lf) (a.getD k 0) }
  | .lext m => some { m := m, ports := withIndex e [0] 1, index := 1
                      f := fun k a _ _ => a.getD k 0 :: List.replicate (lanesFor e.lf - 1) 0 }
  | .lins m => some { m := m, ports := withIndex e [0, 1] 2, index := 2, f := fun k a b _ => a.set k (b.getD 0 0) }
  | .rot m => some { m := m, ports := withIndex e [0] 1, index := 1
                     f := fun k a _ _ => (List.range (lanesFor e.lf)).map fun i => a.getD ((i + k) % lanesFor e.lf) 0 }
  | _ => none
/-- The lane index k of R145. -/
def laneIndex (e : Elem) (ty port : Nat) (hs : List (Nat × Slotted)) : Nat :=
  (if bitAt e.mode 0 ∧ port ≠ 0 then laneAt e ty (headOf hs port) 0 else e.k 0) % 64 % lanesFor e.lf

end Sys2Proof.Claims

/-- R142, R145: SEL and the lane moves, bit for bit and with no flag; LMASK takes its mask from b[63:0] and k1. -/
def Sys2Proof.Claims.SelectAndLaneMovesMoveLanesBitForBit : Prop :=
  ∀ (s : State) (c p : Nat) (hs : List (Nat × Slotted)),
    let e := s.elem c p
    (∀ i r, moveRow e i = some r → e.lf ≠ 3 ∨ (∃ m, i = .selElement m) → DataFiring s c p (r.m.sw == 1) r.ports hs →
      let ty := r.m.ty.toNat
      let l (n : Nat) : List Nat := lanesAt e ty (headOf hs n)
      let signed := (∃ m, i = .selElement m) ∧ ty ≠ 1 ∧ ty ≠ 4 ∧ ty ≠ 5
      ∀ b : Bool, (b = true ↔ signed) →
        Fires s c p i (r.m.sw == 1) hs
          (resultTok e hs (kindAt hs) b (laneBits e.lf ty) (r.f (laneIndex e ty r.index hs) (l 0) (l 1) (l 2))) 0)
    ∧ ∀ m : EMod, e.lf ≠ 3 → DataFiring s c p (m.sw == 1) [0, 1] hs →
        let ty := m.ty.toNat
        Fires s c p (.lmask m) (m.sw == 1) hs
          (resultTok e hs (kindAt hs) false (laneBits e.lf ty)
            ((List.range (lanesFor e.lf)).map fun i =>
              if (headOf hs 1).pay.getLsbD i then laneAt e ty (headOf hs 0) i else e.k 1 % 2 ^ laneBits e.lf ty)) 0

namespace Sys2Proof.Claims
open Sys2Proof.Machine

/-- One level of the tree of R125, and the whole tree over a power of two of lanes. -/
def pairs (op : Nat → Nat → Nat × BitVec 4) : List Nat → List (Nat × BitVec 4)
  | a :: b :: r => op a b :: pairs op r
  | _ => []
def tree (op : Nat → Nat → Nat × BitVec 4) : Nat → List Nat → Nat × BitVec 4
  | 0, l => (l.getD 0 0, 0)
  | n + 1, l =>
    let r := pairs op l
    let t := tree op n (r.map (·.1))
    (t.1, (r.map (·.2)).foldl (· ||| ·) t.2)
/-- The combination of SUB in LRED, LSCAN, ACC and REDUCE: 0 add, 1 min, 2 max, 3 and, 4 or, 5 xor. -/
def combine (ty rnd : Nat) (sat : Bool) (sub a b : Nat) : Nat × BitVec 4 :=
  let v (x : Nat) : BitVec (intWidth ty) := laneVec ty x
  if ty = 4 ∨ ty = 5 then (if sub = 0 then fAdd ty rnd a b else if sub = 1 then (fMin ty a b, 0) else (fMax ty a b, 0))
  else if sub = 0 then fitCode ty sat (laneInt ty a + laneInt ty b)
  else if sub = 1 then ((BitVec.ofInt (intWidth ty) (min (laneInt ty a) (laneInt ty b))).toNat, 0)
  else if sub = 2 then ((BitVec.ofInt (intWidth ty) (max (laneInt ty a) (laneInt ty b))).toNat, 0)
  else if sub = 3 then ((v a &&& v b).toNat, 0) else if sub = 4 then ((v a ||| v b).toNat, 0) else ((v a ^^^ v b).toNat, 0)
/-- The inclusive values of a scan from a carry-in, with the flags of their steps. -/
def steps (op : Nat → Nat → Nat × BitVec 4) (z : Nat) : List Nat → List (Nat × BitVec 4)
  | [] => []
  | a :: r => op z a :: steps op (op z a).1 r
def allFlags (fs : List (BitVec 4)) : BitVec 4 := fs.foldl (· ||| ·) 0
/-- A candidate pair of CMPF: score and index. -/
def beats (ty sub : Nat) (exc : Option Nat) (a b : Nat) : Bool :=
  let score (x : Nat) : Num := if exc = some (x / 2 ^ 32 % 2 ^ 32) then .nan else (tyFmt ty).decode (x % 2 ^ tyBits ty)
  let index := decide (a / 2 ^ 32 % 2 ^ 32 ≤ b / 2 ^ 32 % 2 ^ 32)
  match (score a).isNan, (score b).isNan with
  | true, true => index
  | true, false => false
  | false, true => true
  | false, false =>
    if (score a).eq (score b) then index else (if sub = 0 then (score b).lt (score a) else (score a).lt (score b))

end Sys2Proof.Claims

/-- R141, R143, R144, R146: CMPF forwards the winner's token, and the loser's, as 64-bit pairs, and refuses in its vector form a set of b
that is neither 0 nor a's, poison or not; CVT, PACK and UNPACK convert each lane once; LRED combines
in the tree of R125 and LSCAN one step at a time from its carry-in. -/
def Sys2Proof.Claims.ConversionsFoldsAndTournaments : Prop :=
  ∀ (s : State) (c p : Nat) (m : EMod) (hs : List (Nat × Slotted)),
    let e := s.elem c p
    let ty := m.ty.toNat
    let sw := m.sw == 1
    let a := lanesAt e ty (headOf hs 0)
    let op := combine ty e.rnd (m.sat == 1) m.sub.toNat
    let df := e.mode % 16
    let scale := if bitAt e.mode 8 then some (e.k 0 % 256) else none
    let sf := if e.mode / 16 % 16 = 0 then tyCode ty else e.mode / 16 % 16
    let code (ty : Nat) : Nat := tyCode ty
    let pair (k : Token) : Token := { k with width := 1, pay := BitVec.ofNat 512 (k.pay.toNat % 2 ^ 64) }
    let ports := if bitAt e.mode 1 then [0, 1, 2] else [0, 1]
    (∀ y z, Acts s c p → Heads s c p sw ports hs → e.lf ≠ 3 → e.cmt = false → (∀ h ∈ hs, h.2.tok.isCtl = false) → SetsAgree e hs →
      (0, y) ∈ hs → (1, z) ∈ hs → z.tok.set ≠ 0 → z.tok.set ≠ y.tok.set →
      exec (.cmpf m) s = .next (faulted s c p 0x21 (physPort sw 1) z))
    ∧ (∀ t w l, DataFiring s c p sw ports hs → e.lf = 3 →
      let exc := if bitAt e.mode 1 then some ((headOf hs 2).pay.toNat % 2 ^ 32) else none
      (if beats ty m.sub.toNat exc (headOf hs 0).pay.toNat (headOf hs 1).pay.toNat then (w, l) = (headOf hs 0, headOf hs 1)
       else (w, l) = (headOf hs 1, headOf hs 0)) →
      sendOut c p w.set (some (pair w)) (some (pair l)) s = .ok ((), t) → exec (.cmpf m) s = .next (eaten t c p sw hs))
    ∧ (DataFiring s c p sw [0] hs →
        let lanes := if e.lf = 3 then 1 else 512 / fmtW df
        let n := min a.length lanes
        let rs := (List.range n).map fun j => convert sf df e.rnd (m.sat == 1) scale (a.getD (e.mode / 512 % 4 * n + j) 0)
        Fires s c p (.cvtElement m) sw hs
          (resultTok e hs (kindAt hs) (fmtSigned df) (fmtW df) (rs.map (·.1) ++ List.replicate (lanes - n) 0)) (allFlags (rs.map (·.2))))
    ∧ (DataFiring s c p sw [0, 1] hs → e.lf ≠ 3 → ty = 0 ∨ ty = 2 ∨ ty = 4 →
        let dest := if ty = 0 then 9 else if ty = 2 then 7 else 2
        let rs := (a ++ lanesAt e ty (headOf hs 1)).map fun v => convert (code ty) dest e.rnd (m.sat == 1) none v
        Fires s c p (.pack m) sw hs (resultTok e hs (kindAt hs) false (fmtW dest) (rs.map (·.1))) (allFlags (rs.map (·.2))))
    ∧ (DataFiring s c p sw [0] hs → e.lf ≠ 3 → ty = 2 ∨ ty = 3 ∨ ty = 5 →
        let dest := if ty = 2 then 10 else if ty = 3 then 9 else 1
        let half := lanesFor e.lf / 2
        let rs := ((a.drop (e.mode % 2 * half)).take half).map fun v => (convert (code ty) dest 0 false none v).1
        Fires s c p (.unpack m) sw hs (resultTok e hs (kindAt hs) false (fmtW dest) rs) 0)
    ∧ (DataFiring s c p sw [0] hs → e.lf ≠ 3 →
        let r := tree op (Nat.log2 (lanesFor e.lf)) a
        Fires s c p (.lred m) sw hs
          (resultTok e hs (kindAt hs) false (laneBits e.lf ty)
            (if bitAt e.mode 0 then List.replicate (lanesFor e.lf) r.1 else r.1 :: List.replicate (lanesFor e.lf - 1) 0)) r.2)
    ∧ (∀ t x, Acts s c p → e.isReg 0 = false → e.cmt = false → s.headAt c p 0 = some x → x.tok.kind = .stop ∨ x.tok.kind = .done →
        m.sw = 0 → sendOut c p 0 (some x.tok) (some x.tok) s = .ok ((), t) →
        exec (.lscan m) s = .next ((eaten t c p false [(0, x)]).modElem c p fun e => { e with carry := none }))
    ∧ ∀ t, DataFiring s c p sw [0] hs → e.lf ≠ 3 →
        let z := if bitAt e.mode 1 then e.carry.getD (e.k 0 % 2 ^ laneBits e.lf ty) else e.k 0 % 2 ^ laneBits e.lf ty
        let rs := steps op z a
        let out := if bitAt e.mode 0 then z :: (rs.map (·.1)).dropLast else rs.map (·.1)
        let k := resultTok e hs (kindAt hs) false (laneBits e.lf ty) out
        sendOut c p k.set (some k) none s = .ok ((), t) →
        exec (.lscan m) s = .next ((flagged (eaten t c p sw hs) c p (allFlags (rs.map (·.2)))).modElem c p fun e =>
          { e with carry := (rs.map (·.1)).getLast? })

/-! ### Elements: parked effects, sources, runs and accumulators -/

namespace Sys2Proof.Claims
open Sys2Proof.Machine

/-- An effect is parked for a set: decided for set 0, answered for the last set sealed there, else with a commit request. -/
def Parks (s : State) (c p : Nat) (set : BitVec 24) (eff : Eff) (t : State) : Prop :=
  let e := s.elem c p
  e.settle.length < 32
  ∧ (set = 0 → t = parked s c p { set := 0, eff := eff })
  ∧ (set ≠ 0 → set = e.lastSealed → t = parked s c p { set := set, ans := some false, eff := eff })
  ∧ (set ≠ 0 → set ≠ e.lastSealed →
      let q := s.askCommit c set (.settle c p)
      t = parked q.1 c p { set := set, req := some q.2, eff := eff })
/-- The oldest effect of the settle buffer, decided and not QUENCHED, may be performed. -/
def Performs (s : State) (c p : Nat) (eff : Eff) (rest : List Parked) : Prop :=
  s.cur = .elem c p ∧ s.pageLive c = true ∧ (s.elem c p).xwait = none ∧ (s.elem c p).outQ = [] ∧ (s.elem c p).got = none
    ∧ ∃ x, (s.elem c p).settle = x :: rest ∧ x.eff = eff ∧ x.decided = true ∧ x.quenched = false
/-- The effect that has been performed leaves the settle buffer. -/
def settled (t : State) (c p : Nat) : State := t.modElem c p fun e => { e with settle := e.settle.drop 1 }
/-- Operations whose parked effects are not the emission of their outputs. -/
def ownEffects : List Nat := [0x43, 0x56, 0x57, 0x86, 0x8C, 0xA2, 0xA3, 0xA4, 0xA5, 0xB5]
/-- The head of the one input of an element. -/
def HeadIs (s : State) (c p : Nat) (x : Slotted) : Prop := Acts s c p ∧ s.headAt c p 0 = some x
/-- One head is consumed. -/
def ate (t : State) (c p : Nat) : State := t.modElem c p fun e => e.take 0
/-- The lanes of CNT's and AFF's tokens: base + j·step from index j, those from the end on zero, computed in TY. -/
def seq (e : Elem) (ty : Nat) (base step : Int) (j left : Nat) : List Nat :=
  (List.range (lanesFor e.lf)).map fun i => if i < left then (BitVec.ofInt (intWidth ty) (base + ((j + i : Nat) : Int) * step)).toNat else 0
/-- A constant register read as a signed number. -/
def kInt (e : Elem) (i : Nat) : Int := (BitVec.ofNat 64 (e.k i)).toInt
/-- The accumulator's lanes, q0 in each before the first fold, and the lanes after a fold. -/
def accLanes (e : Elem) (ty : Nat) : List Nat :=
  (List.range (lanesFor e.lf)).map fun i =>
    (if e.accSet then (e.acc >>> (laneBits e.lf ty * i)).toNat else e.q0.toNat) % 2 ^ laneBits e.lf ty
def foldLanes (e : Elem) (ty rnd sub : Nat) (k : Token) : List (Nat × BitVec 4) :=
  ((accLanes e ty).zip (lanesAt e ty k)).map fun x => combine ty rnd false sub x.1 x.2
/-- The element after a fold. -/
def folded (e : Elem) (ty rnd sub : Nat) (k : Token) : Elem :=
  let r := foldLanes e ty rnd sub k
  { e with acc := BitVec.ofNat 512 (packLanes (laneBits e.lf ty) (r.map (·.1))), accSet := true, folds := e.folds + 1
           flags := e.flags ||| (allFlags (r.map (·.2)) &&& ~~~ e.fmsk) }
/-- A total: set 0, and worth by RSRC. -/
def totalTok (e : Elem) (ty : Nat) : Token :=
  { resultTok e [] .val (ty ≠ 1 && ty ≠ 4 && ty ≠ 5) (laneBits e.lf ty) (accLanes e ty) with set := 0 }

end Sys2Proof.Claims

/-- R25, R37, R167: what waits to leave leaves first; then the oldest effect of the settle buffer, once it is decided: it is
discarded when its set is QUENCHED, else performed. -/
def Sys2Proof.Claims.ParkedEffectsHappenInOrder : Prop :=
  ∀ (s : State) (c p : Nat) (i : Instr) (v : BitVec 19) (a b : Option Token) (x : Parked) (rest : List Parked),
    let e := s.elem c p
    encodeElem i = some v → s.cur = .elem c p → s.pageLive c = true → e.xwait = none →
    (∀ r, e.outQ = (a, b) :: r → e.op ≠ 0xA6 → (∀ k ∈ a, s.canEmit c p 0 k.isCtl = true) → b = none →
      exec i s = .next ((match a with | some k => s.emit c p 0 k | none => s).modElem c p fun e => { e with outQ := r }))
    ∧ (e.outQ = [] → e.got = none → e.settle = x :: rest → x.decided = true → x.quenched = true → e.op ≠ 0xA2 →
        exec i s = .next (settled s c p))
    ∧ (Performs s c p (.emit a b) rest → e.op ∉ ownEffects → OutRoom s c p a b →
        exec i s = .next (settled (sentOn s c p a b) c p))

/-- R147, R148, R149, R151: CNT, and CONST with SRC, emit their values in order and then eos once; AFF emits a run for each base
and consumes the base with the last value; DELAY passes its tokens through a line of d. -/
def Sys2Proof.Claims.SourcesRunsAndDelays : Prop :=
  ∀ (s t : State) (c p : Nat) (m : EMod) (x : Slotted),
    let e := s.elem c p
    let ty := m.ty.toNat
    let n := lanesFor e.lf
    let w := laneBits e.lf ty
    let signed := ty ≠ 1 && ty ≠ 4 && ty ≠ 5
    let j := e.q0.toInt
    let left := (max 0 (kInt e 2) - j).toNat
    let source := Acts s c p ∧ s.sourcesRun c = true ∧ e.fin = 0
    let cnt := resultTok e [] .val signed w (seq e ty (kInt e 0 + j * kInt e 1) (kInt e 1) 0 left)
    let con := resultTok e [] .val signed w (List.replicate n (e.k 0 % 2 ^ w))
    let eos : Token := { kind := .eos }
    let ended (t : State) : State := t.modElem c p fun e => { e with fin := 2, ending := false, holds := true }
    let aff := resultTok e [(0, x)] x.tok.kind signed w (seq e ty (operand ty (x.tok.pay.setWidth 64) + j * kInt e 1) (kInt e 1) 0 left)
    (IntTy m.ty → source → e.ending = false → j < max 0 (kInt e 2) → sendOut c p cnt.set (some cnt) none s = .ok ((), t) →
      exec (.cnt m) s = .next ((flagged t c p 0).modElem c p fun e => { e with q0 := BitVec.ofInt 64 (j + (min n left : Nat)) }))
    ∧ (source → e.armed = false → (e.ending = true ∨ max 0 (kInt e 2) ≤ j) → sendOut c p 0 (some eos) (some eos) s = .ok ((), t) →
        exec (.cnt m) s = .next (ended t))
    ∧ (source → bitAt e.mode 0 = true → e.ending = false → j < max 0 (kInt e 1) → sendOut c p con.set (some con) none s = .ok ((), t) →
        exec (.const m) s = .next ((flagged t c p 0).modElem c p fun e => { e with q0 := e.q0 + 1 }))
    ∧ (source → bitAt e.mode 0 = true → e.armed = false → (e.ending = true ∨ max 0 (kInt e 1) ≤ j) →
        sendOut c p 0 (some eos) (some eos) s = .ok ((), t) → exec (.const m) s = .next (ended t))
    ∧ (HeadIs s c p x → bitAt e.mode 0 = false → x.tok.isData = true → m.sw = 0 →
        let k := resultTok e [(0, x)] .val signed w (List.replicate n (e.k 0 % 2 ^ w))
        sendOut c p k.set (some k) none s = .ok ((), t) →
        exec (.const m) s = .next (flagged (ate t c p) c p 0))
    ∧ (IntTy m.ty → HeadIs s c p x → e.last = false → x.tok.isData = true → 0 < left →
        sendOut c p aff.set (some aff) none s = .ok ((), t) →
        (n < left → exec (.aff m) s = .next (t.modElem c p fun e => { e with q0 := BitVec.ofInt 64 (j + n) }))
        ∧ (left ≤ n → exec (.aff m) s = .next ((ate t c p).modElem c p fun e => { e with q0 := word (e.wide 8), last := bitAt e.mode 0 })))
    ∧ (HeadIs s c p x → e.last = false → x.tok.isData = true → left = 0 → bitAt e.mode 0 = false →
        exec (.aff m) s = .next ((ate s c p).modElem c p fun e => { e with q0 := word (e.wide 8) }))
    ∧ (Acts s c p → e.last = true → sendOut c p 0 (some { kind := .stop }) none s = .ok ((), t) →
        exec (.aff m) s = .next (t.modElem c p fun e => { e with last := false }))
    ∧ (HeadIs s c p x → e.last = false → bitAt e.mode 0 = true → x.tok.kind = .stop →
        (x.tok.lvl = 6 → exec (.aff m) s = .next (faulted s c p 0x24 0 x))
        ∧ (x.tok.lvl ≠ 6 → sendOut c p 0 (some { kind := .stop, lvl := x.tok.lvl + 1 }) none s = .ok ((), t) →
            exec (.aff m) s = .next (ate t c p)))
    ∧ ∀ k r, HeadIs s c p x → e.filled = true → x.tok.kind ≠ .eos → (e.cmt = true → x.tok.kind ≠ .poison) →
        (e.line = k :: r → sendOut c p k.set (some k) none s = .ok ((), t) →
          exec (.delay m) s = .next ((ate t c p).modElem c p fun e => { e with line := r ++ [x.tok], filled := true }))
        ∧ (e.line = [] → sendOut c p x.tok.set (some x.tok) none s = .ok ((), t) → exec (.delay m) s = .next (ate t c p))

/-- R150, R205: ACC and REDUCE park a fold for each head, apply the folds in stream order once they are decided, and send their
totals as EMIT and KLVL say. -/
def Sys2Proof.Claims.AccumulatorsFoldDecidedHeadsInOrder : Prop :=
  ∀ (s t : State) (c p : Nat) (m : EMod) (x : Slotted) (k : Token) (rest : List Parked),
    let e := s.elem c p
    let e' := folded e e.ty e.rnd e.sub k
    let reset (t : State) : State := t.modElem c p fun e => { e with acc := 0, accSet := false, folds := 0 }
    let out (t : State) (k : Token) (later : List Token) : State :=
      (sentOn t c p (some k) none).modElem c p fun e => { e with outQ := later.map fun q => (some q, none) }
    let stop (j : Nat) : Token := { kind := .stop, lvl := j }
    let kl := e.mode % 8
    (HeadIs s c p x → x.tok.isData = true → Parks s c p x.tok.set (.fold x.tok) t → exec (.acc m) s = .next (ate t c p))
    ∧ (HeadIs s c p x → x.tok.kind = .poison → exec (.acc m) s = .next (faulted s c p 0x23 0 x))
    ∧ (Performs s c p (.fold k) rest → e.op = 0x43 → e.mode % 4 ≠ 0 →
        exec (.acc m) s = .next (settled (s.modElem c p fun e => folded e e.ty e.rnd e.sub k) c p))
    ∧ (Performs s c p (.fold k) rest → e.op = 0x43 → e.mode % 4 = 0 → OutRoom s c p (some (totalTok e' e.ty)) none →
        exec (.acc m) s = .next (settled ((sentOn s c p (some (totalTok e' e.ty)) none).modElem c p fun e => folded e e.ty e.rnd e.sub k) c p))
    ∧ (Performs s c p (.ctl x) rest → e.op = 0x43 → e.mode % 4 = 1 → x.tok.kind = .stop → OutRoom s c p (some (totalTok e e.ty)) none →
        exec (.acc m) s = .next (settled (reset (out s (totalTok e e.ty) (if x.tok.lvl = 0 then [] else [stop (x.tok.lvl - 1)]))) c p))
    ∧ (∀ mods, Performs s c p (.fold k) rest → e.op = 0x86 →
        exec (.reduce mods) s = .next (settled (s.modElem c p fun e => folded e e.ty e.rnd e.sub k) c p))
    ∧ ∀ mods, Performs s c p (.ctl x) rest → e.op = 0x86 → x.tok.kind = .stop →
        (x.tok.lvl < kl → exec (.reduce mods) s = .next (settled s c p))
        ∧ (kl ≤ x.tok.lvl → OutRoom s c p (some (totalTok e e.ty)) none →
            exec (.reduce mods) s = .next (settled (reset (out s (totalTok e e.ty)
              (if x.tok.lvl = kl then [] else [stop (x.tok.lvl - kl - 1)]))) c p))

/-! ### Channel operations and the declaration of sets -/

/-- R183: FORK, JOIN, STEER, FILTER and GATE. -/
def Sys2Proof.Claims.ForkJoinSteerFilterAndGateRouteTheirTokens : Prop :=
  ∀ (s t : State) (c p : Nat) (m : EMod) (hs : List (Nat × Slotted)),
    let e := s.elem c p
    let sw := m.sw == 1
    let a := headOf hs 0
    let b := headOf hs 1
    let w := tyBits m.ty.toNat
    let stamped (k : Token) (lane : Nat) : Token := { k with set := (e.headerOf (tokensOf hs) lane).1, worth := (e.headerOf (tokensOf hs) lane).2 }
    let chosen : Bool := (b.pay.toNat % 2 ^ w != 0) != bitAt e.mode 0
    let both := DataFiring s c p sw [0, 1] hs
    let q := e.q0.toInt
    (∀ x, m.sw = 0 → e.isReg 0 = false → DataFiring s c p false [0] hs → hs = [(0, x)] → e.cmt = false →
      OutRoom s c p (some a) (some (stamped a (a.pay.toNat % 2 ^ 32))) →
      exec (.fork m) s = .next (eaten (sentOn s c p (some a) (some (stamped a (a.pay.toNat % 2 ^ 32)))) c p false hs))
    ∧ (both → sendOut c p (stamped a (a.pay.toNat % 2 ^ 32)).set (some (stamped a (a.pay.toNat % 2 ^ 32)))
          (some (stamped b (a.pay.toNat % 2 ^ 32))) s = .ok ((), t) →
        exec (.join m) s = .next (eaten t c p sw hs))
    ∧ (both → chosen = true → OutRoom s c p (some a) none →
        exec (.steer m) s = .next (eaten (sentOn s c p (some a) none) c p sw hs)
        ∧ exec (.filter m) s = .next (eaten (sentOn s c p (some a) none) c p sw hs))
    ∧ (both → chosen = false → OutRoom s c p none (some a) → exec (.steer m) s = .next (eaten (sentOn s c p none (some a)) c p sw hs))
    ∧ (both → chosen = false → OutRoom s c p none none → exec (.filter m) s = .next (eaten s c p sw hs))
    ∧ (∀ x, Acts s c p → s.headAt c p (physPort sw 0) = some x → (e.armed = true → e.last = false) → x.tok.isCtl = false → 0 < q →
        OutRoom s c p (some x.tok) none →
        exec (.gate m) s = .next ((eaten (sentOn s c p (some x.tok) none) c p sw [(0, x)]).modElem c p fun e => { e with q0 := e.q0 - 1 }))
    ∧ ∀ y, Acts s c p → s.headAt c p (physPort sw 1) = some y → e.armed = false → y.tok.isData = true →
        (e.isReg (physPort sw 1) = true → e.q0 ≠ BitVec.ofInt 64 (min (2 ^ 32 - 1) (e.q0.toInt + ((y.tok.pay.toNat % 2 ^ w : Nat) : Int)))) →
        (s.headAt c p (physPort sw 0) = none ∨ (q ≤ 0 ∧ ∀ x, s.headAt c p (physPort sw 0) = some x → x.tok.isCtl = false)) →
        exec (.gate m) s = .next ((eaten s c p sw [(1, y)]).modElem c p fun e =>
          { e with q0 := BitVec.ofInt 64 (min (2 ^ 32 - 1) (e.q0.toInt + ((y.tok.pay.toNat % 2 ^ w : Nat) : Int))) })

/-- R160, R183, R176: OSNEW declares the next set of its index before it stamps its item; OSQUENCH sends a quench for the set of an
item it does not let through and OSCOMMIT a commit; what the answer decides. -/
def Sys2Proof.Claims.ElementsDeclareQuenchAndCommitSets : Prop :=
  ∀ (s : State) (c p : Nat) (m : EMod) (x : Slotted) (rest : List Parked),
    let e := s.elem c p
    let o := s.own c
    let j := e.mode % 256
    let n := (s.launch o.launch).img.ndecl
    let items := mgetD e.decls j 0
    let seqn := items * n + j
    let set : BitVec 24 := BitVec.ofNat 24 (o.share * 2 ^ 22 + seqn % (2 ^ 22 - 1) + 1)
    let die := s.dieOfShare o.launch o.share
    (HeadIs s c p x → o.share < 4 → x.tok.isData = true → x.tok.set = 0 → e.begun = false → e.declReq = none →
        s.declStall c o.share seqn = false →
        let q := s.ask { die := die, launch := o.launch, kind := .declare, set := set, s := seqn, src := .osnew c p }
        exec (.osnew m) s = .next (q.1.modElem c p fun e => { e with declReq := some q.2 }))
    ∧ (HeadIs s c p x → o.share < 4 → x.tok.isData = true → x.tok.set = 0 → e.begun = true →
        let k : Token := { x.tok with set := set, worth := (e.headerOf [(0, x.tok)] (x.tok.pay.toNat % 2 ^ 32)).2 }
        OutRoom s c p (some k) none →
        exec (.osnew m) s = .next ((ate (sentOn s c p (some k) none) c p).modElem c p fun e =>
          { e with decls := mset e.decls j (items + 1), begun := false }))
    ∧ (HeadIs s c p x → x.tok.isData = true → x.tok.set ≠ 0 → exec (.osnew m) s = .next (faulted s c p 0x25 0 x))
    ∧ (HeadIs s c p x → bitAt e.mode 0 = false → e.isReg 0 = false → x.tok.isData = true → x.tok.set ≠ 0 → e.settle.length < 32 →
        let q := s.ask { die := s.homeOf o.launch x.tok.set, launch := o.launch, kind := .quench, set := x.tok.set, src := .settle c p
                         cause := 2, worth := x.tok.worth, pset := o.pset, lpg := o.lpg, elem := p, port := 0 }
        exec (.osquench m) s = .next (ate (parked q.1 c p { set := x.tok.set, req := some q.2, eff := .pass x }) c p))
    ∧ (Performs s c p (.pass x) rest → e.op = 0x56 →
        ((s.launch o.launch).elastic = true → OutRoom s c p (some x.tok) none →
          exec (.osquench m) s = .next (settled (sentOn s c p (some x.tok) none) c p))
        ∧ ((s.launch o.launch).elastic = false → exec (.osquench m) s = .next (faulted s c p 0x26 0 x)))
    ∧ (∀ t, HeadIs s c p x → x.tok.isData = true →
        Parks s c p x.tok.set (if bitAt e.mode 0 then .emit (some x.tok) none else .nothing) t →
        exec (.oscommit m) s = .next (ate t c p))
    ∧ (∀ k, Performs s c p (.emit (some k) none) rest → e.op = 0x57 → OutRoom s c p (some k) none →
        exec (.oscommit m) s = .next (settled (sentOn s c p (some k) none) c p))

/-! ### Fibre elements -/

namespace Sys2Proof.Claims
open Sys2Proof.Machine

/-- A head at a channel port of a fibre element that breaks no rule of its stream (R193). -/
def FibHead (s : State) (c p r : Nat) (x : Slotted) : Prop :=
  let e := s.elem c p
  s.headAt c p r = some x ∧ e.isReg r = false ∧ e.headFault r x.tok = none
/-- A fibre element may act on its channel ports. -/
def FibActs (s : State) (c p : Nat) : Prop := Acts s c p ∧ (s.elem c p).rooted = false ∧ ((s.elem c p).begun = false → (s.elem c p).prog = 0)
/-- After firing k of a step of `count` firings: the step goes on, or its heads are consumed and it leaves what `post` says. -/
def stepped (t : State) (c p : Nat) (heads : List (Nat × Slotted)) (count k : Nat) (post : Elem → Elem) : State :=
  if k + 1 < count then t.modElem c p fun e => { e with prog := k + 1, begun := true }
  else (t.modElem c p fun e => heads.foldl Elem.eat e).modElem c p fun e => { post e with prog := 0, begun := false }
/-- The set that a firing's outputs wait for at a commit point. -/
def outSet (x y : Option Token) : BitVec 24 :=
  match x.or y with
  | some k => if k.isCtl then 0 else k.set
  | none => 0
/-- A row runs a step: one pair of tokens a firing, in order; a step that emits nothing consumes its heads (R197). -/
def StepRuns (s : State) (c p : Nat) (i : Instr) (os : List (Option Token × Option Token)) (heads : List (Nat × Slotted))
    (post : Elem → Elem) : Prop :=
  let k := (s.elem c p).prog
  (os = [] → exec i s = .next (stepped s c p heads 0 k post))
  ∧ ∀ x y t, os[k]? = some (x, y) → sendOut c p (outSet x y) x y s = .ok ((), t) → exec i s = .next (stepped t c p heads os.length k post)
/-- A token that a fibre element builds from heads (R132). -/
def builtTok (e : Elem) (kind : TKind) (width pay : Nat) (hs : List (Nat × Slotted)) : Token :=
  let h := e.headerOf (tokensOf hs) (pay % 2 ^ 32)
  { width := width, worth := h.2, set := h.1, kind := kind, pay := BitVec.ofNat 512 pay }
def low32 (k : Token) : Nat := k.pay.toNat % 2 ^ 32
def high32 (k : Token) : Nat := k.pay.toNat / 2 ^ 32 % 2 ^ 32
def pairOf (crd ref : Nat) : Nat := crd % 2 ^ 32 + ref % 2 ^ 32 * 2 ^ 32
def marker : Nat := 0xFFFFFFFF
def isDat (k : Token) : Bool := k.kind == .val || k.kind == .crd || k.kind == .ref
def s0 : Token := { kind := .stop }
def both (k : Token) : Option Token × Option Token := (some k, some k)
/-- The three scans. -/
def scanRow : Instr → Bool
  | .scanu _ | .scanc _ | .scanb _ => true
  | _ => false
/-- The fibre rows: every one looks at port a first, but that LOCATE, REPEAT and the rest go on to b. -/
def fibRow : Instr → Bool
  | .scanu _ | .scanc _ | .scanb _ | .isect _ | .union _ | .repeatEl _ | .reduce _ | .locate _ | .crddrop _ | .poppfx _ | .band _ | .bor _
  | .fwrite _ => true
  | _ => false
/-- The set bits of a word, ascending. -/
def onesOf (w : Nat) : List Nat := (List.range 64).filter fun i => w.testBit i

end Sys2Proof.Claims

/-- R193, R190, R191, R196: a head that breaks its port's stream is refused with the fault of R193, and consumes nothing. -/
def Sys2Proof.Claims.StreamsThatBreakTheirFormAreRefused : Prop :=
  (∀ (s : State) (c p : Nat) (i : Instr) (x : Slotted) (code : Nat), fibRow i = true → FibActs s c p → (s.elem c p).begun = false →
    s.headAt c p 0 = some x → (s.elem c p).isReg 0 = false → (s.elem c p).headFault 0 x.tok = some code → exec i s = .next (faulted s c p code 0 x))
  ∧ ∀ (e : Elem) (r : Nat) (k : Token),
    let n := e.wide 23 / 2 ^ (3 * r) % 8
    let prev := (e.port r).prev
    (k.kind = .stop → prev ≠ .done → n ≤ k.lvl → e.headFault r k = some 0x30)
    ∧ (k.kind = .stop → prev ≠ .done → k.lvl < n → e.headFault r k = none)
    ∧ (k.kind = .eos → (e.headFault r k = some 0x31 ↔ prev ≠ .done))
    ∧ (k.kind = .done → 0 < n → (e.headFault r k = some 0x31 ↔ prev ≠ .stop (n - 1)))
    ∧ (k.kind = .done → n = 0 → (e.headFault r k = some 0x31 ↔ prev ≠ .data))
    ∧ (k.kind ≠ .eos → k.kind ≠ .done → prev = .done → e.headFault r k = some 0x32)
    ∧ (e.op = 0x81 → isDat k = true → prev ≠ .done → (e.headFault r k = some 0x35 ↔ ¬ (k.kind = .ref ∧ k.width = 0)))
    ∧ (e.op = 0x84 → r ≤ 1 → k.kind = .crd → k.width = 1 → prev ≠ .done →
        (e.headFault r k = some 0x33 ↔ ∃ a ∈ (e.port r).lastCrd, low32 k ≤ a))

/-- R199, R190: the scans: a fibre's children under each parent reference, S0 between siblings, and each stop one level higher; the
absent marker addresses nothing (fault 0x36: the model's choice, DEDUCED, log 106). -/
def Sys2Proof.Claims.ScansGiveTheChildrenOfEachParent : Prop :=
  ∀ (s s₁ s₂ : State) (c p : Nat) (i : Instr) (mods : BitVec 11) (x : Slotted),
    let e := s.elem c p
    let v := low32 x.tok
    let hs := [(0, x)]
    let n := e.wide 18
    let sep := if e.last then [both s0] else []
    let on (e : Elem) : Elem := { e with last := true }
    let pr (e : Elem) (crd ref : Nat) : Option Token × Option Token :=
      (some (builtTok e .crd 1 (pairOf crd ref) hs), some (builtTok e .ref 0 (ref % 2 ^ 32) hs))
    FibActs s c p → FibHead s c p 0 x →
    (isDat x.tok = true → v = marker → e.begun = false → e.last = false → (i = .scanc mods ∨ (i = .scanb mods ∧ 0 < n)) →
      exec i s = .next (s.elemFault c p 0x36 0 x.tok.header e.op x.ord 0 (e.fld 15 % 4096) (word (e.wide 16))))
    ∧ (scanRow i = true → x.tok.kind = .stop →
      StepRuns s c p i [both { kind := .stop, lvl := x.tok.lvl + 1 }] hs fun e => { e with last := false })
    ∧ (scanRow i = true → x.tok.kind = .done → StepRuns s c p i (sep ++ [both { kind := .done }]) hs id)
    ∧ (isDat x.tok = true → v * n + n ≤ 0xFFFFFFFF →
        StepRuns s c p (.scanu mods) (sep ++ (List.range n).map fun i => pr e i (v * n + i)) hs on)
    ∧ (isDat x.tok = true → e.begun = true → e.last = false → ∀ crd t, e.lo + e.prog < e.hi →
        arrayRead c p 17 4 (e.lo + e.prog) s = .ok ((crd, none), s₁) → (s₁.elem c p).begun = true →
        let o := pr (s₁.elem c p) crd (e.lo + e.prog)
        sendOut c p (outSet o.1 o.2) o.1 o.2 s₁ = .ok ((), t) →
        exec (.scanc mods) s = .next (stepped t c p hs (e.hi - e.lo) e.prog on))
    ∧ (isDat x.tok = true → v ≠ marker → e.begun = false → e.last = false → ∀ lo,
        arrayRead c p 16 4 v s = .ok ((lo, none), s₁) → arrayRead c p 16 4 (v + 1) s₁ = .ok ((lo, none), s₂) →
        (s₂.elem c p).prog = 0 →
        exec (.scanc mods) s = .next (stepped (s₂.modElem c p fun e => { e with lo := lo, hi := lo }) c p hs 0 0 on))
    ∧ (isDat x.tok = true → v ≠ marker → e.begun = false → ∀ lo hi, arrayRead c p 16 4 v s = .ok ((lo, none), s₁) →
        arrayRead c p 16 4 (v + 1) s₁ = .ok ((hi, none), s₂) → hi < lo → exec (.scanc mods) s = .next (faulted s c p 0x36 0 x))
    ∧ (isDat x.tok = true → v ≠ marker → e.last = false → bitAt e.mode 1 = false → e.prog < n → ∀ b t,
        arrayRead c p 16 8 (v * n + e.prog) s = .ok ((b, none), s₁) → (s₁.elem c p).prog = e.prog →
        let x' := builtTok (s₁.elem c p) .val 1 b hs
        let y := builtTok (s₁.elem c p) .ref 0 ((v * n + e.prog) % 2 ^ 32) hs
        sendOut c p (outSet (some x') (some y)) (some x') (some y) s₁ = .ok ((), t) →
        exec (.scanb mods) s = .next (stepped t c p hs n e.prog on))

/-- R192, R200, R201: ISECT and UNION walk matched fibres by their coordinates; BAND, BOR, POPPFX and ISECT with BMP take one word
pair a step. Unmatched heads are fault 0x34. -/
def Sys2Proof.Claims.MatchedFibresAreMerged : Prop :=
  ∀ (s : State) (c p : Nat) (mods : BitVec 11) (a b : Slotted),
    let e := s.elem c p
    let hs := [(0, a), (1, b)]
    let ca := low32 a.tok
    let cb := low32 b.tok
    let same := a.tok.kind = b.tok.kind ∧ a.tok.lvl = b.tok.lvl
    let ctl (k : Token) : Prop := k.kind = .stop ∨ k.kind = .done
    let none' : Slotted := { tok := { kind := .crd, width := 1 } }
    let un (ha hb : Slotted) (m ra rb : Nat) : Option Token × Option Token :=
      (some (builtTok e .crd 1 (pairOf m ra) [(0, ha), (1, hb)]), some (builtTok e .crd 1 (pairOf m rb) [(0, ha), (1, hb)]))
    let wa := a.tok.pay.toNat % 2 ^ 64
    let wb := b.tok.pay.toNat % 2 ^ 64
    let word1 (f : Nat) : List (Option Token × Option Token) := [(some (builtTok e .val 1 f hs), none)]
    let next (e : Elem) : Elem := { e with j := e.j + 1 }
    let pop (x : Elem) : Elem := { x with j := x.j + 1, q0 := if onesOf wa = [] then x.q0 else word ((x.q0.toNat + (onesOf wa).length) % 2 ^ 32) }
    FibActs s c p → FibHead s c p 0 a → FibHead s c p 1 b →
    (e.mode = 0 → isDat a.tok = true → isDat b.tok = true →
      (ca = cb → StepRuns s c p (.isect mods) [(some a.tok, some b.tok)] hs id)
      ∧ (ca < cb → StepRuns s c p (.isect mods) [] [(0, a)] id) ∧ (cb < ca → StepRuns s c p (.isect mods) [] [(1, b)] id))
    ∧ (e.mode = 0 → isDat a.tok = true → ctl b.tok → StepRuns s c p (.isect mods) [] [(0, a)] id)
    ∧ (e.mode = 0 → ctl a.tok → isDat b.tok = true → StepRuns s c p (.isect mods) [] [(1, b)] id)
    ∧ (e.mode = 0 → ctl a.tok → same → StepRuns s c p (.isect mods) [both a.tok] hs id ∧ StepRuns s c p (.union mods) [both a.tok] hs id)
    ∧ (e.mode = 0 → ctl a.tok → ctl b.tok → ¬ same → ∀ f, f = .isect mods ∨ f = .union mods → exec f s = .next (faulted s c p 0x34 1 b))
    ∧ (isDat a.tok = true → isDat b.tok = true → SetsAgree e hs →
        (ca = cb → StepRuns s c p (.union mods) [un a b ca (high32 a.tok) (high32 b.tok)] hs id)
        ∧ (ca < cb → StepRuns s c p (.union mods) [un a none' ca (high32 a.tok) marker] [(0, a)] id)
        ∧ (cb < ca → StepRuns s c p (.union mods) [un none' b cb marker (high32 b.tok)] [(1, b)] id))
    ∧ (isDat a.tok = true → ctl b.tok → StepRuns s c p (.union mods) [un a none' ca (high32 a.tok) marker] [(0, a)] id)
    ∧ (ctl a.tok → isDat b.tok = true → StepRuns s c p (.union mods) [un none' b cb marker (high32 b.tok)] [(1, b)] id)
    ∧ (isDat a.tok = true → isDat b.tok = true → SetsAgree e hs →
        StepRuns s c p (.band mods) (word1 (Nat.land wa wb)) hs next ∧ StepRuns s c p (.bor mods) (word1 (Nat.lor wa wb)) hs next
        ∧ (e.mode = 2 → StepRuns s c p (.isect mods)
            ((onesOf (Nat.land wa wb)).map fun i => (some (builtTok e .crd 0 (64 * e.j + i) hs), none)) hs next)
        ∧ (e.mode = 0 → StepRuns s c p (.poppfx mods)
            ((onesOf wb).map fun i =>
              (some (builtTok e .ref 0 (if wa.testBit i then (e.q0.toNat + (onesOf (wa % 2 ^ i)).length) % 2 ^ 32 else marker) hs),
               some (builtTok e .crd 0 (64 * e.j + i) hs))) hs pop))
    ∧ (ctl a.tok → same → ∀ f, f = .band mods ∨ f = .bor mods ∨ (f = .poppfx mods ∧ e.mode = 0) →
        StepRuns s c p f [both a.tok] hs fun e => { e with j := 0 })

/-- R192, R202, R203, R204: REPEAT, LOCATE and CRDDROP walk a stream beside the stream one level above or below it. -/
def Sys2Proof.Claims.AlignedFibresAreWalkedTogether : Prop :=
  ∀ (s : State) (c p : Nat) (mods : BitVec 11) (a b : Slotted),
    let e := s.elem c p
    let n := e.wide 18
    let crd := low32 a.tok
    let pos := low32 b.tok * n + crd
    let dropS (e : Elem) : Elem := { e with seenF := false, pend := none }
    FibActs s c p → FibHead s c p 0 a → FibHead s c p 1 b →
    (isDat a.tok = true → isDat b.tok = true → SetsAgree e [(0, a), (1, b)] →
      StepRuns s c p (.repeatEl mods) [(some (builtTok e .ref 0 (low32 a.tok) [(0, a), (1, b)]), none)] [(1, b)] id
      ∧ (e.mode = 3 ∨ e.mode = 2 → crd < n → StepRuns s c p (.locate mods)
          [(some a.tok, some (builtTok e .ref 0 (pos % 2 ^ 32) [(0, a), (1, b)]))] [(0, a)] id)
      ∧ (e.mode = 2 → n ≤ crd → StepRuns s c p (.locate mods) [(some a.tok, some (builtTok e .ref 0 marker [(0, a), (1, b)]))] [(0, a)] id)
      ∧ (e.mode = 3 → n ≤ crd → StepRuns s c p (.locate mods) [] [(0, a)] id))
    ∧ (isDat b.tok = true → e.seenF = true → StepRuns s c p (.crddrop mods) [(none, some b.tok)] [(1, b)] id)
    ∧ (isDat a.tok = true → isDat b.tok = true → e.seenF = false → e.pend = none →
        StepRuns s c p (.crddrop mods) [(some a.tok, some b.tok)] [(0, a), (1, b)] fun e => { e with seenF := true, pend := none })
    ∧ (∀ k, isDat a.tok = true → isDat b.tok = true → e.seenF = false → e.pend = some k →
        StepRuns s c p (.crddrop mods) [(some a.tok, some k), (none, some b.tok)] [(0, a), (1, b)]
          fun e => { e with seenF := true, pend := none })
    ∧ (b.tok.kind = .stop → b.tok.lvl = 0 →
        (isDat a.tok = true → e.last = false → StepRuns s c p (.repeatEl mods) [(some b.tok, none)] [(1, b), (0, a)] id)
        ∧ (e.seenF = true → StepRuns s c p (.crddrop mods) [] [(1, b)] fun e => { e with seenF := false, pend := some s0 })
        ∧ (isDat a.tok = true → e.seenF = false → StepRuns s c p (.crddrop mods) [] [(0, a), (1, b)] id))
    ∧ (b.tok.kind = .stop → 0 < b.tok.lvl →
        (isDat a.tok = true → e.last = false → exec (.repeatEl mods) s = .next ((s.modElem c p fun e => e.eat (0, a)).modElem c p fun e => { e with last := true }))
        ∧ (e.last = true → a.tok.kind = .stop → a.tok.lvl + 1 = b.tok.lvl →
            StepRuns s c p (.repeatEl mods) [(some b.tok, none)] [(1, b), (0, a)] fun e => { e with last := false })
        ∧ (e.seenF = true → a.tok.kind = .stop → a.tok.lvl + 1 = b.tok.lvl →
            StepRuns s c p (.crddrop mods) [(some { kind := .stop, lvl := b.tok.lvl - 1 }, some b.tok)] [(1, b), (0, a)]
              fun e => { dropS e with last := false })
        ∧ (e.last = true → a.tok.kind = .stop → a.tok.lvl + 1 ≠ b.tok.lvl → exec (.repeatEl mods) s = .next (faulted s c p 0x34 0 a)))
    ∧ (a.tok.kind = .stop → a.tok.lvl = 0 → isDat b.tok = true → e.last = false → StepRuns s c p (.locate mods) [both a.tok] [(0, a), (1, b)] id)
    ∧ (a.tok.kind = .done → b.tok.kind = .done →
        StepRuns s c p (.repeatEl mods) [(some b.tok, none)] [(1, b), (0, a)] id ∧ StepRuns s c p (.locate mods) [both a.tok] [(0, a), (1, b)] id
        ∧ StepRuns s c p (.crddrop mods) ((match e.pend with | some k => [(none, some k)] | none => []) ++ [both b.tok]) [(1, b), (0, a)] dropS)

/-- R205, R206: REDUCE and FWRITE park each data head; FWRITE's stores keep its arrays packed, end each fibre with its offset and
end with the counts. -/
def Obligations.FibreCommitPointsParkAndStore : Prop :=
  ∀ (s t u : State) (c p : Nat) (mods : BitVec 11) (x : Slotted) (rest : List Parked),
    let e := s.elem c p
    let eat (t : State) : State := t.modElem c p fun e => e.eat (0, x)
    let vals := bitAt e.mode 0
    (FibActs s c p → FibHead s c p 0 x → isDat x.tok = true → Parks s c p x.tok.set (.fold x.tok) t → exec (.reduce mods) s = .next (eat t))
    ∧ (FibActs s c p → FibHead s c p 0 x → isDat x.tok = true → e.seenF = true → e.lo ≠ 0 → ∀ s', s' = s.modElem c p (fun e => { e with seenF := true, lo := e.lo }) →
        Parks s' c p x.tok.set (.fwrite x) t → exec (.fwrite mods) s = .next (eat t))
    ∧ (Performs s c p (.fwrite x) rest → e.op = 0x8C → vals = false → arrayWrite c p 17 4 e.p true (low32 x.tok) s = .ok ((), t) →
        exec (.fwrite mods) s = .next (settled (t.modElem c p fun e => { e with p := e.p + 1 }) c p))
    ∧ (Performs s c p (.fwrite x) rest → e.op = 0x8C → vals = true → x.tok.width < 3 →
        arrayWrite c p 17 (if x.tok.width = 0 then 4 else if x.tok.width = 1 then 8 else 64) e.p false x.tok.pay.toNat s = .ok ((), t) →
        exec (.fwrite mods) s = .next (settled (t.modElem c p fun e => { e with p := e.p + 1 }) c p))
    ∧ (Performs s c p (.ctl x) rest → e.op = 0x8C → x.tok.kind = .stop → vals = false → arrayWrite c p 16 4 (e.f + 1) true e.p s = .ok ((), t) →
        exec (.fwrite mods) s = .next (settled (t.modElem c p fun e => { e with f := e.f + 1 }) c p))
    ∧ (Performs s c p (.ctl x) rest → e.op = 0x8C → x.tok.kind = .done → arrayWrite c p 19 4 0 true e.p s = .ok ((), t) →
        arrayWrite c p 19 4 1 true e.f t = .ok ((), u) → exec (.fwrite mods) s = .next (settled u c p))

/-! ### Stream elements and the ports of copies and of the matrix -/

namespace Sys2Proof.Claims
open Sys2Proof.Machine

/-- A configured field read as a signed element count (R225). -/
def countOf (e : Elem) (f : Nat) : Int := (BitVec.ofNat 64 (e.wide f)).toInt
/-- Element index of step i of a traversal: off + i0·st0 + i1·st1 + i2·st2, innermost first (R226). -/
def stepIndex (e : Elem) (i : Nat) : Int :=
  let c0 := e.wide 18
  let c1 := max (e.wide 20) 1
  countOf e 16 + ((i % c0 : Nat) : Int) * countOf e 17 + ((i / c0 % c1 : Nat) : Int) * countOf e 19
    + ((i / c0 / c1 : Nat) : Int) * countOf e 21
def stepCount (e : Elem) : Nat := e.wide 18 * max (e.wide 20) 1 * max (e.wide 22) 1
/-- The index that a token names: the reference of a pair, or the low 32 bits; and where it leads: off + idx·st0 (R226). -/
def tokenIndex (k : Token) : Nat := if k.kind = .crd ∧ k.width = 1 then high32 k else low32 k
def tokenPlace (e : Elem) (k : Token) : Int := countOf e 16 + ((tokenIndex k : Nat) : Int) * countOf e 17
/-- The token of loaded values (R226, R443): kind val, whatever caused it. -/
def loadedTok (e : Elem) (h : BitVec 24 × BitVec 16) (vs : List Nat) : Token :=
  { width := e.ow, worth := h.2, set := h.1, pay := laid e (tySigned e.ty) (laneBits e.lf e.ty) vs }
/-- The handle entry of a stream element names sp or hbm, and the element is not a full/empty one. -/
def Plain (e : Elem) (ent : List Word) : Prop := hSpace ent ≤ 2 ∧ e.few = false
/-- A store of n elements from the lanes of a token, one after the other, and the flags of their conversions. -/
def storeLanesAt (c : Nat) (e : Elem) (ent : List Word) (idx : Int) (k : Token) : M Flags :=
  (List.range (lanesFor e.lf)).foldlM (fun (fl : Flags) j => do
    let f ← storeElem c e.hnd ent e.ty (idx + ((j : Nat) : Int)) ((lanesAt e e.ty k).getD j 0)
    pure (fl ||| f)) 0
/-- The value that ATOM leaves, from the old value, the operand and the compare value (R244, R245). -/
def atomVal (ty sub old v cmp : Nat) : Nat × BitVec 4 :=
  let bv (x : Nat) : BitVec (tyBits ty) := BitVec.ofNat (tyBits ty) x
  let flt := ty = 4 ∨ ty = 5
  match sub with
  | 0 => if flt then fAdd ty 0 old v else ((bv old + bv v).toNat, 0)
  | 1 => ((bv old &&& bv v).toNat, 0)
  | 2 => ((bv old ||| bv v).toNat, 0)
  | 3 => ((bv old ^^^ bv v).toNat, 0)
  | 4 => if flt then (fMin ty old v, 0) else ((if laneInt ty v < laneInt ty old then bv v else bv old).toNat, 0)
  | 5 => if flt then (fMax ty old v, 0) else ((if laneInt ty old < laneInt ty v then bv v else bv old).toNat, 0)
  | 6 => ((bv v).toNat, 0)
  | _ => ((if bv old = bv cmp then bv v else bv old).toNat, 0)
/-- A control token waits behind the element's stores (R226): it is parked. -/
def isControl (k : Token) : Prop := k.kind = .stop ∨ k.kind = .done

end Sys2Proof.Claims

/-- R226, R443: LDA loads the element of each step of its traversal, follows each run of dimension 0 with its stop under STOPS, and
ends with D and eos; LDI loads the element that each index names, and gives zeros for the absent marker. -/
def Sys2Proof.Claims.LoadElementsWalkTheirTraversals : Prop :=
  ∀ (s s₁ s₂ t : State) (c p : Nat) (mods : BitVec 11) (ent : List Word) (r : List Nat × Flags) (x : Slotted),
    let e := s.elem c p
    let n := lanesFor e.lf
    let room := if e.cmt = true then e.settle.length < 32 else s.canEmit c p 0 false = true
    let runs := Acts s c p ∧ s.sourcesRun c = true ∧ e.fin = 0 ∧ e.ending = false
    let stopAt (i : Nat) : Option Nat :=
      let c0 := e.wide 18
      let c1 := max (e.wide 20) 1
      if (i + 1) % c0 ≠ 0 then none
      else if e.wide 20 = 0 ∨ (i / c0 + 1) % c1 ≠ 0 then some 0
      else if e.wide 22 = 0 ∨ i / c0 / c1 + 1 ≠ e.wide 22 then some 1 else some 2
    let k := loadedTok (s₂.elem c p) (0, 0) r.1
    let q := loadedTok (s₂.elem c p) ((s₂.elem c p).headerOf [(0, x.tok)] (r.1.headD 0)) r.1
    (runs → e.op = 0xA0 → e.j ≠ 1 → e.prog < stepCount e → room → entryOf c p true s = .ok (ent, s₁) → Plain (s₁.elem c p) ent →
      (s₁.elem c p).due = false → (s₁.elem c p).got = none → (s₂.elem c p).op = 0xA0 →
      loadLanes c p ent (stepIndex e e.prog) n s₁ = .ok ((r.1, r.2, none), s₂) →
      sendOut c p 0 (some k) none s₂ = .ok ((), t) →
      exec (.lda mods) s = .next ((flagged t c p r.2).modElem c p fun e' =>
        { e' with prog := e'.prog + 1, lastStop := none
                  j := if bitAt e.mode 0 = true ∧ ((e'.walkStop e'.prog).isSome = true) then 1 else 0 }))
    ∧ (∀ i, 0 < e.wide 18 → (e.wide 20 = 0 → e.wide 22 = 0) → e.walkStop i = stopAt i)
    ∧ (∀ j, runs → e.j = 1 → e.walkStop (e.prog - 1) = some j → sendOut c p 0 (some { kind := .stop, lvl := j }) none s = .ok ((), t) →
        exec (.lda mods) s = .next (t.modElem c p fun e => { e with j := 0, lastStop := some j }))
    ∧ (runs → e.j ≠ 1 → stepCount e ≤ e.prog → bitAt e.mode 0 = true → sendOut c p 0 (some { kind := .done }) none s = .ok ((), t) →
        exec (.lda mods) s = .next (t.modElem c p fun e => { e with fin := 1 }))
    ∧ (Acts s c p → s.sourcesRun c = true → e.fin = 1 → e.armed = false → sendOut c p 0 (some { kind := .eos }) (some { kind := .eos }) s = .ok ((), t) →
        exec (.lda mods) s = .next (t.modElem c p fun e => { e with fin := 2, ending := false, holds := true }))
    ∧ (HeadIs s c p x → isDat x.tok = true → ¬ (x.tok.kind = .ref ∧ x.tok.width = 1) → tokenIndex x.tok ≠ marker → room → e.op ≠ 0xA0 →
        entryOf c p false s = .ok (ent, s₁) → Plain (s₁.elem c p) ent → (s₁.elem c p).due = false → (s₁.elem c p).got = none →
        (s₂.elem c p).op ≠ 0xA0 → loadLanes c p ent (tokenPlace e x.tok) n s₁ = .ok ((r.1, r.2, none), s₂) →
        sendOut c p q.set (some q) none s₂ = .ok ((), t) →
        exec (.ldi mods) s = .next (ate (flagged t c p r.2) c p))
    ∧ (HeadIs s c p x → isDat x.tok = true → ¬ (x.tok.kind = .ref ∧ x.tok.width = 1) → tokenIndex x.tok = marker → e.op ≠ 0xA0 →
        let z := loadedTok e (e.headerOf [(0, x.tok)] 0) (List.replicate n 0)
        sendOut c p z.set (some z) none s = .ok ((), t) → exec (.ldi mods) s = .next (ate (flagged t c p 0) c p))
    ∧ (HeadIs s c p x → x.tok.kind = .ref → x.tok.width = 1 → e.cmt = false → exec (.ldi mods) s = .next (faulted s c p 0x3B 0 x))

/-- R226, R227: STA and STI check each store when its heads are there, park it, and perform it in order once it is decided; STA's
tokens follow its traversal, and STI stores nothing for the absent marker. -/
def Sys2Proof.Claims.StoreElementsParkAndPerformTheirStores : Prop :=
  ∀ (s s₁ s₂ t : State) (c p : Nat) (mods : BitVec 11) (ent : List Word) (x y : Slotted) (rest : List Parked) (idx : Int),
    let e := s.elem c p
    let n := lanesFor e.lf
    (HeadIs s c p x → isDat x.tok = true → e.prog < stepCount e → entryOf c p true s = .ok (ent, s₁) →
        atHead 0 x (tokenCheck c p ent (stepIndex e e.prog) n true) s₁ = .ok ((), s₂) →
        Parks s₂ c p (e.headerOf [(0, x.tok)] 0).1 (.store x (stepIndex e e.prog) ent) t →
        exec (.sta mods) s = .next ((ate t c p).modElem c p fun e => { e with prog := e.prog + 1 }))
    ∧ (HeadIs s c p x → isDat x.tok = true → stepCount e ≤ e.prog → exec (.sta mods) s = .next (faulted s c p 0x3D 0 x))
    ∧ (HeadIs s c p x → x.tok.kind = .poison → exec (.sta mods) s = .next (faulted s c p 0x23 0 x))
    ∧ (HeadIs s c p x → s.headAt c p 1 = some y → isDat x.tok = true → isDat y.tok = true → SetsAgree e [(0, x), (1, y)] →
        (y.tok.kind = .ref → y.tok.width = 1 → exec (.sti mods) s = .next (faulted s c p 0x3B 1 y))
        ∧ (¬ (y.tok.kind = .ref ∧ y.tok.width = 1) → tokenIndex y.tok = marker →
            exec (.sti mods) s = .next (s.modElem c p fun e => (e.take 0).take 1))
        ∧ (¬ (y.tok.kind = .ref ∧ y.tok.width = 1) → tokenIndex y.tok ≠ marker → entryOf c p false s = .ok (ent, s₁) →
            atHead 1 y (tokenCheck c p ent (tokenPlace e y.tok) n true) s₁ = .ok ((), s₂) →
            Parks s₂ c p (e.headerOf [(0, x.tok), (1, y.tok)] 0).1 (.store x (tokenPlace e y.tok) ent) t →
            exec (.sti mods) s = .next (t.modElem c p fun e => (e.take 0).take 1)))
    ∧ (∀ fl, Performs s c p (.store x idx ent) rest → e.op = 0xA3 → e.few = false → hSpace ent ≤ 2 →
        storeLanesAt c e ent idx x.tok s = .ok (fl, t) → exec (.sti mods) s = .next (settled (flagged t c p fl) c p))
    ∧ (∀ fl, Performs s c p (.store x idx ent) rest → e.op = 0xA2 → e.few = false → hSpace ent ≤ 2 →
        (let g := s.elemFmt c ent e.ty idx.toNat
         blockPage g.1 g.2 = false) →
        storeLanesAt c e ent idx x.tok s = .ok (fl, t) → exec (.sta mods) s = .next (settled (flagged t c p fl) c p))
    ∧ (Performs s c p (.ctl x) rest → e.op = 0xA2 ∨ e.op = 0xA3 → e.few = false → isControl x.tok →
        (e.acks = 0 → OutRoom s c p (some x.tok) none →
          exec (.sta mods) s = .next (settled (sentOn s c p (some x.tok) none) c p)
          ∧ exec (.sti mods) s = .next (settled (sentOn s c p (some x.tok) none) c p)))

/-- R244, R245: ATOM parks its operation under its set, and performs it in order as one atomic: the old value leaves on x, and the
word holds what SUB gives. -/
def Sys2Proof.Claims.AtomElementUpdatesAWordOnceDecided : Prop :=
  ∀ (s s₁ s₂ t : State) (c p : Nat) (mods : BitVec 11) (ent : List Word) (x y hdr : Slotted) (l : Loc) (rest : List Parked) (idx : Int)
      (v cmp old : Nat),
    let e := s.elem c p
    let w := tyBits e.ty / 8
    let val := x.tok.pay.toNat % 2 ^ tyBits e.ty
    (HeadIs s c p x → s.headAt c p 1 = some y → e.sub ≠ 7 → isDat x.tok = true → isDat y.tok = true →
        SetsAgree e [(0, x), (1, y)] → ¬ (y.tok.kind = .ref ∧ y.tok.width = 1) → entryOf c p false s = .ok (ent, s₁) → hSpace ent ≤ 2 →
        (hSpace ent = 1 → hEFV ent = true → atomOk (hEFMT ent) e.ty = true) → 0 ≤ tokenPlace e y.tok → hBase ent % w = 0 →
        locate .elem c e.hnd ent (w * (tokenPlace e y.tok).toNat) w true s₁ = .ok (l, s₂) →
        let h := e.headerOf [(0, x.tok), (1, y.tok)] 0
        Parks s₂ c p h.1 (.atom (tokenPlace e y.tok) val 0 { y with tok := { set := h.1, worth := h.2 } } ent) t →
        exec (.atom mods) s = .next (t.modElem c p fun e => (e.take 0).take 1))
    ∧ ∀ (s₃ s₄ s₅ : State) (g : Nat × Nat), Performs s c p (.atom idx v cmp hdr ent) rest → e.op = 0xA4 → e.mode % 16 = 0 → e.sub ≤ 7 →
        locate .elem c e.hnd ent (w * idx.toNat) w true s = .ok (l, s₁) → pageFmt c l true s₁ = .ok (g, s₂) →
        (hSpace ent = 1 → atomOk g.1 e.ty = true ∧ (hEFV ent = true → hEFMT ent = g.1)) →
        scopeAt true c e.hnd (w * idx.toNat) 0 l s₂ = .ok ((), s₃) → homeRead c l w true s₃ = .ok ((old, none), s₄) →
        let new := atomVal e.ty e.sub old v cmp
        homeWrite c l w new.1 s₄ = .ok ((), s₅) →
        let worth := if e.rsrc = 1 then BitVec.ofNat 16 (old / 65536) else hdr.tok.worth
        let k := loadedTok e (hdr.tok.set, worth) [old]
        OutRoom s₅ c p (some k) none → e.lf = 3 →
        exec (.atom mods) s = .next (settled (flagged (sentOn s₅ c p (some k) none) c p new.2) c p)

/-- R299, R328, R305, R396: XREQ and MPORT park a request for each head, and a decided one enters its engine's queue; GREQ gathers
indices into a batch of at most 64; BROUTE carries a token to the same channel's output. -/
def Sys2Proof.Claims.PortsOfEnginesPassTheirTokensOn : Prop :=
  ∀ (s t : State) (c p : Nat) (mods : BitVec 11) (x y : Slotted) (rest : List Parked) (w : Word) (ws : List Word),
    let e := s.elem c p
    let l := (s.own c).launch
    let num := x.tok.pay.toNat
    let h := e.headerOf [(0, x.tok)] 0
    (HeadIs s c p x → x.tok.kind = .val → x.tok.width = 2 → num / 2 ^ 256 = 0 →
        Parks s c p x.tok.set (.xreq ((List.range 4).map fun i => (x.tok.pay >>> (64 * i)).setWidth 64) x) t →
        exec (.xreq mods) s = .next (ate t c p))
    ∧ (HeadIs s c p x → x.tok.kind = .val → x.tok.width = 2 → num / 2 ^ 256 ≠ 0 → exec (.xreq mods) s = .next (faulted s c p 0x29 0 x))
    ∧ (HeadIs s c p x → isDat x.tok = true → ¬ (x.tok.kind = .val ∧ x.tok.width = 2) → exec (.xreq mods) s = .next (faulted s c p 0x3B 0 x))
    ∧ (∀ r s₀ s₁, Performs s c p (.xreq ws x) rest → e.op = 0xA5 → (s.core c).qRoom (pQ (ws.getD 0 0)) = true →
        copyOrder (bitAt e.mode 1) c (.elem c p) s = .ok ((), s₀) →
        checkPacket true c (.elem c p) (ws.getD 0 0) (ws.getD 1 0) (ws.getD 2 0) (ws.getD 3 0) s₀ = .ok (r, s₁) →
        let u := (s₁.accept c r).modElem c p fun e => { e with acks := e.acks + 1 }
        let g := e.headerOf [(0, x.tok)] (ws.getD 0 0).toNat
        let k : Token := { width := 1, set := g.1, worth := g.2, pay := (ws.getD 0 0).setWidth 512 }
        (bitAt e.mode 0 = false → exec (.xreq mods) s = .next (settled u c p))
        ∧ (bitAt e.mode 0 = true → OutRoom u c p (some k) none → exec (.xreq mods) s = .next (settled (sentOn u c p (some k) none) c p)))
    ∧ (HeadIs s c p x → x.tok.kind = .val → x.tok.width = 1 → Parks s c p x.tok.set (.mport (x.tok.pay.setWidth 64) x) t →
        exec (.mport mods) s = .next (ate t c p))
    ∧ (HeadIs s c p x → isDat x.tok = true → ¬ (x.tok.kind = .val ∧ x.tok.width = 1) → exec (.mport mods) s = .next (faulted s c p 0x3B 0 x))
    ∧ (Performs s c p (.mport w x) rest → e.op = 0xB5 → (s.core c).carryCheck l w = none → (s.core c).seqRoom = true →
        exec (.mport mods) s = .next (settled ((s.enqueue c
          { word := w, src := .elem c p, launch := l, port := true
            echo := if bitAt e.mode 0 then some { width := 1, set := h.1, worth := h.2 } else none }).modElem c p fun e =>
              { e with acks := e.acks + 1 }) c p))
    ∧ (∀ code, Performs s c p (.mport w x) rest → e.op = 0xB5 → (s.core c).carryCheck l w = some code →
        exec (.mport mods) s = .next (s.elemFault c p 0x2C 0 x.tok.header e.op x.ord 0 0 (word code)))
    ∧ (HeadIs s c p x → e.cmt = false → isDat x.tok = true → ¬ (x.tok.kind = .ref ∧ x.tok.width = 1) → tokenIndex x.tok = marker →
        e.batch.length < 64 →
        exec (.greq mods) s = .next ((ate s c p).modElem c p fun e => { e with batch := e.batch ++ [x.tok] }))
    ∧ (HeadIs s c p x → e.cmt = false → x.tok.kind = .poison → e.batch.length < 64 →
        exec (.greq mods) s = .next ((ate s c p).modElem c p fun e => { e with batch := e.batch ++ [x.tok] }))
    ∧ (HeadIs s c p x → e.cmt = false → isControl x.tok → e.batch = [] → sendOut c p 0 (some x.tok) (some x.tok) s = .ok ((), t) →
        exec (.greq mods) s = .next (ate t c p))
    ∧ (∀ core pos, s.pageLive core = true → (s.elem core pos).xwait = none → (s.elem core pos).op = 0xA6 → (s.elem core pos).outQ = [] →
        (s.elem core pos).batch = [y.tok] → isDat y.tok = true → tokenIndex y.tok = marker →
        let g := s.elem core pos
        let k := loadedTok g (g.headerOf [(0, y.tok)] 0) (List.replicate (lanesFor g.lf) 0)
        exec (.gatherBatch core pos) s = .next (s.modElem core pos fun e => { e with batch := [], outQ := [(some k, none)] }))
    ∧ (∀ core pos ent vs fl s₁ s₂, s.pageLive core = true → (s.elem core pos).xwait = none → (s.elem core pos).op = 0xA6 →
        (s.elem core pos).outQ = [] → (s.elem core pos).batch = [y.tok] → isDat y.tok = true → tokenIndex y.tok ≠ marker →
        let g := s.elem core pos
        entryOf core pos false s = .ok (ent, s₁) → (let pg := (s₁.elemFmt core ent g.ty (tokenPlace g y.tok).toNat).1
          pg < 3 ∨ 6 < pg) →
        loadLanes core pos ent (tokenPlace g y.tok) (lanesFor g.lf) s₁ = .ok ((vs, fl, none), s₂) →
        let k := loadedTok g (g.headerOf [(0, y.tok)] (vs.headD 0)) vs
        exec (.gatherBatch core pos) s = .next ((flagged s₂ core pos fl).modElem core pos fun e => { e with batch := [], outQ := [(some k, none)] }))
    ∧ (HeadIs s c p x → s.canEmit c p 0 x.tok.isCtl = true → exec (.broute mods) s = .next (ate (s.emit c p 0 x.tok) c p))
    ∧ (Acts s c p → s.headAt c p 0 = none → s.headAt c p 1 = some y → s.canEmit c p 1 y.tok.isCtl = true →
        exec (.broute mods) s = .next ((s.emit c p 1 y.tok).modElem c p fun e => e.take 1))

/-! ### Configuration streams -/

namespace Sys2Proof.Claims
open Sys2Proof.Machine

/-- A stream is at work at the network whose step is made: its next command is not its last. -/
def Streaming (s : State) (c : Nat) (n : Stream) : Prop :=
  s.cur = .net c ∧ (s.core c).net = some n ∧ n.ended = false ∧ n.idx + 1 < n.cmds.length
/-- The network goes on at the next command. -/
def netAt (s : State) (c : Nat) (n : Stream) : State := s.modCore c fun k => { k with net := some { n with idx := n.idx + 1 } }
/-- The stream of an admission, that has closed no page, has stopped at a fault: every bank of the open page that it wrote since PAGE
is cleared and its elements are disarmed, positions 56 to 59 apart. -/
def Stopped (s t : State) (c : Nat) (n : Stream) (code idx : Nat) : Prop :=
  (∃ m, (t.core c).net = some m ∧ m.ended = true
    ∧ m.fault = some (code, idx, n.cmds.getD idx 0, n.page.getD 0, n.bank))
  ∧ (∀ page k pos, n.page = some page → s.streamCore n page = some k → (pos < 56 ∨ 59 < pos) →
      ∀ bank ∈ n.banksSince page n.start, (t.elem k pos).armed = false ∧ ∀ g, (t.elem k pos).inBank bank g = 0)
  ∧ t = { s with cores := t.cores }
/-- The value that FIELD writes: fields 4 to 9 and 16 to 23 are sign-extended, or take their high bits from a PREFIX. -/
def fieldVal (n : Stream) (f : BitVec 5) (v : BitVec 19) : BitVec 49 :=
  if (4 ≤ f.toNat ∧ f.toNat ≤ 9) ∨ (16 ≤ f.toNat ∧ f.toNat ≤ 23) then
    match n.pfx with
    | some (_, hi) => hi ++ v
    | none => v.signExtend 49
  else v.setWidth 49

end Sys2Proof.Claims

/-- R46 to R50, R53: PAGE opens a page in bank 0, BANK chooses the bank, ARM and DISARM join the changes that the stream's end makes, PREFIX
gives the high bits of the next FIELD, FIELD writes one field of one element in the page's bank, and SEAL closes a page whose count and
elements are in order; each goes on at the next command. -/
def Sys2Proof.Claims.CommandsWriteThePage : Prop :=
  ∀ (s : State) (c : Nat) (n : Stream), Streaming s c n → n.pfx = none →
    (∀ page : BitVec 4, n.page = none → page.toNat < s.streamPages n →
      exec (.page 0 page) s = .next (netAt s c { n with page := some page.toNat, bank := 0, start := n.idx }))
    ∧ (∀ hi, exec (.pfx hi) s = .next (netAt s c { n with pfx := some (n.idx, hi) }))
    ∧ ∀ page, n.page = some page →
      (∀ b : BitVec 1, exec (.bank 0 b) s = .next (netAt s c { n with bank := b.toNat }))
      ∧ (∀ p : BitVec 6, fixedPos p.toNat = false →
        exec (.arm 0 0 p) s = .next (netAt s c { n with arms := n.arms ++ [(page, p.toNat, true)] })
        ∧ exec (.disarm 0 0 p) s = .next (netAt s c { n with arms := n.arms ++ [(page, p.toNat, false)] }))
      ∧ (let all := (List.range 64).filter fun p => p < 56 || p == 60 || p == 61
        exec (.arm 0 1 0) s = .next (netAt s c { n with arms := n.arms ++ all.map fun p => (page, p, true) })
        ∧ exec (.disarm 0 1 0) s = .next (netAt s c { n with arms := n.arms ++ all.map fun p => (page, p, false) }))
      ∧ (∀ count : BitVec 19, s.sealErrs n page = [] → (n.idx - n.start - 1) % 2 ^ 19 = count.toNat →
        exec (.sealPage count) s = .next (netAt s c
          { n with page := none, bank := 0, closed := n.closed ++ [(page, n.idx, n.cmds.getD n.idx 0)] }))

/-- R47, R49, R53: FIELD writes the value, widened where its field is wide, to one field of one element in the bank that is open, with the high bits
of a PREFIX just before it, and changes no other field of any element. -/
def Sys2Proof.Claims.FieldWritesOneFieldOfOneElement : Prop :=
  ∀ (s : State) (c : Nat) (n : Stream) (page k : Nat) (p : BitVec 6) (f : BitVec 5) (v : BitVec 19),
    Streaming s c n → n.page = some page → s.streamCore n page = some k → n.bank < 2 →
    (n.origin = none ∨ n.bank = 1 ∧ (s.elem k p.toNat).armed = false) → f.toNat < 24 → (p.toNat < 56 ∨ 59 < p.toNat) →
    (n.pfx = none ∨ wideField f.toNat = true) →
    (f = 0 → opAssigned (v.toNat / 2 ^ 11) = true ∧ opLegalAt (v.toNat / 2 ^ 11) p.toNat = true) →
    (f = 10 → v.toNat < 2 ^ 6) → (f = 11 → v.toNat < 2 ^ 3) → (f = 15 → v.toNat < 2 ^ 12) →
    ∃ t, exec (.field p f v) s = .next t
      ∧ (t.elem k p.toNat).inBank n.bank f.toNat = (fieldVal n f v).toNat
      ∧ (∀ d q b g, b < 2 → (d ≠ k ∨ q ≠ p.toNat ∨ b ≠ n.bank ∨ g ≠ f.toNat) → (t.elem d q).inBank b g = (s.elem d q).inBank b g)
      ∧ (∃ m, (t.core c).net = some m ∧ m.idx = n.idx + 1 ∧ m.pfx = none ∧ m.page = n.page ∧ m.bank = n.bank ∧ m.ended = false)
      ∧ t = { s with cores := t.cores }

/-- R49: a PREFIX that is the last command of its stream is named by fault 0x03. -/
def Sys2Proof.Claims.TrailingPrefixFaults : Prop :=
  ∀ (s : State) (c : Nat) (n : Stream) (hi : BitVec 30), s.cur = .net c → (s.core c).net = some n → n.ended = false →
    n.idx + 1 = n.cmds.length → n.pfx = none → n.origin = none → n.closed = [] →
    ∃ t, exec (.pfx hi) s = .next t ∧ Stopped s t c n 3 n.idx

/-- R46, R48 to R50, R61, R63: a command out of place, out of range or of a reserved form stops the stream with the code that the table gives, the lowest where
several hold, naming its index; a PREFIX that no FIELD follows is named itself. The open page's written banks are cleared. -/
def Sys2Proof.Claims.ConfigurationFaultsStopTheStream : Prop :=
  ∀ (s : State) (c : Nat) (n : Stream), Streaming s c n → n.origin = none → n.closed = [] →
    let faults (i : Instr) (code idx : Nat) : Prop := ∃ t, exec i s = .next t ∧ Stopped s t c n code idx
    (∀ w, n.pfx = none → faults (.reservedClassCommand w) 1 n.idx)
    ∧ (∀ o r w, n.pfx = none → faults (.reservedCtrlOperation o r w) 2 n.idx)
    ∧ (∀ r p, n.pfx = none → n.page ≠ none → faults (.page r p) 3 n.idx)
    ∧ (∀ r p, n.pfx = none → n.page = none → r ≠ 0 → faults (.page r p) 9 n.idx)
    ∧ (∀ p : BitVec 4, n.pfx = none → n.page = none → s.streamPages n ≤ p.toNat → faults (.page 0 p) 0x10 n.idx)
    ∧ (∀ r b, n.pfx = none → n.page = none → faults (.bank r b) 3 n.idx)
    ∧ (∀ r a e, n.pfx = none → n.page = none → faults (.arm r a e) 3 n.idx ∧ faults (.disarm r a e) 3 n.idx)
    ∧ (∀ k, n.pfx = none → n.page = none → faults (.sealPage k) 3 n.idx)
    ∧ (∀ p f v, n.page = none → faults (.field p f v) 3 n.idx)
    ∧ (∀ (p : BitVec 6) f v, n.pfx = none → n.page ≠ none → 56 ≤ p.toNat → p.toNat ≤ 59 → f ≠ 0 → f.toNat < 24 → faults (.field p f v) 6 n.idx)
    ∧ (∀ j hi, n.pfx = some (j, hi) → (∀ w, faults (.pfx w) 3 j) ∧ (∀ r b, faults (.bank r b) 3 j) ∧ (∀ k, faults (.sealPage k) 3 j)
      ∧ (∀ r p, faults (.page r p) 3 j) ∧ (∀ r a e, faults (.arm r a e) 3 j ∧ faults (.disarm r a e) 3 j)
      ∧ (∀ w, faults (.reservedClassCommand w) 3 j) ∧ (∀ o r w, faults (.reservedCtrlOperation o r w) 3 j)
      ∧ ∀ p f v, n.page ≠ none → wideField f.toNat = false → faults (.field p f v) 4 n.idx)

/-- R385, R386: CFGW reads its commands, hands them to the network of its page set's instance and waits; a network that has ended its stream gives DST the result
and the firing goes on; a count that is 0 or above 1,048,576, or an offset off a word, takes trap 0x2A. -/
def Sys2Proof.Claims.CfgwRunsAStreamAndReceivesItsStatus : Prop :=
  ∀ (s : State) (f : XForm),
    let c := s.here.1
    let n := s.here.2
    let r := reg s f.sa
    let cnt := (reg s f.sc).toNat
    let bad : Stop := .trap 0x2A (word (fld r 52 12)) (word (fld r 0 52))
    (∀ p, s.given c n .cfgw = some p → p.done = true → ∃ t, exec (.cfgw f) s = .next t ∧ WentOn s t ∧ (t.slot c n).reg f.dst.toNat = p.val)
    ∧ (s.given c n .cfgw = none →
      ((cnt = 0 ∨ 2 ^ 20 < cnt ∨ fld r 0 52 % 4 ≠ 0) → exec (.cfgw f) s = .next (s.takeTrap c n 0x2A (word (fld r 52 12)) (word (fld r 0 52))))
      ∧ (∀ k off, cnt ≠ 0 → cnt ≤ 2 ^ 20 → fld r 0 52 % 4 = 0 → sideRef bad c r (4 * cnt) [1, 2] false s = .ok (.sp k off, s) →
          s.spPoisoned k off (4 * cnt) = false → s.netBusy c = false →
          ∃ t, exec (.cfgw f) s = .next t ∧ Waits s t .cfgw
            ∧ ∃ m, (t.core c).net = some m ∧ m.origin = some (c, n) ∧ m.idx = 0 ∧ m.ended = false
              ∧ m.cmds = (List.range cnt).map fun i => BitVec.ofNat 32 (leVal (s.spRead k (off + 4 * i) 4))))

/-! ### Command ports and the ends of a page -/

namespace Sys2Proof.Claims
open Sys2Proof.Machine

/-- A command is the head of a command port that eos has not ended: data that is not poison, with nothing set beneath the code but its operand in the low bits. -/
structure CmdIs (s : State) (c p low : Nat) (x : Slotted) : Prop where
  head  : HeadIs s c p x
  data  : x.tok.isCtl = false
  sound : x.tok.isPoison = false
  bare  : x.tok.num % 2 ^ 60 < 2 ^ low
  going : (s.elem c p).last = false
/-- The operand of a command. -/
def operandOf (x : Slotted) (low : Nat) : Nat := x.tok.num % 2 ^ low
/-- The command is taken and its answer waits behind the earlier ones. -/
def answeredBy (t : State) (c p v : Nat) : State :=
  t.modElem c p fun e => { e with cmds := e.cmds ++ [{ ans := some { width := 1, pay := BitVec.ofNat 512 (v % 2 ^ 64) } }] }
/-- The commands of the two ports, and the bits of their operands. -/
def commandBits : Instr → Option (Nat × Nat)
  | .dportQuench | .dportSeal | .dportQuery => some (0x28, 24)
  | .dportSettle => some (0x28, 40)
  | .dportOldest => some (0x28, 0)
  | .headFlags => some (0x2E, 6)
  | .headClear => some (0x2E, 7)
  | .headArmed | .headEnd | .headCount => some (0x2E, 0)
  | _ => none
/-- A live entry of a launch below a sequence. -/
def liveBelow (l u : Nat) (e : Nat × DEntry) : Prop := e.2.launch = l ∧ e.2.quenched = false ∧ e.2.u < u

/-- A damper has answered one request and left the others waiting, with this answer. -/
def AnswersWith (s t : State) (req : Nat) (r : DReq) (P : DAns → Prop) : Prop :=
  mget t.dreqs req = none ∧ (∀ j, j ≠ req → mget t.dreqs j = mget s.dreqs j)
    ∧ ∃ id a, mget t.dans id = some a ∧ a.req = req ∧ a.die = r.die ∧ a.launch = r.launch ∧ a.set = r.set ∧ a.kind = r.kind
      ∧ a.src = r.src ∧ P a
/-- The command has been taken: it waits behind the earlier ones for the answers to these requests. -/
def awaiting (s : State) (c p : Nat) (reqs : List Nat) (v : Nat) : Elem :=
  { (s.elem c p).take 0 with cmds := ((s.elem c p).take 0).cmds ++ [{ reqs := reqs, val := v }] }

end Sys2Proof.Claims

/-- R184, R185: the damper port sends QUENCH, SEAL and QUERY to the home of their set, and SETTLE and OLDEST to the damper of every share; a
damper answers QUERY with the set's state, SETTLE once it has retired its LIVE sets below the sequence, OLDEST with its lowest LIVE sequence,
each in its own order of arrival; notices leave on x. -/
def Sys2Proof.Claims.DamperPortActsOnItsCommands : Prop :=
  (∀ (s : State) (c p : Nat) (x : Slotted),
    let l := (s.own c).launch
    let set := BitVec.ofNat 24 (operandOf x 24)
    (∀ i kind, (i = .dportQuench ∧ kind = DKind.quench) ∨ (i = .dportSeal ∧ kind = DKind.commit) ∨ (i = .dportQuery ∧ kind = DKind.query) →
      CmdIs s c p 24 x →
      ∃ t r, exec i s = .next t ∧ t.elem c p = awaiting s c p [s.nextId] 0
        ∧ mget t.dreqs s.nextId = some r ∧ r.kind = kind ∧ r.set = set ∧ r.launch = l ∧ r.die = s.homeOf l set ∧ r.cause = 2
        ∧ r.worth = x.tok.worth ∧ r.src = .dport c)
    ∧ (∀ i kind low, (i = .dportSettle ∧ kind = DKind.settle ∧ low = 40) ∨ (i = .dportOldest ∧ kind = DKind.oldest ∧ low = 0) →
      CmdIs s c p low x →
      ∃ t, exec i s = .next t ∧ t.elem c p = awaiting s c p ((List.range (s.launch l).dies.length).map (s.nextId + ·)) (operandOf x low)
        ∧ ∀ n die, (s.launch l).dies[n]? = some die → ∃ r, mget t.dreqs (s.nextId + n) = some r ∧ r.kind = kind ∧ r.die = die ∧ r.launch = l
          ∧ r.s = operandOf x low ∧ r.src = .dport c)
    ∧ (∀ s₁ n rd, Acts s c p → bitAt (s.elem c p).mode 0 = true → noteTouch c l s = .ok ((), s₁) → s₁.noticeAt l = some (n, rd) →
      s₁.canEmit c p 0 false = true → (s₁.elem c p).outs.contains 0 = true →
      exec .dportNotice s = .next ((s₁.emit c p 0
        { width := 1, worth := BitVec.ofNat 16 (fld n.w0 32 16)
          pay := BitVec.ofNat 512 (fld n.w0 0 24 + fld n.w0 24 4 * 2 ^ 24 + fld n.w1 12 4 * 2 ^ 32 + fld n.w1 0 6 * 2 ^ 36
            + fld n.w1 6 2 * 2 ^ 42 + fld n.w0 50 6 * 2 ^ 44) }).noticeTaken l rd)))
  ∧ ∀ (s : State) (die req : Nat) (r : DReq) (rest : List Move), s.power = .on → s.agenda = .damper die req :: rest →
    mget s.dreqs req = some r → r.die = die →
    let below (e : Nat × DEntry) : Prop := e.1 = die ∧ liveBelow r.launch r.s e
    let live (e : Nat × DEntry) : Prop := e ∈ s.entries ∧ e.1 = die ∧ e.2.launch = r.launch ∧ e.2.quenched = false
    (r.kind = .query → ∃ t, step s = .next t ∧ t.entries = s.entries ∧ AnswersWith s t req r fun a =>
      let here := s.entry (s.homeOf r.launch r.set) r.launch r.set
      (∀ e, bits r.set.toNat 22 2 < (s.launch r.launch).dies.length → here = some e → a.code = if e.quenched then 3 else 1)
      ∧ ((s.launch r.launch).dies.length ≤ bits r.set.toNat 22 2 → a.code = 0))
    ∧ (r.kind = .settle → ∃ t, step s = .next t ∧ AnswersWith s t req r (fun _ => True)
      ∧ (∀ e ∈ t.entries, e ∈ s.entries ∧ ¬ below e)
      ∧ ∀ e ∈ s.entries, (∀ h ∈ s.entries, below h → h.1 ≠ e.1 ∨ h.2.set ≠ e.2.set ∨ e.2.launch ≠ r.launch) → e ∈ t.entries)
    ∧ (r.kind = .oldest → ∃ t, step s = .next t ∧ t.entries = s.entries ∧ AnswersWith s t req r fun a =>
      (a.low = none ↔ ∀ e, ¬ live e) ∧ ∀ u ∈ a.low, (∃ e, live e ∧ e.2.u = u) ∧ ∀ e, live e → u ≤ e.2.u)

/-- R184, R389: HEAD answers FLAGS with an element's flags, CLEAR once they are cleared, ARMED with the armed positions, COUNT with its counts, and END once
the page's sources end. At both command ports an unassigned code, and a bit beside the operand, is an element fault, and takes nothing; eos ends the commands: none that
follows it is taken. -/
def Sys2Proof.Claims.HeadAnswersAndBadCommandsFault : Prop :=
  ∀ (s : State) (c p : Nat) (x : Slotted),
    (CmdIs s c p 6 x → exec .headFlags s = .next (answeredBy (ate s c p) c p (s.elem c (operandOf x 6)).flags.toNat))
    ∧ (CmdIs s c p 7 x → ∃ t, exec .headClear s = .next t
      ∧ (∀ q, q ≠ p → t.elem c q = { s.elem c q with
          flags := if 64 ≤ operandOf x 7 ∨ q = operandOf x 7 then 0 else (s.elem c q).flags })
      ∧ t = { s with cores := t.cores })
    ∧ (CmdIs s c p 0 x →
      exec .headArmed s = .next (answeredBy (ate s c p) c p ((((ate s c p).core c).armedAll.map (2 ^ ·)).sum))
      ∧ exec .headEnd s = .next (answeredBy ((ate s c p).pageEnd c) c p 0)
      ∧ exec .headCount s = .next (answeredBy (ate s c p) c p ((s.elem c p).events % 2 ^ 32 + (s.elem c p).swaps % 2 ^ 32 * 2 ^ 32)))
    ∧ (Acts s c p → (s.elem c p).last = true → ∀ i r, commandBits i = some r → exec i s = .next s)
    ∧ (HeadIs s c p x → x.tok.isCtl = false → (s.elem c p).last = false →
      exec .dportUnassigned s = .next (faulted s c p 0x28 0 x) ∧ exec .headUnassigned s = .next (faulted s c p 0x2E 0 x)
      ∧ ∀ i code low, commandBits i = some (code, low) → (x.tok.isPoison = true ∨ 2 ^ low ≤ x.tok.num % 2 ^ 60) →
        exec i s = .next (faulted s c p code 0 x))

/-- R390: SWAP is the firing in which an armed element takes eos, with the exchange of its banks; APORT swaps once every bound slot is finished and its eos is
sent, and its finished slots become idle. An element that is not armed does not swap. -/
def Sys2Proof.Claims.ArmedElementsSwapTheirBanks : Prop :=
  (∀ (s : State) (c p : Nat) (i : Instr) (m : EMod) (ports : List Nat) (hs : List (Nat × Slotted)) (k : Token),
    let e := s.elem c p
    let sw := m.sw == 1
    let chan := hs.filter fun h => !e.isReg (physPort sw h.1)
    commonRow e i = some (m, ports) → decodeElem (BitVec.ofNat 19 (e.fld 0)) = some i → mrising (s.core c).elems = true →
    Acts s c p → Heads s c p sw ports hs → chan ≠ [] → (∀ h ∈ chan, h.2.tok.kind = .eos ∧ h.2.tok.lvl = k.lvl) →
    (∀ h ∈ chan.head?, h.2.tok = k) → e.armed = true → (∀ h ∈ hs, h.2.tok.kind ≠ .poison) → e.settle = [] → OutRoom s c p (some k) (some k) →
    ∃ t, exec (.swap c p) s = .next t ∧ t = (eaten (sentOn s c p (some k) (some k)) c p sw chan).swapAt c p
      ∧ (t.elem c p).b0 = e.b1 ∧ (t.elem c p).b1 = e.b0)
  ∧ (∀ (s : State) (c p : Nat), (s.elem c p).armed = false → exec (.swap c p) s = .next s)
  ∧ (∀ (s : State) (c : Nat), s.pageLive c = true → (s.elem c 60).armed = true →
    (∀ n, n < 16 → (s.elem c 60).inChans n ≠ [] ∨ (s.elem c 60).outChans n ≠ [] →
      ((s.slot c n).status = .finished ∧ (s.slot c n).eosDue = []) ∨ (s.slot c n).status = .absent) →
    ∃ t, exec (.aportSwap c) s = .next t ∧ (∀ q, t.elem c q = (s.swapAt c 60).elem c q)
      ∧ ∀ n, t.slot c n = { s.slot c n with status := if (s.slot c n).status = .finished then .idle else (s.slot c n).status })

/-- R392, R393: an element sends HEAD one trigger event with every t-th data head that it consumes; with TRIG of them, and when a page's queue pair is empty and nothing
but sources can fire, every source of the page is to end its stream; during a pre-emption's stop the end is kept. -/
def Sys2Proof.Claims.TriggersAndDryPagesEndTheirSources : Prop :=
  (∀ (e : Elem) (r : Nat) (x : Slotted), e.isReg r = false → (e.port r).res = none → (e.port r).q.head? = some x →
    let n := e.fld 13 % 2 ^ 19
    let counts := x.tok.isData = true ∧ e.op ≠ 0xB0 ∧ e.op ≠ 0xB7 ∧ n ≠ 0
    (counts → e.trig + 1 < n → (e.take r).trig = e.trig + 1 ∧ (e.take r).trigOut = e.trigOut)
    ∧ (counts → n ≤ e.trig + 1 → (e.take r).trig = 0 ∧ (e.take r).trigOut = e.trigOut + 1)
    ∧ (¬ counts → (e.take r).trig = e.trig ∧ (e.take r).trigOut = e.trigOut))
  ∧ (∀ (s : State) (c p : Nat),
    let h := s.elem c 63
    let trig := h.fld 13 % 2 ^ 19
    p ≠ 63 →
    ((s.elem c p).trigOut = 0 → exec (.triggerEvent c p) s = .next s)
    ∧ (0 < (s.elem c p).trigOut → ∃ t, exec (.triggerEvent c p) s = .next t
      ∧ (t.elem c p).trigOut = (s.elem c p).trigOut - 1
      ∧ (trig = 0 ∨ h.events + 1 < trig → (t.elem c 63).events = h.events + 1)
      ∧ (trig ≠ 0 → trig ≤ h.events + 1 → s.sourcesRun c = true →
          (t.elem c 63).events = 0 ∧ ∀ q, q ≠ 63 → (s.elem c q).isSource = true → (s.elem c q).fin = 0 → (t.elem c q).ending = true)
      ∧ (trig ≠ 0 → trig ≤ h.events + 1 → s.sourcesRun c = false → (t.elem c 63).endHeld = true)))
  ∧ (∀ (s : State) (c put take : Nat),
    s.pageLive c = true → (s.elem c 63).op = 0xB7 → bitAt (s.elem c 63).mode 4 = true → (s.elem c 63).xwait = none →
    queuePair c s = .ok ((put, take), s) →
    let busy := ∃ e ∈ (s.core c).elems, e.2.isSource = false ∧ s.firesNext c e.1 = true
    (take < put ∨ busy → exec (.dryPoll c) s = .next s)
    ∧ (put ≤ take → ¬ busy → exec (.dryPoll c) s = .next (s.pageEnd c)))

/-! ### Omission: dampers, quenches, ranked inputs, notices -/

namespace Sys2Proof.Claims
open Sys2Proof.Machine

/-- A request waits at its damper. -/
def Asked (s : State) (die req : Nat) (kind : DKind) (r : DReq) : Prop := mget s.dreqs req = some r ∧ r.die = die ∧ r.kind = kind
/-- The damper has answered one request and left the others waiting. -/
def AnswersIt (s t : State) (req : Nat) (r : DReq) (quenched : Bool) : Prop :=
  mget t.dreqs req = none ∧ (∀ j, j ≠ req → mget t.dreqs j = mget s.dreqs j)
    ∧ ∃ id a, mget t.dans id = some a ∧ a.req = req ∧ a.die = r.die ∧ a.launch = r.launch ∧ a.set = r.set ∧ a.kind = r.kind
      ∧ a.src = r.src ∧ a.quenched = quenched
/-- Nothing but the ports of one element has changed. -/
def OnlyPorts (s t : State) (c p : Nat) : Prop :=
  t = { s with cores := t.cores } ∧ (∀ d, d ≠ c → t.core d = s.core d) ∧ (∀ q, q ≠ p → t.elem c q = s.elem c q)
    ∧ t.elem c p = { s.elem c p with pa := (t.elem c p).pa, pb := (t.elem c p).pb, pc := (t.elem c p).pc, chans := (t.elem c p).chans }
/-- One port has become this, the others are as they were. -/
def PortIs (s t : State) (c p r : Nat) (x : Port) : Prop :=
  OnlyPorts s t c p ∧ (t.elem c p).port r = x ∧ ∀ q, q < 3 → q ≠ r → (t.elem c p).port q = (s.elem c p).port q
/-- A head that no firing in progress holds: neither resident, nor at an element that awaits an answer or is within a run or a fibre step. -/
def FreeHead (e : Elem) (r : Nat) (x : Slotted) (rest : List Slotted) : Prop :=
  (e.port r).res = none ∧ (e.port r).q = x :: rest ∧ e.due = false ∧ e.got = none ∧ e.begun = false ∧ e.op ≠ 0x41
/-- A landing token of a ranked port whose procedure may go on. -/
structure Lands (s : State) (c p r : Nat) (elastic : Bool) (t : Slotted) : Prop where
  landed : ((s.elem c p).port r).landing = some t
  live   : s.pageLive c = true
  mode   : (s.launch (s.own c).launch).elastic = elastic

end Sys2Proof.Claims

/-- R164, R170: a damper takes its requests one at a time. DECLARE makes a LIVE entry with its sequence, and waits while no entry is free
or the tenant's cap is reached; COMMIT-if-LIVE seals a LIVE set and frees its entry, and
is answered QUENCHED of a QUENCHED one; QUENCH-if-LIVE of a LIVE set quenches it, keeps the notice's fields, and is broadcast to every core that hosts the team; a
set without an entry is answered from its fate bit. -/
def Sys2Proof.Claims.DampersDecideEachSetOnce : Prop :=
  (∀ (s : State) (die req : Nat) (r : DReq), Asked s die req .declare r → s.entry die r.launch r.set = none →
    let here := s.entries.filter (·.1 == die)
    let x := (s.launch r.launch).ctx
    let cap := fld (s.ctx x).caps 0 14
    let mine := here.filter fun e => (s.launch e.2.launch).ctx == x
    (16384 ≤ here.length ∨ (cap ≠ 0 ∧ cap ≤ mine.length) → exec (.declare die req) s = .next s)
    ∧ (here.length < 16384 → cap = 0 ∨ mine.length < cap →
    ∃ t e, exec (.declare die req) s = .next t ∧ AnswersIt s t req r false ∧ t.entry die r.launch r.set = some e ∧ e.quenched = false
      ∧ e.s = r.s ∧ e.u = r.s * (s.launch r.launch).dies.length + bits r.set.toNat 22 2))
  ∧ (∀ (s : State) (die req : Nat) (r : DReq), Asked s die req .commit r →
    (∀ e, s.entry die r.launch r.set = some e → e.quenched = false →
      ∃ t, exec (.commitIfLive die req) s = .next t ∧ AnswersIt s t req r false ∧ t.entry die r.launch r.set = none)
    ∧ (∀ e, s.entry die r.launch r.set = some e → e.quenched = true →
      ∃ t, exec (.commitIfLive die req) s = .next t ∧ AnswersIt s t req r true ∧ t.entries = s.entries)
    ∧ (s.entry die r.launch r.set = none →
      ∃ t, exec (.commitIfLive die req) s = .next t ∧ AnswersIt s t req r (s.fate r.launch r.set) ∧ t.entries = s.entries))
  ∧ (∀ (s : State) (die req : Nat) (r : DReq), Asked s die req .quench r →
    (∀ e, s.entry die r.launch r.set = some e → e.quenched = false →
      ∃ t, exec (.quenchIfLive die req) s = .next t ∧ AnswersIt s t req r true
        ∧ t.entry die r.launch r.set = some { e with quenched := true, cause := r.cause, worth := r.worth, pset := r.pset, lpg := r.lpg,
                                                     port := r.port, elem := r.elem, time := s.cycle.toNat }
        ∧ ∀ k ∈ s.cores, (∃ o, k.2.own = some o ∧ o.launch = r.launch) →
            ∃ id, mget t.casts id = some { die := die, launch := r.launch, core := k.1, set := r.set })
    ∧ (∀ e, s.entry die r.launch r.set = some e → e.quenched = true →
      ∃ t, exec (.quenchIfLive die req) s = .next t ∧ AnswersIt s t req r true ∧ t.entries = s.entries ∧ t.casts = s.casts)
    ∧ (s.entry die r.launch r.set = none →
      ∃ t, exec (.quenchIfLive die req) s = .next t ∧ AnswersIt s t req r (s.fate r.launch r.set) ∧ t.entries = s.entries ∧ t.casts = s.casts))

/-- R168 to R170: a quench that reaches a core enters its filter, a full filter giving its earliest identifier to the overflow range; a head whose set the filter
holds, or that an overflow lookup finds QUENCHED, is removed as if consumed. -/
def Sys2Proof.Claims.QuenchFiltersDiscardHeads : Prop :=
  (∀ (s : State) (die id : Nat) (b : Broadcast), mget s.casts id = some b → b.die = die →
    ((∃ o, (s.core b.core).own = some o ∧ o.launch = b.launch) → ∃ t, exec (.quenchBroadcast die id) s = .next t ∧ mget t.casts id = none
      ∧ b.set ∈ (t.core b.core).filter
      ∧ (∀ x ∈ (s.core b.core).filter, x ∈ (t.core b.core).filter ∨ (t.core b.core).inRange x = true)
      ∧ ((s.core b.core).filter.length < 1024 → (t.core b.core).range = (s.core b.core).range)
      ∧ ∀ d, d ≠ b.core → t.core d = s.core d)
    ∧ ((∀ o, (s.core b.core).own = some o → o.launch ≠ b.launch) →
      exec (.quenchBroadcast die id) s = .next { s with casts := mdel s.casts id }))
  ∧ ∀ (s : State) (c p r : Nat) (x : Slotted) (rest : List Slotted), r < 3 → FreeHead (s.elem c p) r x rest →
    let l := (s.own c).launch
    ((s.core c).quenches x = true → ∃ t, exec (.discardUnfired c p r) s = .next t ∧ PortIs s t c p r { (s.elem c p).port r with q := rest })
    ∧ ((s.core c).quenches x = false → exec (.discardUnfired c p r) s = .next s)
    ∧ ((s.core c).asks x = true →
      (∀ e, s.entry (s.homeOf l x.tok.set) l x.tok.set = some e → ∃ t, exec (.overflowLookup c p r) s = .next t
        ∧ PortIs s t c p r { (s.elem c p).port r with q := if e.quenched then rest else { x with looked := true } :: rest })
      ∧ (s.entry (s.homeOf l x.tok.set) l x.tok.set = none → ∃ t, exec (.overflowLookup c p r) s = .next t
        ∧ PortIs s t c p r { (s.elem c p).port r with q := if s.fate l x.tok.set then rest else { x with looked := true } :: rest }))

/-- R171 to R174, R444: an elastic ranked input admits the landing token where a slot is free as its procedure begins or when no candidate is left, else asks for the quench of
the least worthy candidate; a repro one
holds it, or drops the least worthy of the held and it and asks for its quench; a control token closes the segment, and a closed segment's tokens become heads in order once
every quench of it is answered and broadcast. What an actor has sent behind a landing token enters the landing register in order. -/
def Sys2Proof.Claims.RankedInputsKeepTheMostWorthy : Prop :=
  (∀ (s : State) (c p r : Nat) (x : Slotted) (rest : List Slotted), r < 3 →
    let q := (s.elem c p).port r
    q.landing = none → q.lane = x :: rest → ∀ i, i = .rankedArrivalElastic c p r ∨ i = .rankedArrivalRepro c p r →
    ∃ u, exec i s = .next u ∧ PortIs s u c p r { q with landing := some x, lane := rest })
  ∧ (∀ (s : State) (c p r : Nat) (t : Slotted), r < 3 → Lands s c p r true t →
    let e := s.elem c p
    let q := e.port r
    let cand := (q.q.drop (if e.inStep then 1 else 0) ++ [t]).filter fun x => x.tok.isData && x.tok.set != 0 && !x.sealed
    (∀ v ∈ q.evict, v.req = none) → (∀ x ∈ q.q, (s.core c).quenches x = false) →
    (q.used < e.depth r → q.evict = none ∨ cand = [] → ∃ u, exec (.rankedArrivalElastic c p r) s = .next u
      ∧ PortIs s u c p r { q with q := q.q ++ [t], landing := none, evict := none })
    ∧ (q.evict ≠ none ∨ e.depth r ≤ q.used → cand ≠ [] → ∃ u v req, exec (.rankedArrivalElastic c p r) s = .next u
      ∧ v ∈ cand ∧ (∀ w ∈ cand, worthRank v.tok.worth ≤ worthRank w.tok.worth)
      ∧ (u.elem c p).port r = { q with evict := some { req := some (s.nextId, v.tok.set), own := v.ord == t.ord } }
      ∧ mget u.dreqs s.nextId = some req ∧ req.kind = .quench ∧ req.set = v.tok.set ∧ req.cause = 1 ∧ req.worth = v.tok.worth)
    ∧ (e.depth r ≤ q.used → cand = [] → ∃ u, exec (.rankedArrivalElastic c p r) s = .next u
      ∧ ((u.elem c p).port r).landing = some t ∧ ((u.elem c p).port r).q = q.q))
  ∧ (∀ (s : State) (c p r : Nat) (t : Slotted), r < 3 → Lands s c p r false t →
    let e := s.elem c p
    let q := e.port r
    let held := q.seg.filter fun x => x.tok.isData && x.tok.set != 0
    q.closing = [] →
    (t.tok.kind = .done ∨ t.tok.kind = .eos ∨ (t.tok.kind = .stop ∧ e.segLvl ≤ t.tok.lvl) → q.used < e.depth r →
      ∃ u, exec (.rankedArrivalRepro c p r) s = .next u
        ∧ PortIs s u c p r { q with closing := [(q.seg, some t)], seg := [], segN := 0, landing := none })
    ∧ (t.tok.isData = true → t.tok.set ≠ 0 → held.length < e.quota → q.used < e.depth r → e.window = 0 →
      ∃ u, exec (.rankedArrivalRepro c p r) s = .next u
        ∧ PortIs s u c p r { q with seg := q.seg ++ [t], segN := q.segN + 1, landing := none })
    ∧ (t.tok.isData = true → t.tok.set ≠ 0 → e.depth r ≤ q.seg.length → held ≠ q.seg →
      exec (.rankedArrivalRepro c p r) s = .next (faulted s c p 0x27 r t))
    ∧ (t.tok.isData = true → t.tok.set ≠ 0 → e.quota ≤ held.length → e.window = 0 → (q.seg.length < e.depth r ∨ held = q.seg) → ∃ u v req, exec (.rankedArrivalRepro c p r) s = .next u
      ∧ (v = t ∨ v ∈ held) ∧ worthRank v.tok.worth ≤ worthRank t.tok.worth ∧ (∀ w ∈ held, worthRank v.tok.worth ≤ worthRank w.tok.worth)
      ∧ ((u.elem c p).port r).landing = none
      ∧ ((u.elem c p).port r).seg = (if v.ord = t.ord then q.seg else q.seg.filter (·.ord ≠ v.ord) ++ [t])
      ∧ ((u.elem c p).port r).segReqs = s.nextId :: q.segReqs
      ∧ mget u.dreqs s.nextId = some req ∧ req.kind = .quench ∧ req.set = v.tok.set ∧ req.cause = 1))
  ∧ ∀ (s : State) (c p r : Nat) (held : List Slotted) (ctl : Option Slotted) (rest : List (List Slotted × Option Slotted)), r < 3 →
    let q := (s.elem c p).port r
    s.pageLive c = true → q.closing = (held, ctl) :: rest → q.segReqs = [] →
    ((∀ b ∈ s.casts, b.2.launch = (s.own c).launch → b.2.set ∉ q.segSets) → ∃ u, exec (.segmentClose c p r) s = .next u
      ∧ PortIs s u c p r { q with closing := rest, segSets := [], q := q.q ++ held ++ ctl.toList })
    ∧ ((∃ b ∈ s.casts, b.2.launch = (s.own c).launch ∧ b.2.set ∈ q.segSets) → exec (.segmentClose c p r) s = .next s)

/-- R36, R164, R167, R171, R184: an answer reaches the agent that asked, once: it decides the parked effect, lets the OSNEW go on, ends an elastic eviction, becomes the damper
port's answer token once every damper that was asked has answered, answers a quench that a merge asked for, and wakes a waiting RECV or RSEND. -/
def Sys2Proof.Claims.AnswersReachTheAgentThatAsked : Prop :=
  ∀ (s : State) (die id : Nat) (a : DAns), mget s.dans id = some a → a.die = die →
    ∃ t, exec (.damperAnswer die id) s = .next t ∧ mget t.dans id = none
      ∧ (∀ c p, a.src = .settle c p →
        (t.elem c p).settle = (s.elem c p).settle.map (fun x => if x.req = some a.req then { x with ans := some a.quenched } else x)
        ∧ (a.quenched = false → a.kind = .commit → (t.elem c p).lastSealed = a.set)
        ∧ (a.quenched = true → (t.elem c p).lastSealed = (s.elem c p).lastSealed))
      ∧ (∀ c p, a.src = .osnew c p → t.elem c p = { s.elem c p with declReq := none, begun := true })
      ∧ (∀ c p r q own, a.src = .ranked c p r → (s.launch a.launch).elastic = true → r < 3 →
        q = (s.elem c p).port r → q.evict = some { req := some (a.req, a.set), own := own } →
        let pinned := if (s.elem c p).inStep then 1 else 0
        let kept := q.q.take pinned ++ (q.q.drop pinned).filter fun x => !(x.tok.isData && x.tok.set == a.set)
        (a.quenched = true → own = true → (t.elem c p).port r = { q with q := kept, landing := none, evict := none })
        ∧ (∀ k, a.quenched = true → own = false → q.landing = some k →
            (t.elem c p).port r = { q with q := kept ++ [k], landing := none, evict := none })
        ∧ (a.quenched = false → ∀ x ∈ ((t.elem c p).port r).q, x.tok.isData = true → x.tok.set ≠ 0 → x.tok.set = a.set → x.sealed = true))
      ∧ (∀ c p r, a.src = .ranked c p r → (s.launch a.launch).elastic = false → r < 3 → a.quenched = true →
        ((t.elem c p).port r).segReqs = ((s.elem c p).port r).segReqs.filter (· ≠ a.req)
        ∧ ((t.elem c p).port r).segSets = a.set :: ((s.elem c p).port r).segSets)
      ∧ (∀ c, a.src = .dport c → (t.elem c 62).cmds = (s.elem c 62).cmds.map fun x =>
        if a.req ∈ x.reqs then
          let left := x.reqs.filter (· ≠ a.req)
          let low := match x.low, a.low with
            | some u, some v => some (min u v)
            | u, v => u.or v
          let v := if a.kind = .settle then x.val else if a.kind = .oldest then low.getD (2 ^ 63) else a.set.toNat + a.code * 2 ^ 24
          { x with reqs := left, low := low, ans := if left = [] then some { width := 1, pay := BitVec.ofNat 512 (v % 2 ^ 64) } else none }
        else x)
      ∧ (∀ d n g, a.src = .belfry d n g → mgetD t.belfry d [] = (mgetD s.belfry d []).map fun o =>
        if o.id = n then { o with asks := o.asks.map fun q => if q.1 = g then (g, some a.quenched) else q } else o)
      ∧ (∀ c n k, a.src = .actor c n → (s.slot c n).park = some k → k.done = false → k.kind = .rsend → k.on = a.req →
        (t.slot c n).park = some { k with done := true, flag := a.quenched })

/-- R177 to R180: a share reports as its frontier the lowest sequence that has not settled; the QUENCHED entry of the lowest sequence is released when every frontier
has passed it, one at a time, as a notice with its fields in their places, and retires; the flue writes notices into the ring in order while it has room. -/
def Obligations.NoticesLeaveInAscendingSequence : Prop :=
  (∀ (s : State) (l share : Nat) (k : Launch), mget s.launches l = some k → k.phase ≠ .saved →
    let live := (s.entries.filter fun e => e.2.launch == l && e.2.share == share && !e.2.quenched).map (·.2.s)
    let coming := if k.phase = .retiring then [] else ((s.replicas l share).filter fun r => !r.2.2).map fun r => r.2.1 * k.img.ndecl + r.1
    ∃ t f, exec (.frontierReport l share) s = .next t ∧ t = { s with launches := t.launches } ∧ mget (t.launch l).frontier share = some f
      ∧ (f = none ↔ live = [] ∧ coming = []) ∧ ∀ m ∈ f, m ∈ live ++ coming ∧ ∀ n ∈ live ++ coming, m ≤ n)
  ∧ (∀ (s : State) (l die : Nat) (e : DEntry), (mget s.launches l).isSome = true → s.firstQuenched l = some (die, e) → (s.launch l).flue.length < 512 →
    ((s.launch l).settledBelow e.u = true → ∃ t n, exec (.noticeRelease l) s = .next t ∧ (t.launch l).flue = (s.launch l).flue ++ [n]
      ∧ (t.launch l).released = (s.launch l).released + 1 ∧ t.entry die l e.set = none
      ∧ fld n.w0 0 24 = e.set.toNat ∧ fld n.w1 0 6 = e.elem % 64 ∧ fld n.w1 6 2 = e.port % 4
      ∧ (e.cause < 16 → e.share < 4 → e.pset < 64 → e.lpg < 16 → fld n.w0 24 8 = e.cause ∧ fld n.w0 32 16 = e.worth.toNat
          ∧ fld n.w0 48 2 = e.share ∧ fld n.w0 50 14 = e.pset ∧ fld n.w1 8 4 = 0 ∧ fld n.w1 12 4 = e.lpg ∧ fld n.w1 16 48 = e.u % 2 ^ 40)
      ∧ n.w2 = word e.time)
    ∧ ((s.launch l).settledBelow e.u = false → exec (.noticeRelease l) s = .next s))
  ∧ (∀ (s : State) (l : Nat), s.firstQuenched l = none → exec (.noticeRelease l) s = .next s)
  ∧ ∀ (s : State) (l va : Nat) (n : Notice) (rest : List Notice), (mget s.launches l).isSome = true → (s.launch l).flue = n :: rest →
    s.noteArea l = some va → (s.launch l).phase ≠ .saved → Fresh s (.flueWrite l) →
    let x := (s.launch l).ctx
    let wr := (s.launch l).wr
    let done (t : State) : Host.Outcome State Fault Refusal := .next (served t (.flueWrite l))
    ∀ s₁ s₂ cap rd pc pr, unitRead none x va 8 s = .ok ((cap, pc), s₁) → unitRead none x (va + 16) 8 s₁ = .ok ((rd, pr), s₂) →
    (leVal cap = 0 ∨ leVal rd + leVal cap ≤ wr → exec (.flueWrite l) s = done s₂)
    ∧ (∀ s₃ s₄, leVal cap ≠ 0 → wr < leVal rd + leVal cap →
      unitWrite none x (va + 64 + 32 * (wr % leVal cap)) false (bytesOf [n.w0, n.w1, n.w2, word wr]) s₂ = .ok ((), s₃) →
      unitWrite none x (va + 8) false (bytesOf [word (wr + 1)]) (s₃.pkgRelease x (va + 8)) = .ok ((), s₄) →
      exec (.flueWrite l) s = done (s₄.modLaunch l fun k => { k with flue := rest, wr := wr + 1 }))

/-! ### Launches and pre-emption -/

namespace Sys2Proof.Claims
open Sys2Proof.Machine

/-- A packet stands behind the others of a queue and its append is counted; nothing but the context changes. -/
def Appended (s t : State) (x q : Nat) (pkt : List Word) : Prop :=
  mgetD (t.ctx x).queues q [] = mgetD (s.ctx x).queues q [] ++ [pkt] ∧ mgetD (t.ctx x).counts q 0 = mgetD (s.ctx x).counts q 0 + 1
    ∧ (∀ r, r ≠ q → mgetD (t.ctx x).queues r [] = mgetD (s.ctx x).queues r []) ∧ ∀ y, y ≠ x → t.ctx y = s.ctx y
/-- A launch is stopped for a pre-emption: its sources stop. -/
def Stops (s t : State) (l : Nat) (why : Preempt) : Prop :=
  (t.launch l).phase = .stopping ∧ (t.launch l).why = some why ∧ (t.launch l).places = (s.launch l).places
    ∧ ∀ c ∈ s.hosts l, (t.core c).srcRun = false
/-- Another context waits for pages. -/
def OthersWait (s : State) (x : Nat) : Prop := ∃ y, y < 16 ∧ y ≠ x ∧ s.waitsPages y = true
/-- The state that a launch's completion is written in: its dirty lines are at home and what it held is free. -/
def freed (s : State) (l : Nat) : State := (s.flushCores (s.hosts l)).freeLaunch l
/-- The completion word is written and the packet leaves its queue. -/
def Completes (s t : State) (l status code : Nat) : Prop :=
  ∃ u, completion (s.launch l).ctx (s.launch l).done status code (freed s l) = .ok ((), u) ∧ t = u.popQueue (s.launch l).ctx (s.launch l).cq
/-- A core as admission starts it: its page, its ARGS in the first 128 bytes with those words FULL, its sources let run. -/
structure StartedCore (s : State) (l : Nat) (pkt : List Word) (c : Nat) : Prop where
  page : ∃ o, (s.core c).own = some o ∧ o.launch = l
  args : (s.core c).sp = bsetN [] 0 (bytesOf ((pkt.drop 16).take 16))
  full : (s.core c).full = List.range 16
  runs : (s.core c).srcRun = true

end Sys2Proof.Claims

/-- R232, R398, R400, R429: LAUNCH and the doorbell append their 256 bytes to the queue: LAUNCH receives the append's ordinal, waits while the queue is full, and takes
trap 0x2A of a reference off a word; a doorbell of a full queue is dropped with a record. ADMIT gives a checked image a number or says why not. A guest's HINV drops the
entries it names from every handle cache. -/
def Sys2Proof.Claims.PacketsAndImagesAreTakenIn : Prop :=
  (∀ (s : State) (f : XForm) (x va pol : Nat) (il : Bool) (b : List Byte),
    let c := s.here.1
    let n := s.here.2
    let r := reg s f.sa
    let q := (f.ctl.setWidth 3).toNat
    let bad : Stop := .trap 0x2A (word (fld r 52 12)) (word (fld r 0 52))
    sideRef bad c r 256 [1] false s = .ok (.mem x va pol il, s) →
    (va % 8 ≠ 0 → exec (.launch f) s = .next (s.takeTrap c n 0x2A (word (fld r 52 12)) (word (fld r 0 52))))
    ∧ (va % 8 = 0 → s.queueRoom (s.ctxOf c) q = false → ∃ t, exec (.launch f) s = .next t ∧ Waits s t .launchQueue)
    ∧ (va % 8 = 0 → s.queueRoom (s.ctxOf c) q = true → readLoc c (.mem x va pol il) 256 s = .ok ((b, none), s) →
      ∃ t, exec (.launch f) s = .next t ∧ WentOn s t ∧ Appended s t (s.ctxOf c) q (wordsOf 32 b)
        ∧ (t.slot c n).reg f.dst.toNat = word (mgetD (s.ctx (s.ctxOf c)).counts q 0)))
  ∧ (∀ (s : State) (x q : Nat) (a : Word) (b : List Byte), x < 16 → fld (s.ctx x).ctl 0 1 = 1 → q < 8 → a.toNat % 8 = 0 →
    s.ctxRead x a.toNat 256 = some b →
    (s.queueRoom x q = true → ∃ t, exec (.doorbell x q a) s = .next t ∧ Appended s t x q (wordsOf 32 b) ∧ t = { s with ctxs := t.ctxs })
    ∧ (s.queueRoom x q = false →
      exec (.doorbell x q a) s = .next (s.dropRecord x q 1 ((wordsOf 32 b).getD 0 0) ((wordsOf 32 b).getD 7 0))))
  ∧ (∀ (s : State) (x q : Nat) (a : Word), x < 16 → fld (s.ctx x).ctl 0 1 = 1 → q < 8 → (a.toNat % 8 ≠ 0 ∨ s.ctxRead x a.toNat 256 = none) →
    exec (.doorbell x q a) s = .next (s.dropRecord x q 2 0 0))
  ∧ (∀ (s : State) (x : Nat) (a : Word), x < 16 → fld (s.ctx x).ctl 0 1 = 1 →
    (∀ why, s.checkImage x a.toNat = .error why → ∃ t, exec (.admitImage x a) s = .next t ∧ t = { s with ctxs := t.ctxs }
      ∧ (t.ctx x).admitR = word (2 ^ 63 + why * 2 ^ 56))
    ∧ (∀ k n, s.checkImage x a.toNat = .ok k → s.teamNumber = some n → ∃ t, exec (.admitImage x a) s = .next t
      ∧ mget t.images n = some k ∧ (t.ctx x).admitR = word n ∧ ∀ m, m ≠ n → mget t.images m = mget s.images m)
    ∧ (∀ k, s.checkImage x a.toNat = .ok k → s.teamNumber = none → ∃ t, exec (.admitImage x a) s = .next t
      ∧ (t.ctx x).admitR = word (2 ^ 63 + 4 * 2 ^ 56)))
  ∧ ∀ (s : State) (x : Nat) (v : Word), ∃ t, exec (.guestHinv x v) s = .next t
    ∧ ∀ c h, h ∈ (t.core c).handles ↔ h ∈ (s.core c).handles ∧ ¬ (h.ctx = x ∧ (fld v 12 1 = 1 ∨ fld v 0 12 = h.idx))

/-- R381, R398, R399, R401: the packet at the head of a queue is judged before its launch begins: one that waits for a BUSY handle stays, one whose DONE is invalid is dropped with a
record, one that is refused gives its status and leaves its queue. One that passes, with room for its pages and its context's turn, becomes a launch whose pages are placed
and started. Saved launches to be readmitted come first. -/
def Sys2Proof.Claims.AdmissionStartsTheHeadOfAQueue : Prop :=
  ∀ (s : State) (x q : Nat),
    (s.nextPacket x q = none → exec (.admission x q) s = .next s)
    ∧ ∀ pkt, s.nextPacket x q = some pkt →
      (s.readmits x ≠ [] → exec (.admission x q) s = .next s)
      ∧ (s.readmits x = [] → Fresh s (.admission x q) →
        let done (t : State) : Host.Outcome State Fault Refusal := .next (served t (.admission x q))
        (judge x pkt s = .ok (.wait, s) → exec (.admission x q) s = done s)
        ∧ (judge x pkt s = .ok (.drop, s) →
          exec (.admission x q) s = done ((s.dropRecord x q 3 (pkt.getD 0 0) (pkt.getD 7 0)).popQueue x q))
        ∧ (∀ status u, judge x pkt s = .ok (.refuse status, s) →
          completion x ((s.refVA x (pkt.getD 7 0) 8 8).getD 0) status 0 s = .ok ((), u) → exec (.admission x q) s = done (u.popQueue x q))
        ∧ (∀ k ps va u, judge x pkt s = .ok (.go, s) → mget s.images (fld (pkt.getD 0 0) 0 32) = some k → s.packetPlan pkt = some ps →
          s.myTurn x = true → k.osnew.isEmpty = true → (∀ p ∈ k.psets, p.stream = []) →
          va = (s.refVA x (pkt.getD 5 0) (pkt.getD 6 0).toNat 1).getD 0 → zeroArea x va (pkt.getD 6 0).toNat s = .ok ((), u) →
          ∃ t, exec (.admission x q) s = .next t ∧ mget (t.ctx x).active q = some u.nextId
            ∧ (t.launch u.nextId).img = k ∧ (t.launch u.nextId).pkt = pkt ∧ (t.launch u.nextId).places = ps
            ∧ (t.launch u.nextId).dies = packetDies pkt ∧ (t.launch u.nextId).phase = .running ∧ (t.launch u.nextId).failed = none
            ∧ ∀ p ∈ ps, StartedCore t u.nextId pkt p.core))

/-- R43, R186, R402, R426, R427: once every sink outside the notice path holds eos and every engine is idle, the sets still LIVE retire with fate bit 0; once the notices are written and
every sink holds eos, the result digest is written, the launch's pages and entries are freed, the completion word is written and the packet leaves its queue. A team
stopped by a fault frees them at once, with its own status; one whose image is lost leaves its save area zero before its completion word; one whose
output windows hold poison is stopped with error 0x41 and a digest of zeros. A trap record that still waits is written first (DEDUCED, log 103). -/
def Obligations.LaunchesEndAndFreeTheirPages : Prop :=
  ∀ (s : State) (l : Nat) (k : Launch), mget s.launches l = some k →
    let path := s.noticePath l
    let live (e : Nat × DEntry) : Prop := e.2.launch = l ∧ e.2.quenched = false
    (k.phase = .running → k.failed = none → s.enginesIdle l = true →
      (∀ n ∈ s.sinks l path, n ∈ path ∨ s.holdsEos n = true ∨ s.noting n = true) →
      ∃ t, exec (.launchEndStage1 l) s = .next t ∧ (t.launch l).phase = .retiring ∧ (∀ e ∈ t.entries, e ∈ s.entries ∧ ¬ live e))
    ∧ ((∃ n ∈ s.sinks l path, n ∉ path ∧ s.holdsEos n = false ∧ s.noting n = false) → exec (.launchEndStage1 l) s = .next s)
    ∧ ((s.farPending l = true ∨ (s.ctx k.ctx).trapQ ≠ []) → exec (.launchEnd l) s = .next s)
    ∧ (s.farPending l = false → (s.ctx k.ctx).trapQ = [] → Fresh s (.launchEnd l) →
      let done (t : State) : Host.Outcome State Fault Refusal := .next (served t (.launchEnd l))
      (∀ status code t, k.failed = some (status, code) → status ≠ 7 → Completes s t l status code → exec (.launchEnd l) s = done t)
      ∧ (∀ code u t, k.failed = some (7, code) →
        zeroArea k.ctx k.save (k.pkt.getD 6 0).toNat (s.flushCores (s.hosts l)) = .ok ((), u) → Completes u t l 7 code →
        exec (.launchEnd l) s = done t)
      ∧ (k.failed = none → k.phase = .retiring → k.flue = [] → s.firstQuenched l = none → s.enginesIdle l = true →
        (∀ n ∈ s.sinks l path, s.holdsEos n = true) →
        ∀ b bad u v, windowBytes (fun _ va n => unitRead none k.ctx va n) k (s.flushCores (s.hosts l)) = .ok ((b, bad), u) →
        (∀ t, bad = none → unitWrite none k.ctx k.save false (Sha.sha512 b) u = .ok ((), v) → Completes v t l 0 0 →
          exec (.launchEnd l) s = done t)
        ∧ (bad ≠ none → unitWrite none k.ctx k.save false (List.replicate 64 0) u = .ok ((), v) →
          ∃ t, exec (.launchEnd l) s = .next t ∧ (t.launch l).failed = some (6, 0x41))))
    ∧ mget (freed s l).launches l = none
    ∧ (∀ c q o, mget (freed s l).cores c = some q → q.own = some o → o.launch ≠ l)
    ∧ (∀ e ∈ (freed s l).entries, e.2.launch ≠ l) ∧ (∀ r ∈ (freed s l).dreqs, r.2.launch ≠ l)

/-- R380, R397, R403, R410: a slice's expiry while another context waits, a firing parked in MWAIT past TEAMWAIT while its tenant waits, and an allocator's move each stop the
sources of the team; a drain that outlasts its budget halts it. -/
def Sys2Proof.Claims.PreemptionsStopTheSources : Prop :=
  (∀ (s : State) (x : Nat), fld (s.ctx x).slice 0 32 ≠ 0 → OthersWait s x →
    (∃ l k, mget s.launches l = some k ∧ k.ctx = x ∧ k.phase = .running ∧ k.failed = none) →
    ∃ t, exec (.sliceExpiry x) s = .next t ∧ t.turn = some x
      ∧ ∀ l k, mget s.launches l = some k → k.ctx = x → k.phase = .running → k.failed = none →
          (t.launch l).phase = .stopping ∧ (t.launch l).why = some .slice ∧ ∀ c ∈ s.hosts l, (t.core c).srcRun = false)
  ∧ (∀ (s : State) (x : Nat), fld (s.ctx x).slice 0 32 = 0 ∨ ¬ OthersWait s x → exec (.sliceExpiry x) s = .next s)
  ∧ (∀ (s u : State) (c n : Nat) (o : Owner) (k : Launch) (p : Park), (s.core c).own = some o → mget s.launches o.launch = some k →
    k.phase = .running → k.failed = none → (s.slot c n).park = some p → p.kind = .mwait → p.done = false → s.waitsPages k.ctx = true →
    (s.swapWatches o.launch = some u → ∃ t, exec (.teamSwap c n) s = .next t ∧ Stops u t o.launch .swap)
    ∧ (s.swapWatches o.launch = none → exec (.teamSwap c n) s = .next s))
  ∧ (∀ (s : State) (l die : Nat) (m : List (Nat × Nat)) (k : Launch), mget s.launches l = some k → k.phase = .running → k.failed = none →
    (∀ p ∈ m, dieOf p.1 = die ∧ dieOf p.2 = die) → s.placesOk l k.dies (movedPlaces k.places m) = true →
    ∃ t, exec (.allocatorMove l die m) s = .next t ∧ Stops s t l (.move m))
  ∧ ∀ (s : State) (l : Nat) (k : Launch), mget s.launches l = some k → k.phase = .stopping → k.failed = none →
    (s.quiescent l = false → exec (.drainBudgetExpiry l) s = .next { s with launches := mset s.launches l { k with phase := .halted } })
    ∧ (s.quiescent l = true → exec (.drainBudgetExpiry l) s = .next s)

/-- R64: a token's image in memory is its header word and its payload, one word or eight; reading it gives the token back, and a header word with
a bit of [63:48], kind 6 or width 0b11 is refused. -/
def Sys2Proof.Claims.TokenImagesReadBack : Prop :=
  (∀ (k : Token) (rest : List Word), k.width < 3 → k.lvl < 8 → (k.width = 2 ∨ k.pay.toNat < 2 ^ 64) → readToken (k.image ++ rest) = some (k, rest))
  ∧ (∀ k : Token, k.image.length = if k.width = 2 then 9 else 2)
  ∧ ∀ (h : Word) (rest : List Word), (fld h 48 16 ≠ 0 ∨ fld h 0 3 = 6 ∨ fld h 46 2 = 3) → readToken (h :: rest) = none

/-- R381, R383, R403, R404, R426: a team that is quiescent, or halted with its requests settled, is saved: its cores and damper entries are free and its pages, entries and filters are kept. It is
asked back by a watchpoint or the rotation, its watchpoints go, and it resumes at a new placement, with its entries at the dampers of its new dies. What is QUENCHED in a settle buffer is not saved, but for a store that enters its block as zeros (R187, R226). A save that is lost, or an image that fails the
Q9's checks or those of R64, ends the team with status 7; whether the Q9 finds its own is a free value (DEDUCED, log 50). -/
def Sys2Proof.Claims.TeamsAreSavedReadmittedAndResumed : Prop :=
  (∀ (s : State) (l : Nat) (k : Launch), mget s.launches l = some k → k.failed = none → k.why = some .slice ∨ k.why = some .swap →
    ((k.phase = .stopping ∧ s.quiescent l = true) ∨ (k.phase = .halted ∧ s.settledFor l true = true) →
      ∃ t, exec (.saveTeam l) s = .next t
        ∧ (Config.saveOutcome s.tick ≠ .lost → (t.launch l).phase = .saved ∧ (t.launch l).saved.map (·.place) = k.places
          ∧ (t.launch l).savedEntries = (s.entries.filter fun e => e.2.launch == l).map (·.2) ∧ (∀ e ∈ t.entries, e.2.launch ≠ l)
          ∧ (∀ p ∈ (t.launch l).saved, ∀ e ∈ p.core.elems, ∀ x ∈ e.2.settle, x.quenched = true → ∃ a i b, x.eff = .store a i b)
          ∧ ∀ c q o, mget t.cores c = some q → q.own = some o → o.launch ≠ l)
        ∧ (Config.saveOutcome s.tick = .lost → t = { s with launches := mset s.launches l { k with failed := some (7, 0) } }))
    ∧ (k.phase = .running ∨ k.phase = .saved ∨ k.phase = .retiring → exec (.saveTeam l) s = .next s))
  ∧ (∀ (s : State) (l : Nat) (slice : Bool) (k : Launch), mget s.launches l = some k → k.phase = .saved →
    (k.readmit ≠ none ∨ (slice = true ∧ ∃ t, s.turn = some t ∧ ∀ y, y < 16 → rotation t k.ctx ≤ rotation t y ∨ s.wants y = false) →
      exec (.readmit l slice) s = .next { s with
        watches := s.watches.filter fun w => w.team ≠ some l
        launches := mset s.launches l { k with readmit := k.readmit.or (some s.tick) } })
    ∧ (k.readmit = none → slice = false → exec (.readmit l slice) s = .next s))
  ∧ ∀ (s : State) (l : Nat) (k : Launch), mget s.launches l = some k → k.phase = .saved →
    ((s.readmits k.ctx).head? ≠ some l → exec (.resumeTeam l) s = .next s)
    ∧ ∀ ps, (s.readmits k.ctx).head? = some l → s.myTurn k.ctx = true → s.plan k.img (s.resumeDies l) (packetInsts k.pkt) = some ps →
      (∀ d share, (s.resumeDies l)[share]? = some d →
        (s.entries.filter (·.1 == d)).length + (k.savedEntries.filter (·.share == share)).length ≤ 16384) →
      ∃ t, exec (.resumeTeam l) s = .next t
        ∧ (∀ pages, Config.imageFails s.tick = false → s.readImage l = some pages → (t.launch l).phase = .running ∧ (t.launch l).places = ps ∧ (t.launch l).dies = s.resumeDies l
          ∧ (t.launch l).saved = []
          ∧ t.entries = s.entries ++ k.savedEntries.map (fun e => ((s.resumeDies l).getD e.share 0, e))
          ∧ ∀ w ∈ t.watches, w.team ≠ some l)
        ∧ (Config.imageFails s.tick = true ∨ s.readImage l = none → (t.launch l).failed = some (7, 0) ∧ t.entries = s.entries)

/-! ### What instructions leave alone, and the form of memory -/

namespace Sys2Proof.Claims
open Sys2Proof.Machine

/-- The registers that an actor's instruction may write; none for an instruction that is not an actor's, and for a write of a register
through SREG, which may reset a context. -/
def actorDsts (i : Instr) : Option (List Nat) :=
  match i with
  | .loop f => some [f.dst.toNat]
  | .br _ | .bcc _ | .ways _ | .hinv _ | .bar _ | .drain _ | .fenceq _ | .firend _ | .mfence | .nop | .unassignedMajorOpcode _
  | .watchdog => some []
  | .ld f | .ldf f | .ldfe f | .aadd f | .aand f | .aor f | .axor f | .amin f | .amax f | .axchg f | .afadd f | .cas f | .acq f | .mwait f
  | .watch f | .ramo f => some [f.dst.toNat]
  | .st _ | .stef _ | .bind _ | .rel _ | .rst _ => some []
  | .rsend _ | .coll _ | .xfer _ | .xim2c _ | .gath _ | .orelease _ | .mma _ | .mmaq _ | .minj _ | .maccz _ | .maccst _ | .rdisp _ | .rcomb _
  | .send _ | .tlbi _ | .digest _ => some []
  | .oclaim f | .mfix f | .rcap f | .rrec f | .cfgw f | .launch f => some [f.dst.toNat]
  | .sysc f => some [f.dst.toNat]
  | .sreg f => if f.ctl.getLsbD 12 then none else some [f.dst.toNat]
  | .dcas f | .amove f | .mchk f | .note f => some [f.dst.toNat, (f.dst + 1).toNat]
  | .recv f | .peek f =>
    some ((List.range (if f.ctl.extractLsb' 4 2 = 2 then 8 else 1)).map (f.dst.toNat + ·) ++ if f.ctl.getLsbD 6 then [f.sd.toNat] else [])
  | i => (scalarDst i).map fun r => [r.toNat]
/-- No register of the register map but the trap ring's write cursor has changed, nor a page's owner, a key or a package register. -/
def PrivilegedKept (s t : State) : Prop :=
  (∀ y, t.ctx y = { s.ctx y with trapwr := (t.ctx y).trapwr, queues := (t.ctx y).queues, counts := (t.ctx y).counts, colls := (t.ctx y).colls,
                                 ptbUse := (t.ctx y).ptbUse, htbUse := (t.ctx y).htbUse, trapQ := (t.ctx y).trapQ, trapX := (t.ctx y).trapX })
  ∧ t.owners = s.owners ∧ t.keyTab = s.keyTab ∧ t.poda = s.poda ∧ t.plim = s.plim ∧ t.pzaddr = s.pzaddr ∧ t.pzBusy = s.pzBusy
  ∧ t.sysKeys = s.sysKeys ∧ t.qpairs = s.qpairs ∧ t.requesters = s.requesters ∧ t.images = s.images

end Sys2Proof.Claims

/-- R42, R70, R123, R212, R407: an actor's instruction writes no register of any slot but its own destinations, records flags at no position but 60 of
its core, and changes no register that only the supervisor may write; an element's firing writes no actor's register, records flags at no
other element, and changes none of those either. -/
def Sys2Proof.Claims.AgentsTouchOnlyWhatTheyName : Prop :=
  (∀ (s t : State) (i : Instr) (dsts : List Nat), actorDsts i = some dsts → exec i s = .next t →
    (∀ d m r, (d, m) ≠ s.here ∨ r ∉ dsts → (t.slot d m).reg r = (s.slot d m).reg r)
    ∧ (∀ d p, d ≠ s.here.1 ∨ p ≠ 60 → (t.elem d p).flags = (s.elem d p).flags) ∧ PrivilegedKept s t)
  ∧ ∀ (s t : State) (i : Instr) (v : BitVec 19), encodeElem i = some v → exec i s = .next t →
    (∀ d m r, (t.slot d m).reg r = (s.slot d m).reg r)
    ∧ (∀ d p, (d, p) ≠ s.hereElem → (t.elem d p).flags = (s.elem d p).flags) ∧ PrivilegedKept s t

/-- R43, R422: right after reset memory has its canonical form, and every line is marked zero and lists no byte. -/
def Obligations.ResetMemoryIsCanonicalAndZero : Prop := Memory.wf State.reset = true ∧ Memory.zeroMarks State.reset

/-- The model's invariant (DESIGN CHOICE): every step keeps the canonical form of memory, addresses strictly rising and no entry
equal to the zero that an unlisted address reads as, so that equal memories are equal data. -/
def Obligations.StepKeepsMemoryCanonical : Prop :=
  ∀ s t : State, Memory.wf s = true → step s = .next t → Memory.wf t = true

/-! ### Statements of several parts -/

/-- R432, R434: While power is off, a step that answers a next state performs a bring-up event or nothing; firmware whose key
has the fused hash and whose signature verifies turns the package on with every byte zero and the pod address set, and lets the
supervisor act if it was verified; other firmware holds it in reset; a step of a package held in reset, or tripped, is the
fault of that name. -/
def Obligations.BringUpTurnsThePackageOn : Prop :=
  Claims.BringUpComesFirst
  ∧ Claims.HeldOrTrippedPackageStops
  ∧ Claims.BringUpTurnsOn

/-- R45, R72, R218, R354, R363, R418, R437: When the next move is a core's sequencer with a firing that runs, and the word at
its slot's program counter decodes to i, and i reads no poisoned register and waits for no register or answer that an earlier
instruction left outstanding, step is exec of i at the state with that move taken and that slot as the agent; an i that does
wait does not issue, nor does FIREND while anything of its firing is to come back; the next command of a configuration
network's stream is run in the same way; a row that stands for a whole step of an engine or an outside party is run as it is
laid down. -/
def Obligations.StepRunsTheDecodedInstruction : Prop :=
  Claims.StepRunsTheDecodedActorWord
  ∧ Claims.AnInstructionWaitsForWhatItsFiringAwaits
  ∧ Claims.StepRunsTheDecodedCommand
  ∧ Claims.StepRunsAnEventRow

/-- R70, R72, R73, R363, R411: A word of a running firing that decodes to a trap code is not performed: step takes that trap;
SREG and TLBI outside a system actor decode to code 2 and MINJ outside debug mode to code 3; taking a trap finishes the slot,
frees the sequencer, keeps its registers and every other slot but for what its record writes, and stops the team with status 6
and the code unless it was stopped already. -/
def Obligations.RefusedWordsTrapAndStopTheTeam : Prop :=
  Claims.RefusedWordTraps
  ∧ Claims.PreciseTrapEndsTheFiringAndStopsTheTeam
  ∧ Claims.SystemWordsTrapOutsideTheirMode

/-- R51, R57, R58, R59, R65, R66, R67, R68, R69: For every well-formed actor instruction i with word w, a word of an unassigned
code included, decoding w in a system actor in debug mode gives i with every field as it was; for every element operation i
with value v of field 0, decoding v gives i. -/
def Obligations.InstructionsDecodeFromTheirEncoding : Prop :=
  Claims.ActorWordsDecodeToThemselves
  ∧ Claims.ElementOperationsDecodeToThemselves

/-- R46, R47, R48, R49, R65, R69: In every mode, a word that decodes to an instruction is the encoding of that instruction, and
every 32-bit command is the encoding of the row that it decodes to. -/
def Obligations.DecodedWordsEncodeBack : Prop :=
  Claims.DecodedActorWordsEncodeBack
  ∧ Claims.CommandsEncodeBack

/-- R370, R371: For every state and every type that they take, ADD, SUB, MUL, MULH, DIV, REM, AND, OR, XOR, SHL, SHR, SAR, MIN,
MAX, SLT, SEL, POPC, CLZ, MOV and the immediate forms answer the next state in which DST holds the result of R370 and R371,
wrapped or saturated and extended by the type, overflow or invalid is recorded at position 60 where they say so, and the
program counter stands at the next word; nothing else changes. -/
def Obligations.IntegerInstructionsOfActors : Prop :=
  Claims.IntegerAddSubMulAreExactThenFitted
  ∧ Claims.IntegerHighProductAndDivision
  ∧ Claims.BitwiseAndMoves
  ∧ Claims.ShiftsByTheWidthOrMoreLeaveZerosOrTheSign
  ∧ Claims.ComparesAndCounts

/-- R126, R127, R137, R138, R372: FADD, FSUB, FMUL, FFMA, FMIN and FMAX write the result of the element operation zero-extended
and record its flags; FCMP writes one bit of four, the unordered one exactly when an operand is a NaN, which is invalid; FCLASS
writes one bit of nine; CVT converts the low bits of SA once, under the scale when USC is set. -/
def Obligations.FloatInstructionsAndConversionsOfActors : Prop :=
  Claims.FloatInstructionsWriteTheRoundedResult
  ∧ Claims.FloatCompareAndClassWriteOneBit
  ∧ Claims.ConvertWritesTheConvertedValue

/-- R42, R70, R123, R370, R371, R372, R407: A scalar instruction changes one register, the flags at position 60 and the slot's
counters; an actor's instruction writes no register of any slot but its destinations, records flags at no position but 60 of
its core, and leaves owners, keys, images and every register of R407 but the trap ring's cursor; an element's firing writes no
actor's register, no other element's flags and none of those. A write of a register through SREG is left out. -/
def Obligations.InstructionsTouchOnlyWhatTheyName : Prop :=
  Claims.ScalarInstructionsChangeOneRegisterAndFlags
  ∧ Claims.AgentsTouchOnlyWhatTheyName

/-- R231, R414, R416, R418, R421: The use of a handle entry, or of a translation, after a use gives the same and changes
nothing; a walk that answers gives a well-formed leaf of its level whose page is tagged and owned by the context, under a key
that it may use, and writable for a write. -/
def Obligations.HandlesAndTranslationsAreKeptAndChecked : Prop :=
  Claims.HandleEntryIsReadOnceThenCached
  ∧ Claims.TranslationIsKept
  ∧ Claims.WalkGivesOnlyPermittedLeaves

/-- R67, R212, R215, R217, R228, R234, R414: LD and ST of a scratchpad or of memory, at a place that the handle and offset
name, inside its bounds and aligned, answer the next state: LD with the value as its format is held in DST, ST with the bytes
of SB's value written there; with the values of the raw and of the declared formats. -/
def Obligations.LoadsAndStoresOfActors : Prop :=
  Claims.LoadAndStoreOfAScratchpad
  ∧ Claims.LoadAndStoreOfMemory
  ∧ Claims.LoadedAndStoredValuesByFormat

/-- R67, R215, R228, R234: For every place that the handle and offset of an ST name, each byte outside the stored ones reads as
before, in every scratchpad and in memory as the core reads it. -/
def Obligations.StoresChangeOnlyTheirBytes : Prop :=
  Claims.ScratchpadStoreChangesOnlyItsBytes
  ∧ Claims.MemoryStoreChangesOnlyItsBytes

/-- R236, R237, R238, R239, R240, R241, R242: Each single-word atomic of R238 writes its result where its handle and offset
name, in a scratchpad or in memory, and delivers the old value; DCAS and AMOVE do the same with two words of a scratchpad. -/
def Obligations.AtomicsUpdateTheWordAtItsHome : Prop :=
  Claims.AtomicResults
  ∧ Claims.AtomicsUpdateTheHome
  ∧ Claims.DoubleWordAtomicsInAScratchpad

/-- R257, R258, R259: MWAIT delivers a word at or above its bound, and below it registers a waiter and parks; WATCH registers a
watchpoint at its slice or cancels the one it names; an append that a full queue held enters it once there is room, oldest
first; one whose packet could not be read is dropped with a CLASS 6 record. -/
def Obligations.WaitersAndWatchpoints : Prop :=
  Claims.MwaitAnswersOrWaits
  ∧ Claims.WatchpointsAndHeldAppends

/-- R285, R288, R298, R300, R301, R302, R304: A request that passes its checks enters its queue at the tail, behind the fences
there, and the firing goes on; a full queue makes it wait; DRAIN goes on when no request of its path is open and waits while
one is. -/
def Obligations.CopyRequestsAreQueuedAndAwaited : Prop :=
  Claims.CopyRequestsEnterTheirQueue
  ∧ Claims.DrainWaitsForTheRequestsOnItsPath

/-- R317, R318, R319, R321, R322, R324, R325, R326, R437, R450: MMA, MMAQ, MINJ, MACCZ, MACCST, MCHK and MFIX that pass their
checks enter the queue at its tail and the firing goes on, with the registers that MCHK and MFIX deliver awaited; a full queue
makes each wait and a failed check traps; MFENCE goes on when the queue is empty, with the lines written by completed MACCSTs
dropped, and waits before. -/
def Obligations.MatrixWordsEnterTheSequencerQueue : Prop :=
  Claims.MatrixWordsAreQueued
  ∧ Claims.MatrixFenceWaitsForTheQueue

/-- R338, R339, R340, R341, R344, R345, R347, R348, R361: RCAP, RDISP, RCOMB and RREC take their place in their die's queue in
the order of issue, are accepted once there is room, and are parked until the Belfry has performed them; RCAP publishes its
share's run, the merge waits for every share, and once merged and its quenches answered gives the firing its result; a run
keeps every candidate in the order of the key; a move of a Belfry sends or combines one token of the RDISP or RCOMB at the
head, or reads the record that an RREC names. -/
def Obligations.RoutingInstructionsOfABelfry : Prop :=
  Claims.RoutingInstructionsEnterTheQueueInTurn
  ∧ Claims.RcapPublishesThenDeliversTheMerge
  ∧ Claims.RunsAreSortedByTheKey
  ∧ Claims.RoutingInstructionsRunInTurn

/-- R28, R29, R253, R360, R368, R374: NOTE delivers the next notice, or bit 63 without WAIT; FIREND returns its slot to idle,
or finishes it with DONE; a free sequencer with candidates takes one of them, starting an idle slot at its entry with its held
registers kept and resuming a parked one where it stood. -/
def Obligations.NotesEndsAndSchedulingOfFirings : Prop :=
  Claims.NoteAndFirend
  ∧ Claims.SchedulingRoundTakesOneCandidate

/-- R408, R409, R411, R412, R413, R418, R419, R428: SREG delivers the old value and writes what R409 accepts, else trap 0x2B;
SYSC writes a CLASS 5 record and delivers its ordinal, waits for room and for a page that does not translate, and counts as
lost without a ring; TLBI leaves no translation that it names and keeps the others, and puts the table that PTB names in force;
DIGEST writes the SHA-512 of its bytes at SB. -/
def Obligations.SystemInstructions : Prop :=
  Claims.SystemRegisterInstruction
  ∧ Claims.SystemCallWritesItsRecord
  ∧ Claims.TlbiDropsTheTranslationsItNames
  ∧ Claims.DigestWritesTheHashOfItsBytes

/-- R25, R37, R133, R166, R167: Outputs leave at once when every driven output has room, and wait else; at a commit point they
are parked with a commit request unless the set is 0 or the last sealed there (DEDUCED, log 37); then what waits to leave
leaves first, and the oldest decided effect is performed, or discarded when its set is QUENCHED. -/
def Obligations.OutputsLeaveInOrder : Prop :=
  Claims.OutputsLeaveTogetherOrAreParked
  ∧ Claims.ParkedEffectsHappenInOrder

/-- R23, R24, R26, R54, R132: A token that arrives joins the end of its buffer and nothing else changes, but that an eos
removes a resident of count 15; a head is removed once consumed, or stays resident for its sticky count; the set of a built
token follows POL and its worth RSRC. -/
def Obligations.TokensHeadsAndHeaders : Prop :=
  Claims.TokensQueueInOrderAndHeadsAreConsumedOnce
  ∧ Claims.HeadersFollowPolAndRsrc

/-- R129, R132, R136, R137, R138: With data at every head and room for what is sent, each of these elements sends one token of
the lanes' results with the header of POL and RSRC, consumes its heads, and records the joined flags under its mask. -/
def Obligations.ArithmeticElementsFireOnEveryLane : Prop :=
  Claims.IntegerElementsFireOnEveryLane
  ∧ Claims.FloatElementsFireOnEveryLane

/-- R129, R139, R140, R141, R142, R143, R144, R145, R146: SEL, PACK, UNPACK, SHUF, BCAST, LEXT, LINS, ROT, LMASK and FCPYS move
lanes bit for bit; FEXP, CVT, FLDX, LRED, LSCAN and CMPF give their lanes, CMPF's vector form refusing a set of b that is
neither 0 nor a's; each sends one token and consumes its heads. -/
def Obligations.LaneMovesConversionsAndFolds : Prop :=
  Claims.SelectAndLaneMovesMoveLanesBitForBit
  ∧ Claims.ConversionsFoldsAndTournaments

/-- R147, R148, R149, R150, R151: CNT and AFF send the next lanes of their sequence, then their ends; DELAY holds back its
line; CONST repeats its constant; ACC folds each decided head into its accumulator and sends its total at the end of a run. -/
def Obligations.SourcesRunsDelaysAndAccumulators : Prop :=
  Claims.SourcesRunsAndDelays
  ∧ Claims.AccumulatorsFoldDecidedHeadsInOrder

/-- R160, R161, R162, R166, R176, R181, R183: Each sends its inputs to the outputs that R183 names; GATE passes while it has
credit; OSNEW declares the next set of its replica and stamps its item once answered; OSQUENCH asks for the quench of a's set
when b says so; OSCOMMIT parks a commit. -/
def Obligations.ChannelOperationsRouteTheirTokens : Prop :=
  Claims.ForkJoinSteerFilterAndGateRouteTheirTokens
  ∧ Claims.ElementsDeclareQuenchAndCommitSets

/-- R190, R191, R193, R196, R197, R198, R199: A token out of the form of its stream is the element fault of R193 and is not
taken; SCANU, SCANC and SCANB give the coordinates and references of each parent's children, one a step, and refuse the absent
marker as a parent (fault 0x36: the model's choice, log 106). -/
def Obligations.ScansAndStreamFaults : Prop :=
  Claims.StreamsThatBreakTheirFormAreRefused
  ∧ Claims.ScansGiveTheChildrenOfEachParent

/-- R197, R200, R201, R202, R203, R204: The merging operations send what both, or either, of their fibres hold; the others walk
their fibres in step and send what R200 to R204 give; each consumes the heads that it has used. -/
def Obligations.FibresAreMergedAndWalked : Prop :=
  Claims.MatchedFibresAreMerged
  ∧ Claims.AlignedFibresAreWalkedTogether

/-- R166, R167, R225, R226, R227: LDA and LDI read each place of their traversal, or that their index names, and send the
loaded token; STA and STI park each store, and perform it once decided, in order. -/
def Obligations.MemoryElementsWalkAndStore : Prop :=
  Claims.LoadElementsWalkTheirTraversals
  ∧ Claims.StoreElementsParkAndPerformTheirStores

/-- R244, R299, R305, R328, R396: ATOM parks, and once decided updates its word and sends the old value; XREQ and MPORT park a
request and enter it once decided; GREQ gathers its batch and gives it back as tokens; BROUTE carries each of its two channels.
-/
def Obligations.AtomAndEnginePorts : Prop :=
  Claims.AtomElementUpdatesAWordOnceDecided
  ∧ Claims.PortsOfEnginesPassTheirTokensOn

/-- R47, R48, R50, R385, R386: In a stream at work, each command in its place acts as R48 says and the stream goes on at the
next; CFGW hands its commands to the network and waits, receives its status when the stream is over, and takes trap 0x2A of a
bad count or offset. -/
def Obligations.ConfigurationCommandsWriteThePage : Prop :=
  Claims.CommandsWriteThePage
  ∧ Claims.CfgwRunsAStreamAndReceivesItsStatus

/-- R49: FIELD writes one field of one element in the open bank, with bits 48 to 19 from the PREFIX before it, and no other
field; a PREFIX that another command follows, or that ends the stream, is fault 0x03 at the PREFIX; a FIELD after it whose
field is not wide is fault 0x04 at the FIELD; commands out of place, out of range or reserved stop the stream with their code,
and the banks written since PAGE are cleared. -/
def Obligations.FieldsPrefixesAndConfigurationFaults : Prop :=
  Claims.FieldWritesOneFieldOfOneElement
  ∧ Claims.TrailingPrefixFaults
  ∧ Claims.ConfigurationFaultsStopTheStream

/-- R184, R185, R389: QUENCH, SEAL and QUERY ask the set's damper, SETTLE and OLDEST the damper of every share; a damper
answers QUERY with the set's state, retires what SETTLE names, gives OLDEST its lowest LIVE sequence; notices leave on x;
FLAGS, CLEAR, ARMED, END and COUNT answer what R389 gives; an unassigned code or a bit beside the operand is fault 0x28 or 0x2E
and takes nothing; eos ends the commands. -/
def Obligations.CommandPortsAnswerInOrder : Prop :=
  Claims.DamperPortActsOnItsCommands
  ∧ Claims.HeadAnswersAndBadCommandsFault

/-- R390, R392, R393: An armed element that takes eos exchanges its banks, and APORT once its slots are finished, whose slots
become idle; one that is not armed does not swap; every t-th data head that an element consumes makes one trigger event, TRIG
of them a page end, and so does an empty queue pair while nothing but sources can fire. -/
def Obligations.SwapsAndPageEnds : Prop :=
  Claims.ArmedElementsSwapTheirBanks
  ∧ Claims.TriggersAndDryPagesEndTheirSources

/-- R36, R163, R164, R167, R170, R171, R184: DECLARE makes a LIVE entry, or waits while no entry is free or the cap is reached;
COMMIT-if-LIVE seals a LIVE set, QUENCH-if-LIVE quenches it, keeps its notice's fields and broadcasts; a decided set is
answered as it was decided, and one without an entry from its fate bit; an answer decides the parked effect, the declaration,
the eviction, the command, the merge's quench or the parked firing that it is for. -/
def Obligations.DampersDecideAndAnswerEachSet : Prop :=
  Claims.DampersDecideEachSetOnce
  ∧ Claims.AnswersReachTheAgentThatAsked

/-- R168, R169, R170, R171, R172, R174, R175, R444: A quench enters its core's filter, a full one moving its earliest
identifier into the overflow range; a head that the filter or a lookup finds quenched is removed; a ranked input admits what it
has room for as its procedure begins or when nothing can be evicted, and else asks for the quench of the least worthy; a closed
segment's tokens become heads once all is answered; what an actor sent behind a landing token lands in order. -/
def Obligations.QuenchFiltersAndRankedInputs : Prop :=
  Claims.QuenchFiltersDiscardHeads
  ∧ Claims.RankedInputsKeepTheMostWorthy

/-- R232, R381, R398, R400, R401, R429: LAUNCH appends its packet and receives the ordinal, waits for room, or traps; a
doorbell appends or leaves a record; ADMIT numbers a checked image or says why not; admission leaves a packet that waits, drops
or refuses a bad one, and makes of a good one, with room and its turn, a launch whose pages are placed and started. -/
def Obligations.PacketsImagesAndAdmission : Prop :=
  Claims.PacketsAndImagesAreTakenIn
  ∧ Claims.AdmissionStartsTheHeadOfAQueue

/-- R64, R187, R380, R381, R383, R397, R403, R404, R410, R426: Each pre-emption stops the sources of its team, and an outlasted
drain halts it; a quiescent or halted team is saved with its pages and entries kept, its quenched effects but stores dropped
and its cores free, unless the save is lost, which ends it with status 7, as does an image that fails its checks; a token's
image reads back as the token and a bad header word is refused; it is asked back by a watchpoint or the rotation and resumes at
a new placement with its entries at its new dies. -/
def Obligations.TeamsArePreemptedSavedAndResumed : Prop :=
  Claims.PreemptionsStopTheSources
  ∧ Claims.TeamsAreSavedReadmittedAndResumed
  ∧ Claims.TokenImagesReadBack
end

