-- ==== Sys2Proof/Laws/Maps.lean ====
section
/-!
SUPPORT. Laws of sparse maps and byte memories: a read after a write, other places unchanged, and that every write keeps the
canonical form.
-/
namespace Sys2Proof.Machine

/-! ### Reads after writes -/

@[simp] theorem mget_mset_same {α : Type} (m : AMap α) (k : Nat) (v : α) : mget (mset m k v) k = some v := by
  induction m with
  | nil => simp [mset, mget]
  | cons c m ih =>
    obtain ⟨k', v'⟩ := c
    by_cases h : k < k'
    · simp [mset, mget, h]
    · by_cases h' : k' = k
      · simp [mset, mget, h']
      · simp [mset, mget, h, h', ih]

theorem mget_mset_ne {α : Type} (m : AMap α) {k j : Nat} (v : α) (hne : j ≠ k) : mget (mset m k v) j = mget m j := by
  induction m with
  | nil => simp [mset, mget]; omega
  | cons c m ih =>
    obtain ⟨k', v'⟩ := c
    by_cases h : k < k'
    · simp [mset, mget, h]; omega
    · by_cases h' : k' = k
      · subst h'; simp [mset, mget, Ne.symm hne]
      · simp [mset, mget, h, h', ih]

@[simp] theorem mgetD_mset_same {α : Type} (m : AMap α) (k : Nat) (v d : α) : mgetD (mset m k v) k d = v := by
  simp [mgetD]

theorem mgetD_mset_ne {α : Type} (m : AMap α) {k j : Nat} (v d : α) (hne : j ≠ k) :
    mgetD (mset m k v) j d = mgetD m j d := by
  simp [mgetD, mget_mset_ne m v hne]

@[simp] theorem mget_mdel_same {α : Type} (m : AMap α) (k : Nat) : mget (mdel m k) k = none := by
  induction m with
  | nil => rfl
  | cons c m ih =>
    obtain ⟨k', v'⟩ := c
    by_cases h : k' = k <;> simp [mdel, mget, h, ih]

theorem mget_mdel_ne {α : Type} (m : AMap α) {k j : Nat} (hne : j ≠ k) : mget (mdel m k) j = mget m j := by
  induction m with
  | nil => rfl
  | cons c m ih =>
    obtain ⟨k', v'⟩ := c
    by_cases h : k' = k
    · subst h; simp [mdel, mget, ih, Ne.symm hne]
    · simp [mdel, mget, h, ih]

@[simp] theorem bget_bset_same (m : List Host.Cell) (a : Nat) (b : Byte) : bget (bset m a b) a = b := by
  by_cases h : b = 0
  · simp only [bget, bset, h, mgetD, if_true]; simp
  · simp only [bget, bset, h, if_false]; exact mgetD_mset_same m a b 0

theorem bget_bset_ne (m : List Host.Cell) {a x : Nat} (b : Byte) (hne : x ≠ a) : bget (bset m a b) x = bget m x := by
  by_cases h : b = 0
  · simp only [bget, bset, h, mgetD, if_true, mget_mdel_ne m hne]
  · simp only [bget, bset, h, if_false]; exact mgetD_mset_ne m b 0 hne

/-- A write of consecutive bytes leaves every other byte alone. -/
theorem bget_bsetN_outside (bs : List Byte) : ∀ (m : List Host.Cell) (a x : Nat), x < a ∨ a + bs.length ≤ x →
    bget (bsetN m a bs) x = bget m x := by
  induction bs with
  | nil => intro m a x _; rfl
  | cons b bs ih =>
    intro m a x h
    simp only [List.length_cons] at h
    rw [bsetN, ih _ _ _ (by omega), bget_bset_ne _ _ (by omega)]

/-- A byte written reads back. -/
theorem bget_bsetN_inside (bs : List Byte) : ∀ (m : List Host.Cell) (a i : Nat), i < bs.length →
    bget (bsetN m a bs) (a + i) = bs.getD i 0 := by
  induction bs with
  | nil => intro m a i h; simp at h
  | cons b bs ih =>
    intro m a i h
    cases i with
    | zero => rw [bsetN, bget_bsetN_outside _ _ _ _ (by omega)]; simp
    | succ i =>
      have := ih (bset m a b) (a + 1) i (by simpa using h)
      rw [bsetN, show a + (i + 1) = a + 1 + i by omega, this]; simp

/-! ### The canonical form -/

theorem mrising_cons {α : Type} (c : Nat × α) (m : AMap α) :
    mrising (c :: m) = true ↔ (∀ d ∈ m, c.1 < d.1) ∧ mrising m = true := by
  induction m generalizing c with
  | nil => simp [mrising]
  | cons d m ih =>
    obtain ⟨k, v⟩ := c
    obtain ⟨k', v'⟩ := d
    simp only [mrising, Bool.and_eq_true, decide_eq_true_eq, List.mem_cons, forall_eq_or_imp]
    constructor
    · rintro ⟨h, h'⟩
      exact ⟨⟨h, fun x hx => Nat.lt_trans h ((ih (k', v')).1 h' |>.1 x hx)⟩, h'⟩
    · rintro ⟨⟨h, _⟩, h'⟩
      exact ⟨h, h'⟩

theorem mem_mset {α : Type} (m : AMap α) (k : Nat) (v : α) (c : Nat × α) (h : c ∈ mset m k v) : c = (k, v) ∨ c ∈ m := by
  induction m with
  | nil => simpa [mset] using h
  | cons d m ih =>
    obtain ⟨k', v'⟩ := d
    by_cases h1 : k < k'
    · simpa [mset, h1] using h
    · by_cases h2 : k' = k
      · simp [mset, h2] at h
        rcases h with h | h
        · exact .inl h
        · exact .inr (by simp [h])
      · simp [mset, h1, h2] at h
        rcases h with h | h
        · exact .inr (by simp [h])
        · rcases ih h with h | h
          · exact .inl h
          · exact .inr (by simp [h])

theorem mem_mdel {α : Type} (m : AMap α) (k : Nat) (c : Nat × α) (h : c ∈ mdel m k) : c ∈ m := by
  induction m with
  | nil => simp [mdel] at h
  | cons d m ih =>
    obtain ⟨k', v'⟩ := d
    by_cases h1 : k' = k
    · simp [mdel, h1] at h; exact List.mem_cons_of_mem _ (ih h)
    · simp [mdel, h1] at h
      rcases h with h | h
      · simp [h]
      · exact List.mem_cons_of_mem _ (ih h)

/-- Entering a key keeps the keys rising. -/
theorem mrising_mset {α : Type} (m : AMap α) (k : Nat) (v : α) (h : mrising m = true) : mrising (mset m k v) = true := by
  induction m with
  | nil => rfl
  | cons d m ih =>
    obtain ⟨k', v'⟩ := d
    have hm := (mrising_cons _ _).1 h
    by_cases h1 : k < k'
    · simp only [mset, h1, if_true]
      refine (mrising_cons _ _).2 ⟨fun x hx => ?_, h⟩
      rcases List.mem_cons.1 hx with rfl | hx
      · exact h1
      · exact Nat.lt_trans h1 (hm.1 x hx)
    · by_cases h2 : k' = k
      · subst h2
        simp only [mset, h1, if_true, if_false]
        exact (mrising_cons _ _).2 hm
      · simp only [mset, h1, h2, if_false]
        refine (mrising_cons _ _).2 ⟨fun x hx => ?_, ih hm.2⟩
        rcases mem_mset m k v x hx with rfl | hx
        · show k' < k; omega
        · exact hm.1 x hx

/-- Removing a key keeps the keys rising. -/
theorem mrising_mdel {α : Type} (m : AMap α) (k : Nat) (h : mrising m = true) : mrising (mdel m k) = true := by
  induction m with
  | nil => rfl
  | cons d m ih =>
    obtain ⟨k', v'⟩ := d
    have hm := (mrising_cons _ _).1 h
    by_cases h1 : k' = k
    · simp only [mdel, h1, if_true]; exact ih hm.2
    · simp only [mdel, h1, if_false]
      exact (mrising_cons _ _).2 ⟨fun x hx => hm.1 x (mem_mdel m k x hx), ih hm.2⟩

/-- Writing a byte keeps the canonical form. -/
theorem bwf_bset (m : List Host.Cell) (a : Nat) (b : Byte) (h : bwf m = true) : bwf (bset m a b) = true := by
  simp only [bwf, Bool.and_eq_true, List.all_eq_true] at h ⊢
  by_cases hb : b = 0
  · simp only [bset, hb, if_true]
    exact ⟨mrising_mdel m a h.1, fun x hx => h.2 x (mem_mdel m a x hx)⟩
  · simp only [bset, hb, if_false]
    refine ⟨mrising_mset m a b h.1, fun x hx => ?_⟩
    rcases mem_mset m a b x hx with rfl | hx
    · simpa using hb
    · exact h.2 x hx

/-- Writing consecutive bytes keeps the canonical form. -/
theorem bwf_bsetN (bs : List Byte) : ∀ (m : List Host.Cell) (a : Nat), bwf m = true → bwf (bsetN m a bs) = true := by
  induction bs with
  | nil => intro m a h; exact h
  | cons b bs ih => intro m a h; exact ih _ _ (bwf_bset m a b h)

theorem mrising_filter {α : Type} (p : Nat × α → Bool) (m : AMap α) (h : mrising m = true) : mrising (m.filter p) = true := by
  induction m with
  | nil => rfl
  | cons d m ih =>
    have hm := (mrising_cons _ _).1 h
    by_cases hp : p d = true
    · rw [List.filter_cons_of_pos hp]
      exact (mrising_cons _ _).2 ⟨fun x hx => hm.1 x ((List.mem_filter.1 hx).1), ih hm.2⟩
    · rw [List.filter_cons_of_neg hp]; exact ih hm.2

/-- Dropping bytes keeps the canonical form. -/
theorem bwf_filter (p : Host.Cell → Bool) (m : List Host.Cell) (h : bwf m = true) : bwf (m.filter p) = true := by
  simp only [bwf, Bool.and_eq_true, List.all_eq_true] at h ⊢
  exact ⟨mrising_filter p m h.1, fun x hx => h.2 x ((List.mem_filter.1 hx).1)⟩

end Sys2Proof.Machine
end

