-- ==== Sys2Proof/Laws/State.lean ====
section
/-!
SUPPORT. Laws of the state's updates: one lemma for each field and update, true by unfolding, so that no later proof unfolds a
record update.
-/
namespace Sys2Proof.Machine

/-! ### A core is set or changed -/

@[simp] theorem State.setCore_agenda (s : State) (c : Nat) (k : Core) : (s.setCore c k).agenda = s.agenda := rfl
@[simp] theorem State.setCore_tick (s : State) (c : Nat) (k : Core) : (s.setCore c k).tick = s.tick := rfl
@[simp] theorem State.setCore_cur (s : State) (c : Nat) (k : Core) : (s.setCore c k).cur = s.cur := rfl
@[simp] theorem State.setCore_nextId (s : State) (c : Nat) (k : Core) : (s.setCore c k).nextId = s.nextId := rfl
@[simp] theorem State.setCore_power (s : State) (c : Nat) (k : Core) : (s.setCore c k).power = s.power := rfl
@[simp] theorem State.setCore_hbm (s : State) (c : Nat) (k : Core) : (s.setCore c k).hbm = s.hbm := rfl
@[simp] theorem State.setCore_poison (s : State) (c : Nat) (k : Core) : (s.setCore c k).poison = s.poison := rfl
@[simp] theorem State.setCore_lineKey (s : State) (c : Nat) (k : Core) : (s.setCore c k).lineKey = s.lineKey := rfl
@[simp] theorem State.setCore_veils (s : State) (c : Nat) (k : Core) : (s.setCore c k).veils = s.veils := rfl
@[simp] theorem State.setCore_owners (s : State) (c : Nat) (k : Core) : (s.setCore c k).owners = s.owners := rfl
@[simp] theorem State.setCore_placed (s : State) (c : Nat) (k : Core) : (s.setCore c k).placed = s.placed := rfl
@[simp] theorem State.setCore_scopes (s : State) (c : Nat) (k : Core) : (s.setCore c k).scopes = s.scopes := rfl
@[simp] theorem State.setCore_waiters (s : State) (c : Nat) (k : Core) : (s.setCore c k).waiters = s.waiters := rfl
@[simp] theorem State.setCore_watches (s : State) (c : Nat) (k : Core) : (s.setCore c k).watches = s.watches := rfl
@[simp] theorem State.setCore_heldAppends (s : State) (c : Nat) (k : Core) : (s.setCore c k).heldAppends = s.heldAppends := rfl
@[simp] theorem State.setCore_tlb (s : State) (c : Nat) (k : Core) : (s.setCore c k).tlb = s.tlb := rfl
@[simp] theorem State.setCore_xfaults (s : State) (c : Nat) (k : Core) : (s.setCore c k).xfaults = s.xfaults := rfl
@[simp] theorem State.setCore_belfry (s : State) (c : Nat) (k : Core) : (s.setCore c k).belfry = s.belfry := rfl
@[simp] theorem State.setCore_belfryCache (s : State) (c : Nat) (k : Core) : (s.setCore c k).belfryCache = s.belfryCache := rfl
@[simp] theorem State.setCore_entries (s : State) (c : Nat) (k : Core) : (s.setCore c k).entries = s.entries := rfl
@[simp] theorem State.setCore_dreqs (s : State) (c : Nat) (k : Core) : (s.setCore c k).dreqs = s.dreqs := rfl
@[simp] theorem State.setCore_dans (s : State) (c : Nat) (k : Core) : (s.setCore c k).dans = s.dans := rfl
@[simp] theorem State.setCore_casts (s : State) (c : Nat) (k : Core) : (s.setCore c k).casts = s.casts := rfl
@[simp] theorem State.setCore_exchange (s : State) (c : Nat) (k : Core) : (s.setCore c k).exchange = s.exchange := rfl
@[simp] theorem State.setCore_rail (s : State) (c : Nat) (k : Core) : (s.setCore c k).rail = s.rail := rfl
@[simp] theorem State.setCore_rowTag (s : State) (c : Nat) (k : Core) : (s.setCore c k).rowTag = s.rowTag := rfl
@[simp] theorem State.setCore_reach (s : State) (c : Nat) (k : Core) : (s.setCore c k).reach = s.reach := rfl
@[simp] theorem State.setCore_reasm (s : State) (c : Nat) (k : Core) : (s.setCore c k).reasm = s.reasm := rfl
@[simp] theorem State.setCore_linkErrors (s : State) (c : Nat) (k : Core) : (s.setCore c k).linkErrors = s.linkErrors := rfl
@[simp] theorem State.setCore_sent (s : State) (c : Nat) (k : Core) : (s.setCore c k).sent = s.sent := rfl
@[simp] theorem State.setCore_ctxs (s : State) (c : Nat) (k : Core) : (s.setCore c k).ctxs = s.ctxs := rfl
@[simp] theorem State.setCore_images (s : State) (c : Nat) (k : Core) : (s.setCore c k).images = s.images := rfl
@[simp] theorem State.setCore_launches (s : State) (c : Nat) (k : Core) : (s.setCore c k).launches = s.launches := rfl
@[simp] theorem State.setCore_turn (s : State) (c : Nat) (k : Core) : (s.setCore c k).turn = s.turn := rfl
@[simp] theorem State.setCore_poda (s : State) (c : Nat) (k : Core) : (s.setCore c k).poda = s.poda := rfl
@[simp] theorem State.setCore_podaFixed (s : State) (c : Nat) (k : Core) : (s.setCore c k).podaFixed = s.podaFixed := rfl
@[simp] theorem State.setCore_cycle (s : State) (c : Nat) (k : Core) : (s.setCore c k).cycle = s.cycle := rfl
@[simp] theorem State.setCore_fltr (s : State) (c : Nat) (k : Core) : (s.setCore c k).fltr = s.fltr := rfl
@[simp] theorem State.setCore_fltwr (s : State) (c : Nat) (k : Core) : (s.setCore c k).fltwr = s.fltwr := rfl
@[simp] theorem State.setCore_mcr (s : State) (c : Nat) (k : Core) : (s.setCore c k).mcr = s.mcr := rfl
@[simp] theorem State.setCore_mcwr (s : State) (c : Nat) (k : Core) : (s.setCore c k).mcwr = s.mcwr := rfl
@[simp] theorem State.setCore_pzaddr (s : State) (c : Nat) (k : Core) : (s.setCore c k).pzaddr = s.pzaddr := rfl
@[simp] theorem State.setCore_pzBusy (s : State) (c : Nat) (k : Core) : (s.setCore c k).pzBusy = s.pzBusy := rfl
@[simp] theorem State.setCore_plim (s : State) (c : Nat) (k : Core) : (s.setCore c k).plim = s.plim := rfl
@[simp] theorem State.setCore_refr (s : State) (c : Nat) (k : Core) : (s.setCore c k).refr = s.refr := rfl
@[simp] theorem State.setCore_throttle (s : State) (c : Nat) (k : Core) : (s.setCore c k).throttle = s.throttle := rfl
@[simp] theorem State.setCore_keyTab (s : State) (c : Nat) (k : Core) : (s.setCore c k).keyTab = s.keyTab := rfl
@[simp] theorem State.setCore_corrected (s : State) (c : Nat) (k : Core) : (s.setCore c k).corrected = s.corrected := rfl
@[simp] theorem State.setCore_fwMeas (s : State) (c : Nat) (k : Core) : (s.setCore c k).fwMeas = s.fwMeas := rfl
@[simp] theorem State.setCore_svMeas (s : State) (c : Nat) (k : Core) : (s.setCore c k).svMeas = s.svMeas := rfl
@[simp] theorem State.setCore_sysKeys (s : State) (c : Nat) (k : Core) : (s.setCore c k).sysKeys = s.sysKeys := rfl
@[simp] theorem State.setCore_qpairs (s : State) (c : Nat) (k : Core) : (s.setCore c k).qpairs = s.qpairs := rfl
@[simp] theorem State.setCore_rateStep (s : State) (c : Nat) (k : Core) : (s.setCore c k).rateStep = s.rateStep := rfl
@[simp] theorem State.setCore_requesters (s : State) (c : Nat) (k : Core) : (s.setCore c k).requesters = s.requesters := rfl
@[simp] theorem State.setCore_poisonSrc (s : State) (c : Nat) (k : Core) : (s.setCore c k).poisonSrc = s.poisonSrc := rfl
@[simp] theorem State.setCore_unitWait (s : State) (c : Nat) (k : Core) : (s.setCore c k).unitWait = s.unitWait := rfl
@[simp] theorem State.setCore_fuse (s : State) (c : Nat) (k : Core) : (s.setCore c k).fuse = s.fuse := rfl
@[simp] theorem State.setCore_hsMode (s : State) (c : Nat) (k : Core) : (s.setCore c k).hsMode = s.hsMode := rfl

@[simp] theorem State.modCore_agenda (s : State) (c : Nat) (f : Core → Core) : (s.modCore c f).agenda = s.agenda := rfl
@[simp] theorem State.modCore_tick (s : State) (c : Nat) (f : Core → Core) : (s.modCore c f).tick = s.tick := rfl
@[simp] theorem State.modCore_cur (s : State) (c : Nat) (f : Core → Core) : (s.modCore c f).cur = s.cur := rfl
@[simp] theorem State.modCore_nextId (s : State) (c : Nat) (f : Core → Core) : (s.modCore c f).nextId = s.nextId := rfl
@[simp] theorem State.modCore_power (s : State) (c : Nat) (f : Core → Core) : (s.modCore c f).power = s.power := rfl
@[simp] theorem State.modCore_hbm (s : State) (c : Nat) (f : Core → Core) : (s.modCore c f).hbm = s.hbm := rfl
@[simp] theorem State.modCore_poison (s : State) (c : Nat) (f : Core → Core) : (s.modCore c f).poison = s.poison := rfl
@[simp] theorem State.modCore_lineKey (s : State) (c : Nat) (f : Core → Core) : (s.modCore c f).lineKey = s.lineKey := rfl
@[simp] theorem State.modCore_veils (s : State) (c : Nat) (f : Core → Core) : (s.modCore c f).veils = s.veils := rfl
@[simp] theorem State.modCore_owners (s : State) (c : Nat) (f : Core → Core) : (s.modCore c f).owners = s.owners := rfl
@[simp] theorem State.modCore_placed (s : State) (c : Nat) (f : Core → Core) : (s.modCore c f).placed = s.placed := rfl
@[simp] theorem State.modCore_scopes (s : State) (c : Nat) (f : Core → Core) : (s.modCore c f).scopes = s.scopes := rfl
@[simp] theorem State.modCore_waiters (s : State) (c : Nat) (f : Core → Core) : (s.modCore c f).waiters = s.waiters := rfl
@[simp] theorem State.modCore_watches (s : State) (c : Nat) (f : Core → Core) : (s.modCore c f).watches = s.watches := rfl
@[simp] theorem State.modCore_heldAppends (s : State) (c : Nat) (f : Core → Core) : (s.modCore c f).heldAppends = s.heldAppends := rfl
@[simp] theorem State.modCore_tlb (s : State) (c : Nat) (f : Core → Core) : (s.modCore c f).tlb = s.tlb := rfl
@[simp] theorem State.modCore_xfaults (s : State) (c : Nat) (f : Core → Core) : (s.modCore c f).xfaults = s.xfaults := rfl
@[simp] theorem State.modCore_belfry (s : State) (c : Nat) (f : Core → Core) : (s.modCore c f).belfry = s.belfry := rfl
@[simp] theorem State.modCore_belfryCache (s : State) (c : Nat) (f : Core → Core) : (s.modCore c f).belfryCache = s.belfryCache := rfl
@[simp] theorem State.modCore_entries (s : State) (c : Nat) (f : Core → Core) : (s.modCore c f).entries = s.entries := rfl
@[simp] theorem State.modCore_dreqs (s : State) (c : Nat) (f : Core → Core) : (s.modCore c f).dreqs = s.dreqs := rfl
@[simp] theorem State.modCore_dans (s : State) (c : Nat) (f : Core → Core) : (s.modCore c f).dans = s.dans := rfl
@[simp] theorem State.modCore_casts (s : State) (c : Nat) (f : Core → Core) : (s.modCore c f).casts = s.casts := rfl
@[simp] theorem State.modCore_exchange (s : State) (c : Nat) (f : Core → Core) : (s.modCore c f).exchange = s.exchange := rfl
@[simp] theorem State.modCore_rail (s : State) (c : Nat) (f : Core → Core) : (s.modCore c f).rail = s.rail := rfl
@[simp] theorem State.modCore_rowTag (s : State) (c : Nat) (f : Core → Core) : (s.modCore c f).rowTag = s.rowTag := rfl
@[simp] theorem State.modCore_reach (s : State) (c : Nat) (f : Core → Core) : (s.modCore c f).reach = s.reach := rfl
@[simp] theorem State.modCore_reasm (s : State) (c : Nat) (f : Core → Core) : (s.modCore c f).reasm = s.reasm := rfl
@[simp] theorem State.modCore_linkErrors (s : State) (c : Nat) (f : Core → Core) : (s.modCore c f).linkErrors = s.linkErrors := rfl
@[simp] theorem State.modCore_sent (s : State) (c : Nat) (f : Core → Core) : (s.modCore c f).sent = s.sent := rfl
@[simp] theorem State.modCore_ctxs (s : State) (c : Nat) (f : Core → Core) : (s.modCore c f).ctxs = s.ctxs := rfl
@[simp] theorem State.modCore_images (s : State) (c : Nat) (f : Core → Core) : (s.modCore c f).images = s.images := rfl
@[simp] theorem State.modCore_launches (s : State) (c : Nat) (f : Core → Core) : (s.modCore c f).launches = s.launches := rfl
@[simp] theorem State.modCore_turn (s : State) (c : Nat) (f : Core → Core) : (s.modCore c f).turn = s.turn := rfl
@[simp] theorem State.modCore_poda (s : State) (c : Nat) (f : Core → Core) : (s.modCore c f).poda = s.poda := rfl
@[simp] theorem State.modCore_podaFixed (s : State) (c : Nat) (f : Core → Core) : (s.modCore c f).podaFixed = s.podaFixed := rfl
@[simp] theorem State.modCore_cycle (s : State) (c : Nat) (f : Core → Core) : (s.modCore c f).cycle = s.cycle := rfl
@[simp] theorem State.modCore_fltr (s : State) (c : Nat) (f : Core → Core) : (s.modCore c f).fltr = s.fltr := rfl
@[simp] theorem State.modCore_fltwr (s : State) (c : Nat) (f : Core → Core) : (s.modCore c f).fltwr = s.fltwr := rfl
@[simp] theorem State.modCore_mcr (s : State) (c : Nat) (f : Core → Core) : (s.modCore c f).mcr = s.mcr := rfl
@[simp] theorem State.modCore_mcwr (s : State) (c : Nat) (f : Core → Core) : (s.modCore c f).mcwr = s.mcwr := rfl
@[simp] theorem State.modCore_pzaddr (s : State) (c : Nat) (f : Core → Core) : (s.modCore c f).pzaddr = s.pzaddr := rfl
@[simp] theorem State.modCore_pzBusy (s : State) (c : Nat) (f : Core → Core) : (s.modCore c f).pzBusy = s.pzBusy := rfl
@[simp] theorem State.modCore_plim (s : State) (c : Nat) (f : Core → Core) : (s.modCore c f).plim = s.plim := rfl
@[simp] theorem State.modCore_refr (s : State) (c : Nat) (f : Core → Core) : (s.modCore c f).refr = s.refr := rfl
@[simp] theorem State.modCore_throttle (s : State) (c : Nat) (f : Core → Core) : (s.modCore c f).throttle = s.throttle := rfl
@[simp] theorem State.modCore_keyTab (s : State) (c : Nat) (f : Core → Core) : (s.modCore c f).keyTab = s.keyTab := rfl
@[simp] theorem State.modCore_corrected (s : State) (c : Nat) (f : Core → Core) : (s.modCore c f).corrected = s.corrected := rfl
@[simp] theorem State.modCore_fwMeas (s : State) (c : Nat) (f : Core → Core) : (s.modCore c f).fwMeas = s.fwMeas := rfl
@[simp] theorem State.modCore_svMeas (s : State) (c : Nat) (f : Core → Core) : (s.modCore c f).svMeas = s.svMeas := rfl
@[simp] theorem State.modCore_sysKeys (s : State) (c : Nat) (f : Core → Core) : (s.modCore c f).sysKeys = s.sysKeys := rfl
@[simp] theorem State.modCore_qpairs (s : State) (c : Nat) (f : Core → Core) : (s.modCore c f).qpairs = s.qpairs := rfl
@[simp] theorem State.modCore_rateStep (s : State) (c : Nat) (f : Core → Core) : (s.modCore c f).rateStep = s.rateStep := rfl
@[simp] theorem State.modCore_requesters (s : State) (c : Nat) (f : Core → Core) : (s.modCore c f).requesters = s.requesters := rfl
@[simp] theorem State.modCore_poisonSrc (s : State) (c : Nat) (f : Core → Core) : (s.modCore c f).poisonSrc = s.poisonSrc := rfl
@[simp] theorem State.modCore_unitWait (s : State) (c : Nat) (f : Core → Core) : (s.modCore c f).unitWait = s.unitWait := rfl
@[simp] theorem State.modCore_fuse (s : State) (c : Nat) (f : Core → Core) : (s.modCore c f).fuse = s.fuse := rfl
@[simp] theorem State.modCore_hsMode (s : State) (c : Nat) (f : Core → Core) : (s.modCore c f).hsMode = s.hsMode := rfl

/-! ### A slot or an element is changed -/

@[simp] theorem State.modSlot_agenda (s : State) (c n : Nat) (f : Slot → Slot) : (s.modSlot c n f).agenda = s.agenda := rfl
@[simp] theorem State.modSlot_tick (s : State) (c n : Nat) (f : Slot → Slot) : (s.modSlot c n f).tick = s.tick := rfl
@[simp] theorem State.modSlot_cur (s : State) (c n : Nat) (f : Slot → Slot) : (s.modSlot c n f).cur = s.cur := rfl
@[simp] theorem State.modSlot_nextId (s : State) (c n : Nat) (f : Slot → Slot) : (s.modSlot c n f).nextId = s.nextId := rfl
@[simp] theorem State.modSlot_power (s : State) (c n : Nat) (f : Slot → Slot) : (s.modSlot c n f).power = s.power := rfl
@[simp] theorem State.modSlot_hbm (s : State) (c n : Nat) (f : Slot → Slot) : (s.modSlot c n f).hbm = s.hbm := rfl
@[simp] theorem State.modSlot_poison (s : State) (c n : Nat) (f : Slot → Slot) : (s.modSlot c n f).poison = s.poison := rfl
@[simp] theorem State.modSlot_lineKey (s : State) (c n : Nat) (f : Slot → Slot) : (s.modSlot c n f).lineKey = s.lineKey := rfl
@[simp] theorem State.modSlot_veils (s : State) (c n : Nat) (f : Slot → Slot) : (s.modSlot c n f).veils = s.veils := rfl
@[simp] theorem State.modSlot_owners (s : State) (c n : Nat) (f : Slot → Slot) : (s.modSlot c n f).owners = s.owners := rfl
@[simp] theorem State.modSlot_placed (s : State) (c n : Nat) (f : Slot → Slot) : (s.modSlot c n f).placed = s.placed := rfl
@[simp] theorem State.modSlot_scopes (s : State) (c n : Nat) (f : Slot → Slot) : (s.modSlot c n f).scopes = s.scopes := rfl
@[simp] theorem State.modSlot_waiters (s : State) (c n : Nat) (f : Slot → Slot) : (s.modSlot c n f).waiters = s.waiters := rfl
@[simp] theorem State.modSlot_watches (s : State) (c n : Nat) (f : Slot → Slot) : (s.modSlot c n f).watches = s.watches := rfl
@[simp] theorem State.modSlot_heldAppends (s : State) (c n : Nat) (f : Slot → Slot) : (s.modSlot c n f).heldAppends = s.heldAppends := rfl
@[simp] theorem State.modSlot_tlb (s : State) (c n : Nat) (f : Slot → Slot) : (s.modSlot c n f).tlb = s.tlb := rfl
@[simp] theorem State.modSlot_xfaults (s : State) (c n : Nat) (f : Slot → Slot) : (s.modSlot c n f).xfaults = s.xfaults := rfl
@[simp] theorem State.modSlot_belfry (s : State) (c n : Nat) (f : Slot → Slot) : (s.modSlot c n f).belfry = s.belfry := rfl
@[simp] theorem State.modSlot_belfryCache (s : State) (c n : Nat) (f : Slot → Slot) : (s.modSlot c n f).belfryCache = s.belfryCache := rfl
@[simp] theorem State.modSlot_entries (s : State) (c n : Nat) (f : Slot → Slot) : (s.modSlot c n f).entries = s.entries := rfl
@[simp] theorem State.modSlot_dreqs (s : State) (c n : Nat) (f : Slot → Slot) : (s.modSlot c n f).dreqs = s.dreqs := rfl
@[simp] theorem State.modSlot_dans (s : State) (c n : Nat) (f : Slot → Slot) : (s.modSlot c n f).dans = s.dans := rfl
@[simp] theorem State.modSlot_casts (s : State) (c n : Nat) (f : Slot → Slot) : (s.modSlot c n f).casts = s.casts := rfl
@[simp] theorem State.modSlot_exchange (s : State) (c n : Nat) (f : Slot → Slot) : (s.modSlot c n f).exchange = s.exchange := rfl
@[simp] theorem State.modSlot_rail (s : State) (c n : Nat) (f : Slot → Slot) : (s.modSlot c n f).rail = s.rail := rfl
@[simp] theorem State.modSlot_rowTag (s : State) (c n : Nat) (f : Slot → Slot) : (s.modSlot c n f).rowTag = s.rowTag := rfl
@[simp] theorem State.modSlot_reach (s : State) (c n : Nat) (f : Slot → Slot) : (s.modSlot c n f).reach = s.reach := rfl
@[simp] theorem State.modSlot_reasm (s : State) (c n : Nat) (f : Slot → Slot) : (s.modSlot c n f).reasm = s.reasm := rfl
@[simp] theorem State.modSlot_linkErrors (s : State) (c n : Nat) (f : Slot → Slot) : (s.modSlot c n f).linkErrors = s.linkErrors := rfl
@[simp] theorem State.modSlot_sent (s : State) (c n : Nat) (f : Slot → Slot) : (s.modSlot c n f).sent = s.sent := rfl
@[simp] theorem State.modSlot_ctxs (s : State) (c n : Nat) (f : Slot → Slot) : (s.modSlot c n f).ctxs = s.ctxs := rfl
@[simp] theorem State.modSlot_images (s : State) (c n : Nat) (f : Slot → Slot) : (s.modSlot c n f).images = s.images := rfl
@[simp] theorem State.modSlot_launches (s : State) (c n : Nat) (f : Slot → Slot) : (s.modSlot c n f).launches = s.launches := rfl
@[simp] theorem State.modSlot_turn (s : State) (c n : Nat) (f : Slot → Slot) : (s.modSlot c n f).turn = s.turn := rfl
@[simp] theorem State.modSlot_poda (s : State) (c n : Nat) (f : Slot → Slot) : (s.modSlot c n f).poda = s.poda := rfl
@[simp] theorem State.modSlot_podaFixed (s : State) (c n : Nat) (f : Slot → Slot) : (s.modSlot c n f).podaFixed = s.podaFixed := rfl
@[simp] theorem State.modSlot_cycle (s : State) (c n : Nat) (f : Slot → Slot) : (s.modSlot c n f).cycle = s.cycle := rfl
@[simp] theorem State.modSlot_fltr (s : State) (c n : Nat) (f : Slot → Slot) : (s.modSlot c n f).fltr = s.fltr := rfl
@[simp] theorem State.modSlot_fltwr (s : State) (c n : Nat) (f : Slot → Slot) : (s.modSlot c n f).fltwr = s.fltwr := rfl
@[simp] theorem State.modSlot_mcr (s : State) (c n : Nat) (f : Slot → Slot) : (s.modSlot c n f).mcr = s.mcr := rfl
@[simp] theorem State.modSlot_mcwr (s : State) (c n : Nat) (f : Slot → Slot) : (s.modSlot c n f).mcwr = s.mcwr := rfl
@[simp] theorem State.modSlot_pzaddr (s : State) (c n : Nat) (f : Slot → Slot) : (s.modSlot c n f).pzaddr = s.pzaddr := rfl
@[simp] theorem State.modSlot_pzBusy (s : State) (c n : Nat) (f : Slot → Slot) : (s.modSlot c n f).pzBusy = s.pzBusy := rfl
@[simp] theorem State.modSlot_plim (s : State) (c n : Nat) (f : Slot → Slot) : (s.modSlot c n f).plim = s.plim := rfl
@[simp] theorem State.modSlot_refr (s : State) (c n : Nat) (f : Slot → Slot) : (s.modSlot c n f).refr = s.refr := rfl
@[simp] theorem State.modSlot_throttle (s : State) (c n : Nat) (f : Slot → Slot) : (s.modSlot c n f).throttle = s.throttle := rfl
@[simp] theorem State.modSlot_keyTab (s : State) (c n : Nat) (f : Slot → Slot) : (s.modSlot c n f).keyTab = s.keyTab := rfl
@[simp] theorem State.modSlot_corrected (s : State) (c n : Nat) (f : Slot → Slot) : (s.modSlot c n f).corrected = s.corrected := rfl
@[simp] theorem State.modSlot_fwMeas (s : State) (c n : Nat) (f : Slot → Slot) : (s.modSlot c n f).fwMeas = s.fwMeas := rfl
@[simp] theorem State.modSlot_svMeas (s : State) (c n : Nat) (f : Slot → Slot) : (s.modSlot c n f).svMeas = s.svMeas := rfl
@[simp] theorem State.modSlot_sysKeys (s : State) (c n : Nat) (f : Slot → Slot) : (s.modSlot c n f).sysKeys = s.sysKeys := rfl
@[simp] theorem State.modSlot_qpairs (s : State) (c n : Nat) (f : Slot → Slot) : (s.modSlot c n f).qpairs = s.qpairs := rfl
@[simp] theorem State.modSlot_rateStep (s : State) (c n : Nat) (f : Slot → Slot) : (s.modSlot c n f).rateStep = s.rateStep := rfl
@[simp] theorem State.modSlot_requesters (s : State) (c n : Nat) (f : Slot → Slot) : (s.modSlot c n f).requesters = s.requesters := rfl
@[simp] theorem State.modSlot_poisonSrc (s : State) (c n : Nat) (f : Slot → Slot) : (s.modSlot c n f).poisonSrc = s.poisonSrc := rfl
@[simp] theorem State.modSlot_unitWait (s : State) (c n : Nat) (f : Slot → Slot) : (s.modSlot c n f).unitWait = s.unitWait := rfl
@[simp] theorem State.modSlot_fuse (s : State) (c n : Nat) (f : Slot → Slot) : (s.modSlot c n f).fuse = s.fuse := rfl
@[simp] theorem State.modSlot_hsMode (s : State) (c n : Nat) (f : Slot → Slot) : (s.modSlot c n f).hsMode = s.hsMode := rfl

@[simp] theorem State.modElem_agenda (s : State) (c p : Nat) (f : Elem → Elem) : (s.modElem c p f).agenda = s.agenda := rfl
@[simp] theorem State.modElem_tick (s : State) (c p : Nat) (f : Elem → Elem) : (s.modElem c p f).tick = s.tick := rfl
@[simp] theorem State.modElem_cur (s : State) (c p : Nat) (f : Elem → Elem) : (s.modElem c p f).cur = s.cur := rfl
@[simp] theorem State.modElem_nextId (s : State) (c p : Nat) (f : Elem → Elem) : (s.modElem c p f).nextId = s.nextId := rfl
@[simp] theorem State.modElem_power (s : State) (c p : Nat) (f : Elem → Elem) : (s.modElem c p f).power = s.power := rfl
@[simp] theorem State.modElem_hbm (s : State) (c p : Nat) (f : Elem → Elem) : (s.modElem c p f).hbm = s.hbm := rfl
@[simp] theorem State.modElem_poison (s : State) (c p : Nat) (f : Elem → Elem) : (s.modElem c p f).poison = s.poison := rfl
@[simp] theorem State.modElem_lineKey (s : State) (c p : Nat) (f : Elem → Elem) : (s.modElem c p f).lineKey = s.lineKey := rfl
@[simp] theorem State.modElem_veils (s : State) (c p : Nat) (f : Elem → Elem) : (s.modElem c p f).veils = s.veils := rfl
@[simp] theorem State.modElem_owners (s : State) (c p : Nat) (f : Elem → Elem) : (s.modElem c p f).owners = s.owners := rfl
@[simp] theorem State.modElem_placed (s : State) (c p : Nat) (f : Elem → Elem) : (s.modElem c p f).placed = s.placed := rfl
@[simp] theorem State.modElem_scopes (s : State) (c p : Nat) (f : Elem → Elem) : (s.modElem c p f).scopes = s.scopes := rfl
@[simp] theorem State.modElem_waiters (s : State) (c p : Nat) (f : Elem → Elem) : (s.modElem c p f).waiters = s.waiters := rfl
@[simp] theorem State.modElem_watches (s : State) (c p : Nat) (f : Elem → Elem) : (s.modElem c p f).watches = s.watches := rfl
@[simp] theorem State.modElem_heldAppends (s : State) (c p : Nat) (f : Elem → Elem) : (s.modElem c p f).heldAppends = s.heldAppends := rfl
@[simp] theorem State.modElem_tlb (s : State) (c p : Nat) (f : Elem → Elem) : (s.modElem c p f).tlb = s.tlb := rfl
@[simp] theorem State.modElem_xfaults (s : State) (c p : Nat) (f : Elem → Elem) : (s.modElem c p f).xfaults = s.xfaults := rfl
@[simp] theorem State.modElem_belfry (s : State) (c p : Nat) (f : Elem → Elem) : (s.modElem c p f).belfry = s.belfry := rfl
@[simp] theorem State.modElem_belfryCache (s : State) (c p : Nat) (f : Elem → Elem) : (s.modElem c p f).belfryCache = s.belfryCache := rfl
@[simp] theorem State.modElem_entries (s : State) (c p : Nat) (f : Elem → Elem) : (s.modElem c p f).entries = s.entries := rfl
@[simp] theorem State.modElem_dreqs (s : State) (c p : Nat) (f : Elem → Elem) : (s.modElem c p f).dreqs = s.dreqs := rfl
@[simp] theorem State.modElem_dans (s : State) (c p : Nat) (f : Elem → Elem) : (s.modElem c p f).dans = s.dans := rfl
@[simp] theorem State.modElem_casts (s : State) (c p : Nat) (f : Elem → Elem) : (s.modElem c p f).casts = s.casts := rfl
@[simp] theorem State.modElem_exchange (s : State) (c p : Nat) (f : Elem → Elem) : (s.modElem c p f).exchange = s.exchange := rfl
@[simp] theorem State.modElem_rail (s : State) (c p : Nat) (f : Elem → Elem) : (s.modElem c p f).rail = s.rail := rfl
@[simp] theorem State.modElem_rowTag (s : State) (c p : Nat) (f : Elem → Elem) : (s.modElem c p f).rowTag = s.rowTag := rfl
@[simp] theorem State.modElem_reach (s : State) (c p : Nat) (f : Elem → Elem) : (s.modElem c p f).reach = s.reach := rfl
@[simp] theorem State.modElem_reasm (s : State) (c p : Nat) (f : Elem → Elem) : (s.modElem c p f).reasm = s.reasm := rfl
@[simp] theorem State.modElem_linkErrors (s : State) (c p : Nat) (f : Elem → Elem) : (s.modElem c p f).linkErrors = s.linkErrors := rfl
@[simp] theorem State.modElem_sent (s : State) (c p : Nat) (f : Elem → Elem) : (s.modElem c p f).sent = s.sent := rfl
@[simp] theorem State.modElem_ctxs (s : State) (c p : Nat) (f : Elem → Elem) : (s.modElem c p f).ctxs = s.ctxs := rfl
@[simp] theorem State.modElem_images (s : State) (c p : Nat) (f : Elem → Elem) : (s.modElem c p f).images = s.images := rfl
@[simp] theorem State.modElem_launches (s : State) (c p : Nat) (f : Elem → Elem) : (s.modElem c p f).launches = s.launches := rfl
@[simp] theorem State.modElem_turn (s : State) (c p : Nat) (f : Elem → Elem) : (s.modElem c p f).turn = s.turn := rfl
@[simp] theorem State.modElem_poda (s : State) (c p : Nat) (f : Elem → Elem) : (s.modElem c p f).poda = s.poda := rfl
@[simp] theorem State.modElem_podaFixed (s : State) (c p : Nat) (f : Elem → Elem) : (s.modElem c p f).podaFixed = s.podaFixed := rfl
@[simp] theorem State.modElem_cycle (s : State) (c p : Nat) (f : Elem → Elem) : (s.modElem c p f).cycle = s.cycle := rfl
@[simp] theorem State.modElem_fltr (s : State) (c p : Nat) (f : Elem → Elem) : (s.modElem c p f).fltr = s.fltr := rfl
@[simp] theorem State.modElem_fltwr (s : State) (c p : Nat) (f : Elem → Elem) : (s.modElem c p f).fltwr = s.fltwr := rfl
@[simp] theorem State.modElem_mcr (s : State) (c p : Nat) (f : Elem → Elem) : (s.modElem c p f).mcr = s.mcr := rfl
@[simp] theorem State.modElem_mcwr (s : State) (c p : Nat) (f : Elem → Elem) : (s.modElem c p f).mcwr = s.mcwr := rfl
@[simp] theorem State.modElem_pzaddr (s : State) (c p : Nat) (f : Elem → Elem) : (s.modElem c p f).pzaddr = s.pzaddr := rfl
@[simp] theorem State.modElem_pzBusy (s : State) (c p : Nat) (f : Elem → Elem) : (s.modElem c p f).pzBusy = s.pzBusy := rfl
@[simp] theorem State.modElem_plim (s : State) (c p : Nat) (f : Elem → Elem) : (s.modElem c p f).plim = s.plim := rfl
@[simp] theorem State.modElem_refr (s : State) (c p : Nat) (f : Elem → Elem) : (s.modElem c p f).refr = s.refr := rfl
@[simp] theorem State.modElem_throttle (s : State) (c p : Nat) (f : Elem → Elem) : (s.modElem c p f).throttle = s.throttle := rfl
@[simp] theorem State.modElem_keyTab (s : State) (c p : Nat) (f : Elem → Elem) : (s.modElem c p f).keyTab = s.keyTab := rfl
@[simp] theorem State.modElem_corrected (s : State) (c p : Nat) (f : Elem → Elem) : (s.modElem c p f).corrected = s.corrected := rfl
@[simp] theorem State.modElem_fwMeas (s : State) (c p : Nat) (f : Elem → Elem) : (s.modElem c p f).fwMeas = s.fwMeas := rfl
@[simp] theorem State.modElem_svMeas (s : State) (c p : Nat) (f : Elem → Elem) : (s.modElem c p f).svMeas = s.svMeas := rfl
@[simp] theorem State.modElem_sysKeys (s : State) (c p : Nat) (f : Elem → Elem) : (s.modElem c p f).sysKeys = s.sysKeys := rfl
@[simp] theorem State.modElem_qpairs (s : State) (c p : Nat) (f : Elem → Elem) : (s.modElem c p f).qpairs = s.qpairs := rfl
@[simp] theorem State.modElem_rateStep (s : State) (c p : Nat) (f : Elem → Elem) : (s.modElem c p f).rateStep = s.rateStep := rfl
@[simp] theorem State.modElem_requesters (s : State) (c p : Nat) (f : Elem → Elem) : (s.modElem c p f).requesters = s.requesters := rfl
@[simp] theorem State.modElem_poisonSrc (s : State) (c p : Nat) (f : Elem → Elem) : (s.modElem c p f).poisonSrc = s.poisonSrc := rfl
@[simp] theorem State.modElem_unitWait (s : State) (c p : Nat) (f : Elem → Elem) : (s.modElem c p f).unitWait = s.unitWait := rfl
@[simp] theorem State.modElem_fuse (s : State) (c p : Nat) (f : Elem → Elem) : (s.modElem c p f).fuse = s.fuse := rfl
@[simp] theorem State.modElem_hsMode (s : State) (c p : Nat) (f : Elem → Elem) : (s.modElem c p f).hsMode = s.hsMode := rfl

/-! ### A context is changed -/

@[simp] theorem State.modCtx_agenda (s : State) (x : Nat) (f : Ctx → Ctx) : (s.modCtx x f).agenda = s.agenda := rfl
@[simp] theorem State.modCtx_tick (s : State) (x : Nat) (f : Ctx → Ctx) : (s.modCtx x f).tick = s.tick := rfl
@[simp] theorem State.modCtx_cur (s : State) (x : Nat) (f : Ctx → Ctx) : (s.modCtx x f).cur = s.cur := rfl
@[simp] theorem State.modCtx_nextId (s : State) (x : Nat) (f : Ctx → Ctx) : (s.modCtx x f).nextId = s.nextId := rfl
@[simp] theorem State.modCtx_power (s : State) (x : Nat) (f : Ctx → Ctx) : (s.modCtx x f).power = s.power := rfl
@[simp] theorem State.modCtx_hbm (s : State) (x : Nat) (f : Ctx → Ctx) : (s.modCtx x f).hbm = s.hbm := rfl
@[simp] theorem State.modCtx_poison (s : State) (x : Nat) (f : Ctx → Ctx) : (s.modCtx x f).poison = s.poison := rfl
@[simp] theorem State.modCtx_lineKey (s : State) (x : Nat) (f : Ctx → Ctx) : (s.modCtx x f).lineKey = s.lineKey := rfl
@[simp] theorem State.modCtx_veils (s : State) (x : Nat) (f : Ctx → Ctx) : (s.modCtx x f).veils = s.veils := rfl
@[simp] theorem State.modCtx_owners (s : State) (x : Nat) (f : Ctx → Ctx) : (s.modCtx x f).owners = s.owners := rfl
@[simp] theorem State.modCtx_placed (s : State) (x : Nat) (f : Ctx → Ctx) : (s.modCtx x f).placed = s.placed := rfl
@[simp] theorem State.modCtx_scopes (s : State) (x : Nat) (f : Ctx → Ctx) : (s.modCtx x f).scopes = s.scopes := rfl
@[simp] theorem State.modCtx_waiters (s : State) (x : Nat) (f : Ctx → Ctx) : (s.modCtx x f).waiters = s.waiters := rfl
@[simp] theorem State.modCtx_watches (s : State) (x : Nat) (f : Ctx → Ctx) : (s.modCtx x f).watches = s.watches := rfl
@[simp] theorem State.modCtx_heldAppends (s : State) (x : Nat) (f : Ctx → Ctx) : (s.modCtx x f).heldAppends = s.heldAppends := rfl
@[simp] theorem State.modCtx_tlb (s : State) (x : Nat) (f : Ctx → Ctx) : (s.modCtx x f).tlb = s.tlb := rfl
@[simp] theorem State.modCtx_xfaults (s : State) (x : Nat) (f : Ctx → Ctx) : (s.modCtx x f).xfaults = s.xfaults := rfl
@[simp] theorem State.modCtx_cores (s : State) (x : Nat) (f : Ctx → Ctx) : (s.modCtx x f).cores = s.cores := rfl
@[simp] theorem State.modCtx_belfry (s : State) (x : Nat) (f : Ctx → Ctx) : (s.modCtx x f).belfry = s.belfry := rfl
@[simp] theorem State.modCtx_belfryCache (s : State) (x : Nat) (f : Ctx → Ctx) : (s.modCtx x f).belfryCache = s.belfryCache := rfl
@[simp] theorem State.modCtx_entries (s : State) (x : Nat) (f : Ctx → Ctx) : (s.modCtx x f).entries = s.entries := rfl
@[simp] theorem State.modCtx_dreqs (s : State) (x : Nat) (f : Ctx → Ctx) : (s.modCtx x f).dreqs = s.dreqs := rfl
@[simp] theorem State.modCtx_dans (s : State) (x : Nat) (f : Ctx → Ctx) : (s.modCtx x f).dans = s.dans := rfl
@[simp] theorem State.modCtx_casts (s : State) (x : Nat) (f : Ctx → Ctx) : (s.modCtx x f).casts = s.casts := rfl
@[simp] theorem State.modCtx_exchange (s : State) (x : Nat) (f : Ctx → Ctx) : (s.modCtx x f).exchange = s.exchange := rfl
@[simp] theorem State.modCtx_rail (s : State) (x : Nat) (f : Ctx → Ctx) : (s.modCtx x f).rail = s.rail := rfl
@[simp] theorem State.modCtx_rowTag (s : State) (x : Nat) (f : Ctx → Ctx) : (s.modCtx x f).rowTag = s.rowTag := rfl
@[simp] theorem State.modCtx_reach (s : State) (x : Nat) (f : Ctx → Ctx) : (s.modCtx x f).reach = s.reach := rfl
@[simp] theorem State.modCtx_reasm (s : State) (x : Nat) (f : Ctx → Ctx) : (s.modCtx x f).reasm = s.reasm := rfl
@[simp] theorem State.modCtx_linkErrors (s : State) (x : Nat) (f : Ctx → Ctx) : (s.modCtx x f).linkErrors = s.linkErrors := rfl
@[simp] theorem State.modCtx_sent (s : State) (x : Nat) (f : Ctx → Ctx) : (s.modCtx x f).sent = s.sent := rfl
@[simp] theorem State.modCtx_images (s : State) (x : Nat) (f : Ctx → Ctx) : (s.modCtx x f).images = s.images := rfl
@[simp] theorem State.modCtx_launches (s : State) (x : Nat) (f : Ctx → Ctx) : (s.modCtx x f).launches = s.launches := rfl
@[simp] theorem State.modCtx_turn (s : State) (x : Nat) (f : Ctx → Ctx) : (s.modCtx x f).turn = s.turn := rfl
@[simp] theorem State.modCtx_poda (s : State) (x : Nat) (f : Ctx → Ctx) : (s.modCtx x f).poda = s.poda := rfl
@[simp] theorem State.modCtx_podaFixed (s : State) (x : Nat) (f : Ctx → Ctx) : (s.modCtx x f).podaFixed = s.podaFixed := rfl
@[simp] theorem State.modCtx_cycle (s : State) (x : Nat) (f : Ctx → Ctx) : (s.modCtx x f).cycle = s.cycle := rfl
@[simp] theorem State.modCtx_fltr (s : State) (x : Nat) (f : Ctx → Ctx) : (s.modCtx x f).fltr = s.fltr := rfl
@[simp] theorem State.modCtx_fltwr (s : State) (x : Nat) (f : Ctx → Ctx) : (s.modCtx x f).fltwr = s.fltwr := rfl
@[simp] theorem State.modCtx_mcr (s : State) (x : Nat) (f : Ctx → Ctx) : (s.modCtx x f).mcr = s.mcr := rfl
@[simp] theorem State.modCtx_mcwr (s : State) (x : Nat) (f : Ctx → Ctx) : (s.modCtx x f).mcwr = s.mcwr := rfl
@[simp] theorem State.modCtx_pzaddr (s : State) (x : Nat) (f : Ctx → Ctx) : (s.modCtx x f).pzaddr = s.pzaddr := rfl
@[simp] theorem State.modCtx_pzBusy (s : State) (x : Nat) (f : Ctx → Ctx) : (s.modCtx x f).pzBusy = s.pzBusy := rfl
@[simp] theorem State.modCtx_plim (s : State) (x : Nat) (f : Ctx → Ctx) : (s.modCtx x f).plim = s.plim := rfl
@[simp] theorem State.modCtx_refr (s : State) (x : Nat) (f : Ctx → Ctx) : (s.modCtx x f).refr = s.refr := rfl
@[simp] theorem State.modCtx_throttle (s : State) (x : Nat) (f : Ctx → Ctx) : (s.modCtx x f).throttle = s.throttle := rfl
@[simp] theorem State.modCtx_keyTab (s : State) (x : Nat) (f : Ctx → Ctx) : (s.modCtx x f).keyTab = s.keyTab := rfl
@[simp] theorem State.modCtx_corrected (s : State) (x : Nat) (f : Ctx → Ctx) : (s.modCtx x f).corrected = s.corrected := rfl
@[simp] theorem State.modCtx_fwMeas (s : State) (x : Nat) (f : Ctx → Ctx) : (s.modCtx x f).fwMeas = s.fwMeas := rfl
@[simp] theorem State.modCtx_svMeas (s : State) (x : Nat) (f : Ctx → Ctx) : (s.modCtx x f).svMeas = s.svMeas := rfl
@[simp] theorem State.modCtx_sysKeys (s : State) (x : Nat) (f : Ctx → Ctx) : (s.modCtx x f).sysKeys = s.sysKeys := rfl
@[simp] theorem State.modCtx_qpairs (s : State) (x : Nat) (f : Ctx → Ctx) : (s.modCtx x f).qpairs = s.qpairs := rfl
@[simp] theorem State.modCtx_rateStep (s : State) (x : Nat) (f : Ctx → Ctx) : (s.modCtx x f).rateStep = s.rateStep := rfl
@[simp] theorem State.modCtx_requesters (s : State) (x : Nat) (f : Ctx → Ctx) : (s.modCtx x f).requesters = s.requesters := rfl
@[simp] theorem State.modCtx_poisonSrc (s : State) (x : Nat) (f : Ctx → Ctx) : (s.modCtx x f).poisonSrc = s.poisonSrc := rfl
@[simp] theorem State.modCtx_unitWait (s : State) (x : Nat) (f : Ctx → Ctx) : (s.modCtx x f).unitWait = s.unitWait := rfl
@[simp] theorem State.modCtx_fuse (s : State) (x : Nat) (f : Ctx → Ctx) : (s.modCtx x f).fuse = s.fuse := rfl
@[simp] theorem State.modCtx_hsMode (s : State) (x : Nat) (f : Ctx → Ctx) : (s.modCtx x f).hsMode = s.hsMode := rfl

/-! ### A message is sent -/

@[simp] theorem State.send_agenda (s : State) (m : Msg) : (s.send m).agenda = s.agenda := rfl
@[simp] theorem State.send_tick (s : State) (m : Msg) : (s.send m).tick = s.tick := rfl
@[simp] theorem State.send_cur (s : State) (m : Msg) : (s.send m).cur = s.cur := rfl
@[simp] theorem State.send_nextId (s : State) (m : Msg) : (s.send m).nextId = s.nextId := rfl
@[simp] theorem State.send_power (s : State) (m : Msg) : (s.send m).power = s.power := rfl
@[simp] theorem State.send_hbm (s : State) (m : Msg) : (s.send m).hbm = s.hbm := rfl
@[simp] theorem State.send_poison (s : State) (m : Msg) : (s.send m).poison = s.poison := rfl
@[simp] theorem State.send_lineKey (s : State) (m : Msg) : (s.send m).lineKey = s.lineKey := rfl
@[simp] theorem State.send_veils (s : State) (m : Msg) : (s.send m).veils = s.veils := rfl
@[simp] theorem State.send_owners (s : State) (m : Msg) : (s.send m).owners = s.owners := rfl
@[simp] theorem State.send_placed (s : State) (m : Msg) : (s.send m).placed = s.placed := rfl
@[simp] theorem State.send_scopes (s : State) (m : Msg) : (s.send m).scopes = s.scopes := rfl
@[simp] theorem State.send_waiters (s : State) (m : Msg) : (s.send m).waiters = s.waiters := rfl
@[simp] theorem State.send_watches (s : State) (m : Msg) : (s.send m).watches = s.watches := rfl
@[simp] theorem State.send_heldAppends (s : State) (m : Msg) : (s.send m).heldAppends = s.heldAppends := rfl
@[simp] theorem State.send_tlb (s : State) (m : Msg) : (s.send m).tlb = s.tlb := rfl
@[simp] theorem State.send_xfaults (s : State) (m : Msg) : (s.send m).xfaults = s.xfaults := rfl
@[simp] theorem State.send_cores (s : State) (m : Msg) : (s.send m).cores = s.cores := rfl
@[simp] theorem State.send_belfry (s : State) (m : Msg) : (s.send m).belfry = s.belfry := rfl
@[simp] theorem State.send_belfryCache (s : State) (m : Msg) : (s.send m).belfryCache = s.belfryCache := rfl
@[simp] theorem State.send_entries (s : State) (m : Msg) : (s.send m).entries = s.entries := rfl
@[simp] theorem State.send_dreqs (s : State) (m : Msg) : (s.send m).dreqs = s.dreqs := rfl
@[simp] theorem State.send_dans (s : State) (m : Msg) : (s.send m).dans = s.dans := rfl
@[simp] theorem State.send_casts (s : State) (m : Msg) : (s.send m).casts = s.casts := rfl
@[simp] theorem State.send_exchange (s : State) (m : Msg) : (s.send m).exchange = s.exchange := rfl
@[simp] theorem State.send_rail (s : State) (m : Msg) : (s.send m).rail = s.rail := rfl
@[simp] theorem State.send_rowTag (s : State) (m : Msg) : (s.send m).rowTag = s.rowTag := rfl
@[simp] theorem State.send_reach (s : State) (m : Msg) : (s.send m).reach = s.reach := rfl
@[simp] theorem State.send_reasm (s : State) (m : Msg) : (s.send m).reasm = s.reasm := rfl
@[simp] theorem State.send_linkErrors (s : State) (m : Msg) : (s.send m).linkErrors = s.linkErrors := rfl
@[simp] theorem State.send_ctxs (s : State) (m : Msg) : (s.send m).ctxs = s.ctxs := rfl
@[simp] theorem State.send_images (s : State) (m : Msg) : (s.send m).images = s.images := rfl
@[simp] theorem State.send_launches (s : State) (m : Msg) : (s.send m).launches = s.launches := rfl
@[simp] theorem State.send_turn (s : State) (m : Msg) : (s.send m).turn = s.turn := rfl
@[simp] theorem State.send_poda (s : State) (m : Msg) : (s.send m).poda = s.poda := rfl
@[simp] theorem State.send_podaFixed (s : State) (m : Msg) : (s.send m).podaFixed = s.podaFixed := rfl
@[simp] theorem State.send_cycle (s : State) (m : Msg) : (s.send m).cycle = s.cycle := rfl
@[simp] theorem State.send_fltr (s : State) (m : Msg) : (s.send m).fltr = s.fltr := rfl
@[simp] theorem State.send_fltwr (s : State) (m : Msg) : (s.send m).fltwr = s.fltwr := rfl
@[simp] theorem State.send_mcr (s : State) (m : Msg) : (s.send m).mcr = s.mcr := rfl
@[simp] theorem State.send_mcwr (s : State) (m : Msg) : (s.send m).mcwr = s.mcwr := rfl
@[simp] theorem State.send_pzaddr (s : State) (m : Msg) : (s.send m).pzaddr = s.pzaddr := rfl
@[simp] theorem State.send_pzBusy (s : State) (m : Msg) : (s.send m).pzBusy = s.pzBusy := rfl
@[simp] theorem State.send_plim (s : State) (m : Msg) : (s.send m).plim = s.plim := rfl
@[simp] theorem State.send_refr (s : State) (m : Msg) : (s.send m).refr = s.refr := rfl
@[simp] theorem State.send_throttle (s : State) (m : Msg) : (s.send m).throttle = s.throttle := rfl
@[simp] theorem State.send_keyTab (s : State) (m : Msg) : (s.send m).keyTab = s.keyTab := rfl
@[simp] theorem State.send_corrected (s : State) (m : Msg) : (s.send m).corrected = s.corrected := rfl
@[simp] theorem State.send_fwMeas (s : State) (m : Msg) : (s.send m).fwMeas = s.fwMeas := rfl
@[simp] theorem State.send_svMeas (s : State) (m : Msg) : (s.send m).svMeas = s.svMeas := rfl
@[simp] theorem State.send_sysKeys (s : State) (m : Msg) : (s.send m).sysKeys = s.sysKeys := rfl
@[simp] theorem State.send_qpairs (s : State) (m : Msg) : (s.send m).qpairs = s.qpairs := rfl
@[simp] theorem State.send_rateStep (s : State) (m : Msg) : (s.send m).rateStep = s.rateStep := rfl
@[simp] theorem State.send_requesters (s : State) (m : Msg) : (s.send m).requesters = s.requesters := rfl
@[simp] theorem State.send_poisonSrc (s : State) (m : Msg) : (s.send m).poisonSrc = s.poisonSrc := rfl
@[simp] theorem State.send_unitWait (s : State) (m : Msg) : (s.send m).unitWait = s.unitWait := rfl
@[simp] theorem State.send_fuse (s : State) (m : Msg) : (s.send m).fuse = s.fuse := rfl
@[simp] theorem State.send_hsMode (s : State) (m : Msg) : (s.send m).hsMode = s.hsMode := rfl

/-! ### Parts of a core -/

@[simp] theorem Core.setElem_own (k : Core) (p : Nat) (e : Elem) : (k.setElem p e).own = k.own := rfl
@[simp] theorem Core.setElem_slots (k : Core) (p : Nat) (e : Elem) : (k.setElem p e).slots = k.slots := rfl
@[simp] theorem Core.setElem_running (k : Core) (p : Nat) (e : Elem) : (k.setElem p e).running = k.running := rfl
@[simp] theorem Core.setElem_rr (k : Core) (p : Nat) (e : Elem) : (k.setElem p e).rr = k.rr := rfl
@[simp] theorem Core.setElem_nsp (k : Core) (p : Nat) (e : Elem) : (k.setElem p e).nsp = k.nsp := rfl
@[simp] theorem Core.setElem_sp (k : Core) (p : Nat) (e : Elem) : (k.setElem p e).sp = k.sp := rfl
@[simp] theorem Core.setElem_full (k : Core) (p : Nat) (e : Elem) : (k.setElem p e).full = k.full := rfl
@[simp] theorem Core.setElem_lists (k : Core) (p : Nat) (e : Elem) : (k.setElem p e).lists = k.lists := rfl
@[simp] theorem Core.setElem_writers (k : Core) (p : Nat) (e : Elem) : (k.setElem p e).writers = k.writers := rfl
@[simp] theorem Core.setElem_poolQ (k : Core) (p : Nat) (e : Elem) : (k.setElem p e).poolQ = k.poolQ := rfl
@[simp] theorem Core.setElem_spPoison (k : Core) (p : Nat) (e : Elem) : (k.setElem p e).spPoison = k.spPoison := rfl
@[simp] theorem Core.setElem_fused (k : Core) (p : Nat) (e : Elem) : (k.setElem p e).fused = k.fused := rfl
@[simp] theorem Core.setElem_l1 (k : Core) (p : Nat) (e : Elem) : (k.setElem p e).l1 = k.l1 := rfl
@[simp] theorem Core.setElem_handles (k : Core) (p : Nat) (e : Elem) : (k.setElem p e).handles = k.handles := rfl
@[simp] theorem Core.setElem_metaC (k : Core) (p : Nat) (e : Elem) : (k.setElem p e).metaC = k.metaC := rfl
@[simp] theorem Core.setElem_op (k : Core) (p : Nat) (e : Elem) : (k.setElem p e).op = k.op := rfl
@[simp] theorem Core.setElem_tiles (k : Core) (p : Nat) (e : Elem) : (k.setElem p e).tiles = k.tiles := rfl
@[simp] theorem Core.setElem_seq (k : Core) (p : Nat) (e : Elem) : (k.setElem p e).seq = k.seq := rfl
@[simp] theorem Core.setElem_stLines (k : Core) (p : Nat) (e : Elem) : (k.setElem p e).stLines = k.stLines := rfl
@[simp] theorem Core.setElem_queues (k : Core) (p : Nat) (e : Elem) : (k.setElem p e).queues = k.queues := rfl
@[simp] theorem Core.setElem_filter (k : Core) (p : Nat) (e : Elem) : (k.setElem p e).filter = k.filter := rfl
@[simp] theorem Core.setElem_range (k : Core) (p : Nat) (e : Elem) : (k.setElem p e).range = k.range := rfl
@[simp] theorem Core.setElem_net (k : Core) (p : Nat) (e : Elem) : (k.setElem p e).net = k.net := rfl
@[simp] theorem Core.setElem_srcRun (k : Core) (p : Nat) (e : Elem) : (k.setElem p e).srcRun = k.srcRun := rfl
@[simp] theorem Core.setElem_spSrc (k : Core) (p : Nat) (e : Elem) : (k.setElem p e).spSrc = k.spSrc := rfl

@[simp] theorem Core.setSlot_own (k : Core) (n : Nat) (x : Slot) : (k.setSlot n x).own = k.own := rfl
@[simp] theorem Core.setSlot_elems (k : Core) (n : Nat) (x : Slot) : (k.setSlot n x).elems = k.elems := rfl
@[simp] theorem Core.setSlot_running (k : Core) (n : Nat) (x : Slot) : (k.setSlot n x).running = k.running := rfl
@[simp] theorem Core.setSlot_rr (k : Core) (n : Nat) (x : Slot) : (k.setSlot n x).rr = k.rr := rfl
@[simp] theorem Core.setSlot_nsp (k : Core) (n : Nat) (x : Slot) : (k.setSlot n x).nsp = k.nsp := rfl
@[simp] theorem Core.setSlot_sp (k : Core) (n : Nat) (x : Slot) : (k.setSlot n x).sp = k.sp := rfl
@[simp] theorem Core.setSlot_full (k : Core) (n : Nat) (x : Slot) : (k.setSlot n x).full = k.full := rfl
@[simp] theorem Core.setSlot_lists (k : Core) (n : Nat) (x : Slot) : (k.setSlot n x).lists = k.lists := rfl
@[simp] theorem Core.setSlot_writers (k : Core) (n : Nat) (x : Slot) : (k.setSlot n x).writers = k.writers := rfl
@[simp] theorem Core.setSlot_poolQ (k : Core) (n : Nat) (x : Slot) : (k.setSlot n x).poolQ = k.poolQ := rfl
@[simp] theorem Core.setSlot_spPoison (k : Core) (n : Nat) (x : Slot) : (k.setSlot n x).spPoison = k.spPoison := rfl
@[simp] theorem Core.setSlot_fused (k : Core) (n : Nat) (x : Slot) : (k.setSlot n x).fused = k.fused := rfl
@[simp] theorem Core.setSlot_l1 (k : Core) (n : Nat) (x : Slot) : (k.setSlot n x).l1 = k.l1 := rfl
@[simp] theorem Core.setSlot_handles (k : Core) (n : Nat) (x : Slot) : (k.setSlot n x).handles = k.handles := rfl
@[simp] theorem Core.setSlot_metaC (k : Core) (n : Nat) (x : Slot) : (k.setSlot n x).metaC = k.metaC := rfl
@[simp] theorem Core.setSlot_op (k : Core) (n : Nat) (x : Slot) : (k.setSlot n x).op = k.op := rfl
@[simp] theorem Core.setSlot_tiles (k : Core) (n : Nat) (x : Slot) : (k.setSlot n x).tiles = k.tiles := rfl
@[simp] theorem Core.setSlot_seq (k : Core) (n : Nat) (x : Slot) : (k.setSlot n x).seq = k.seq := rfl
@[simp] theorem Core.setSlot_stLines (k : Core) (n : Nat) (x : Slot) : (k.setSlot n x).stLines = k.stLines := rfl
@[simp] theorem Core.setSlot_queues (k : Core) (n : Nat) (x : Slot) : (k.setSlot n x).queues = k.queues := rfl
@[simp] theorem Core.setSlot_filter (k : Core) (n : Nat) (x : Slot) : (k.setSlot n x).filter = k.filter := rfl
@[simp] theorem Core.setSlot_range (k : Core) (n : Nat) (x : Slot) : (k.setSlot n x).range = k.range := rfl
@[simp] theorem Core.setSlot_net (k : Core) (n : Nat) (x : Slot) : (k.setSlot n x).net = k.net := rfl
@[simp] theorem Core.setSlot_srcRun (k : Core) (n : Nat) (x : Slot) : (k.setSlot n x).srcRun = k.srcRun := rfl
@[simp] theorem Core.setSlot_spSrc (k : Core) (n : Nat) (x : Slot) : (k.setSlot n x).spSrc = k.spSrc := rfl

/-! ### Parts of a slot -/

@[simp] theorem Slot.setReg_status (x : Slot) (r : Nat) (v : Word) : (x.setReg r v).status = x.status := rfl
@[simp] theorem Slot.setReg_entry (x : Slot) (r : Nat) (v : Word) : (x.setReg r v).entry = x.entry := rfl
@[simp] theorem Slot.setReg_stop (x : Slot) (r : Nat) (v : Word) : (x.setReg r v).stop = x.stop := rfl
@[simp] theorem Slot.setReg_pc (x : Slot) (r : Nat) (v : Word) : (x.setReg r v).pc = x.pc := rfl
@[simp] theorem Slot.setReg_serial (x : Slot) (r : Nat) (v : Word) : (x.setReg r v).serial = x.serial := rfl
@[simp] theorem Slot.setReg_issued (x : Slot) (r : Nat) (v : Word) : (x.setReg r v).issued = x.issued := rfl
@[simp] theorem Slot.setReg_taken (x : Slot) (r : Nat) (v : Word) : (x.setReg r v).taken = x.taken := rfl
@[simp] theorem Slot.setReg_sent (x : Slot) (r : Nat) (v : Word) : (x.setReg r v).sent = x.sent := rfl
@[simp] theorem Slot.setReg_park (x : Slot) (r : Nat) (v : Word) : (x.setReg r v).park = x.park := rfl
@[simp] theorem Slot.setReg_under (x : Slot) (r : Nat) (v : Word) : (x.setReg r v).under = x.under := rfl
@[simp] theorem Slot.setReg_passed (x : Slot) (r : Nat) (v : Word) : (x.setReg r v).passed = x.passed := rfl
@[simp] theorem Slot.setReg_cand (x : Slot) (r : Nat) (v : Word) : (x.setReg r v).cand = x.cand := rfl
@[simp] theorem Slot.setReg_drop (x : Slot) (r : Nat) (v : Word) : (x.setReg r v).drop = x.drop := rfl
@[simp] theorem Slot.setReg_eosDue (x : Slot) (r : Nat) (v : Word) : (x.setReg r v).eosDue = x.eosDue := rfl
@[simp] theorem Slot.setReg_savedBad (x : Slot) (r : Nat) (v : Word) : (x.setReg r v).savedBad = x.savedBad := rfl
@[simp] theorem Slot.setReg_pend (x : Slot) (r : Nat) (v : Word) : (x.setReg r v).pend = x.pend := rfl
@[simp] theorem Slot.setReg_poisoned (x : Slot) (r : Nat) (v : Word) : (x.setReg r v).poisoned = ldel x.poisoned r := rfl

@[simp] theorem Slot.retire_status (x : Slot) : (x.retire).status = x.status := rfl
@[simp] theorem Slot.retire_entry (x : Slot) : (x.retire).entry = x.entry := rfl
@[simp] theorem Slot.retire_stop (x : Slot) : (x.retire).stop = x.stop := rfl
@[simp] theorem Slot.retire_regs (x : Slot) : (x.retire).regs = x.regs := rfl
@[simp] theorem Slot.retire_serial (x : Slot) : (x.retire).serial = x.serial := rfl
@[simp] theorem Slot.retire_taken (x : Slot) : (x.retire).taken = x.taken := rfl
@[simp] theorem Slot.retire_sent (x : Slot) : (x.retire).sent = x.sent := rfl
@[simp] theorem Slot.retire_passed (x : Slot) : (x.retire).passed = x.passed := rfl
@[simp] theorem Slot.retire_cand (x : Slot) : (x.retire).cand = x.cand := rfl
@[simp] theorem Slot.retire_drop (x : Slot) : (x.retire).drop = x.drop := rfl
@[simp] theorem Slot.retire_eosDue (x : Slot) : (x.retire).eosDue = x.eosDue := rfl
@[simp] theorem Slot.retire_poisoned (x : Slot) : (x.retire).poisoned = x.poisoned := rfl
@[simp] theorem Slot.retire_savedBad (x : Slot) : (x.retire).savedBad = x.savedBad := rfl
@[simp] theorem Slot.retire_pend (x : Slot) : (x.retire).pend = x.pend := rfl

@[simp] theorem Slot.retire_pc (x : Slot) : x.retire.pc = x.pc + 8 := rfl
@[simp] theorem Slot.retire_issued (x : Slot) : x.retire.issued = x.issued + 1 := rfl
@[simp] theorem Slot.retire_park (x : Slot) : x.retire.park = none := rfl
@[simp] theorem Slot.retire_under (x : Slot) : x.retire.under = none := rfl

/-! ### Flags of an element -/

@[simp] theorem Elem.record_b0 (e : Elem) (fl : BitVec 4) : (e.record fl).b0 = e.b0 := rfl
@[simp] theorem Elem.record_b1 (e : Elem) (fl : BitVec 4) : (e.record fl).b1 = e.b1 := rfl
@[simp] theorem Elem.record_armed (e : Elem) (fl : BitVec 4) : (e.record fl).armed = e.armed := rfl
@[simp] theorem Elem.record_pa (e : Elem) (fl : BitVec 4) : (e.record fl).pa = e.pa := rfl
@[simp] theorem Elem.record_pb (e : Elem) (fl : BitVec 4) : (e.record fl).pb = e.pb := rfl
@[simp] theorem Elem.record_pc (e : Elem) (fl : BitVec 4) : (e.record fl).pc = e.pc := rfl
@[simp] theorem Elem.record_chans (e : Elem) (fl : BitVec 4) : (e.record fl).chans = e.chans := rfl
@[simp] theorem Elem.record_q0 (e : Elem) (fl : BitVec 4) : (e.record fl).q0 = e.q0 := rfl
@[simp] theorem Elem.record_q1 (e : Elem) (fl : BitVec 4) : (e.record fl).q1 = e.q1 := rfl
@[simp] theorem Elem.record_line (e : Elem) (fl : BitVec 4) : (e.record fl).line = e.line := rfl
@[simp] theorem Elem.record_filled (e : Elem) (fl : BitVec 4) : (e.record fl).filled = e.filled := rfl
@[simp] theorem Elem.record_acc (e : Elem) (fl : BitVec 4) : (e.record fl).acc = e.acc := rfl
@[simp] theorem Elem.record_accSet (e : Elem) (fl : BitVec 4) : (e.record fl).accSet = e.accSet := rfl
@[simp] theorem Elem.record_folds (e : Elem) (fl : BitVec 4) : (e.record fl).folds = e.folds := rfl
@[simp] theorem Elem.record_carry (e : Elem) (fl : BitVec 4) : (e.record fl).carry = e.carry := rfl
@[simp] theorem Elem.record_prog (e : Elem) (fl : BitVec 4) : (e.record fl).prog = e.prog := rfl
@[simp] theorem Elem.record_begun (e : Elem) (fl : BitVec 4) : (e.record fl).begun = e.begun := rfl
@[simp] theorem Elem.record_lo (e : Elem) (fl : BitVec 4) : (e.record fl).lo = e.lo := rfl
@[simp] theorem Elem.record_hi (e : Elem) (fl : BitVec 4) : (e.record fl).hi = e.hi := rfl
@[simp] theorem Elem.record_last (e : Elem) (fl : BitVec 4) : (e.record fl).last = e.last := rfl
@[simp] theorem Elem.record_seenF (e : Elem) (fl : BitVec 4) : (e.record fl).seenF = e.seenF := rfl
@[simp] theorem Elem.record_pend (e : Elem) (fl : BitVec 4) : (e.record fl).pend = e.pend := rfl
@[simp] theorem Elem.record_j (e : Elem) (fl : BitVec 4) : (e.record fl).j = e.j := rfl
@[simp] theorem Elem.record_p (e : Elem) (fl : BitVec 4) : (e.record fl).p = e.p := rfl
@[simp] theorem Elem.record_f (e : Elem) (fl : BitVec 4) : (e.record fl).f = e.f := rfl
@[simp] theorem Elem.record_fin (e : Elem) (fl : BitVec 4) : (e.record fl).fin = e.fin := rfl
@[simp] theorem Elem.record_lastStop (e : Elem) (fl : BitVec 4) : (e.record fl).lastStop = e.lastStop := rfl
@[simp] theorem Elem.record_ending (e : Elem) (fl : BitVec 4) : (e.record fl).ending = e.ending := rfl
@[simp] theorem Elem.record_outQ (e : Elem) (fl : BitVec 4) : (e.record fl).outQ = e.outQ := rfl
@[simp] theorem Elem.record_settle (e : Elem) (fl : BitVec 4) : (e.record fl).settle = e.settle := rfl
@[simp] theorem Elem.record_lastSealed (e : Elem) (fl : BitVec 4) : (e.record fl).lastSealed = e.lastSealed := rfl
@[simp] theorem Elem.record_acks (e : Elem) (fl : BitVec 4) : (e.record fl).acks = e.acks := rfl
@[simp] theorem Elem.record_trig (e : Elem) (fl : BitVec 4) : (e.record fl).trig = e.trig := rfl
@[simp] theorem Elem.record_decls (e : Elem) (fl : BitVec 4) : (e.record fl).decls = e.decls := rfl
@[simp] theorem Elem.record_declReq (e : Elem) (fl : BitVec 4) : (e.record fl).declReq = e.declReq := rfl
@[simp] theorem Elem.record_osEos (e : Elem) (fl : BitVec 4) : (e.record fl).osEos = e.osEos := rfl
@[simp] theorem Elem.record_holds (e : Elem) (fl : BitVec 4) : (e.record fl).holds = e.holds := rfl
@[simp] theorem Elem.record_due (e : Elem) (fl : BitVec 4) : (e.record fl).due = e.due := rfl
@[simp] theorem Elem.record_got (e : Elem) (fl : BitVec 4) : (e.record fl).got = e.got := rfl
@[simp] theorem Elem.record_hver (e : Elem) (fl : BitVec 4) : (e.record fl).hver = e.hver := rfl
@[simp] theorem Elem.record_xwait (e : Elem) (fl : BitVec 4) : (e.record fl).xwait = e.xwait := rfl
@[simp] theorem Elem.record_batch (e : Elem) (fl : BitVec 4) : (e.record fl).batch = e.batch := rfl
@[simp] theorem Elem.record_routeX (e : Elem) (fl : BitVec 4) : (e.record fl).routeX = e.routeX := rfl
@[simp] theorem Elem.record_routeY (e : Elem) (fl : BitVec 4) : (e.record fl).routeY = e.routeY := rfl
@[simp] theorem Elem.record_cmds (e : Elem) (fl : BitVec 4) : (e.record fl).cmds = e.cmds := rfl
@[simp] theorem Elem.record_events (e : Elem) (fl : BitVec 4) : (e.record fl).events = e.events := rfl
@[simp] theorem Elem.record_swaps (e : Elem) (fl : BitVec 4) : (e.record fl).swaps = e.swaps := rfl
@[simp] theorem Elem.record_armedAt (e : Elem) (fl : BitVec 4) : (e.record fl).armedAt = e.armedAt := rfl
@[simp] theorem Elem.record_swapped (e : Elem) (fl : BitVec 4) : (e.record fl).swapped = e.swapped := rfl
@[simp] theorem Elem.record_endHeld (e : Elem) (fl : BitVec 4) : (e.record fl).endHeld = e.endHeld := rfl
@[simp] theorem Elem.record_spoiled (e : Elem) (fl : BitVec 4) : (e.record fl).spoiled = e.spoiled := rfl
@[simp] theorem Elem.record_trigOut (e : Elem) (fl : BitVec 4) : (e.record fl).trigOut = e.trigOut := rfl
@[simp] theorem Elem.record_xat (e : Elem) (fl : BitVec 4) : (e.record fl).xat = e.xat := rfl

end Sys2Proof.Machine
end

