-- ==== Sys2Proof/Laws/Ops.lean ====
section
/-!
SUPPORT. Laws of the shared operations: what reads after a write of a core, slot, element, context or register, what running an
actor's instruction can answer, and what a write to memory does.
-/
namespace Sys2Proof.Machine

/-! ### Cores, slots, elements -/

@[simp] theorem State.core_setCore_same (s : State) (c : Nat) (k : Core) : (s.setCore c k).core c = k := by
  simp [State.core, State.setCore]
theorem State.core_setCore_ne (s : State) {c d : Nat} (k : Core) (h : d ≠ c) : (s.setCore c k).core d = s.core d := by
  simp [State.core, State.setCore, mgetD_mset_ne _ _ _ h]
@[simp] theorem State.core_modCore_same (s : State) (c : Nat) (f : Core → Core) : (s.modCore c f).core c = f (s.core c) := by
  simp [State.modCore]
theorem State.core_modCore_ne (s : State) {c d : Nat} (f : Core → Core) (h : d ≠ c) : (s.modCore c f).core d = s.core d :=
  State.core_setCore_ne s _ h

@[simp] theorem Core.slot_setSlot_same (k : Core) (n : Nat) (x : Slot) : (k.setSlot n x).slot n = x := by
  simp [Core.slot, Core.setSlot]
theorem Core.slot_setSlot_ne (k : Core) {n m : Nat} (x : Slot) (h : m ≠ n) : (k.setSlot n x).slot m = k.slot m := by
  simp [Core.slot, Core.setSlot, mgetD_mset_ne _ _ _ h]
@[simp] theorem Core.elem_setElem_same (k : Core) (p : Nat) (e : Elem) : (k.setElem p e).elem p = e := by
  simp [Core.elem, Core.setElem]
theorem Core.elem_setElem_ne (k : Core) {p q : Nat} (e : Elem) (h : q ≠ p) : (k.setElem p e).elem q = k.elem q := by
  simp [Core.elem, Core.setElem, mgetD_mset_ne _ _ _ h]
@[simp] theorem Core.slot_setElem (k : Core) (p n : Nat) (e : Elem) : (k.setElem p e).slot n = k.slot n := rfl
@[simp] theorem Core.elem_setSlot (k : Core) (n p : Nat) (x : Slot) : (k.setSlot n x).elem p = k.elem p := rfl

@[simp] theorem State.slot_modSlot_same (s : State) (c n : Nat) (f : Slot → Slot) :
    (s.modSlot c n f).slot c n = f (s.slot c n) := by
  simp [State.slot, State.modSlot]
theorem State.slot_modSlot_ne (s : State) {c n d m : Nat} (f : Slot → Slot) (h : d ≠ c ∨ m ≠ n) :
    (s.modSlot c n f).slot d m = s.slot d m := by
  by_cases hc : d = c
  · subst hc
    rcases h with h | h
    · exact absurd rfl h
    · simp [State.slot, State.modSlot, Core.slot_setSlot_ne _ _ h]
  · simp [State.slot, State.modSlot, State.core_modCore_ne _ _ hc]
@[simp] theorem State.elem_modElem_same (s : State) (c p : Nat) (f : Elem → Elem) :
    (s.modElem c p f).elem c p = f (s.elem c p) := by
  simp [State.elem, State.modElem]
theorem State.elem_modElem_ne (s : State) {c p d q : Nat} (f : Elem → Elem) (h : d ≠ c ∨ q ≠ p) :
    (s.modElem c p f).elem d q = s.elem d q := by
  by_cases hc : d = c
  · subst hc
    rcases h with h | h
    · exact absurd rfl h
    · simp [State.elem, State.modElem, Core.elem_setElem_ne _ _ h]
  · simp [State.elem, State.modElem, State.core_modCore_ne _ _ hc]
@[simp] theorem State.elem_modSlot (s : State) (c n d p : Nat) (f : Slot → Slot) :
    (s.modSlot c n f).elem d p = s.elem d p := by
  by_cases hc : d = c
  · subst hc; simp [State.elem, State.modSlot]
  · simp [State.elem, State.modSlot, State.core_modCore_ne _ _ hc]
@[simp] theorem State.slot_modElem (s : State) (c p d n : Nat) (f : Elem → Elem) :
    (s.modElem c p f).slot d n = s.slot d n := by
  by_cases hc : d = c
  · subst hc; simp [State.slot, State.modElem]
  · simp [State.slot, State.modElem, State.core_modCore_ne _ _ hc]

@[simp] theorem State.ctx_modCtx_same (s : State) (x : Nat) (f : Ctx → Ctx) : (s.modCtx x f).ctx x = f (s.ctx x) := by
  simp [State.ctx, State.modCtx]
theorem State.ctx_modCtx_ne (s : State) {x y : Nat} (f : Ctx → Ctx) (h : y ≠ x) : (s.modCtx x f).ctx y = s.ctx y := by
  simp [State.ctx, State.modCtx, mgetD_mset_ne _ _ _ h]
@[simp] theorem State.core_modCtx (s : State) (x c : Nat) (f : Ctx → Ctx) : (s.modCtx x f).core c = s.core c := rfl
@[simp] theorem State.slot_modCtx (s : State) (x c n : Nat) (f : Ctx → Ctx) : (s.modCtx x f).slot c n = s.slot c n := rfl
@[simp] theorem State.elem_modCtx (s : State) (x c p : Nat) (f : Ctx → Ctx) : (s.modCtx x f).elem c p = s.elem c p := rfl

/-! ### Launches -/

theorem State.modLaunch_frame (s : State) (l : Nat) (f : Launch → Launch) :
    s.modLaunch l f = { s with launches := (s.modLaunch l f).launches } := by
  unfold State.modLaunch; split <;> rfl
@[simp] theorem State.cores_modLaunch (s : State) (l : Nat) (f : Launch → Launch) : (s.modLaunch l f).cores = s.cores := by
  rw [State.modLaunch_frame]
@[simp] theorem State.hbm_modLaunch (s : State) (l : Nat) (f : Launch → Launch) : (s.modLaunch l f).hbm = s.hbm := by
  rw [State.modLaunch_frame]
@[simp] theorem State.core_modLaunch (s : State) (l c : Nat) (f : Launch → Launch) : (s.modLaunch l f).core c = s.core c := by
  rw [State.modLaunch_frame]; rfl
theorem State.launch_modLaunch_same (s : State) (l : Nat) (f : Launch → Launch) (k : Launch) (h : mget s.launches l = some k) :
    (s.modLaunch l f).launch l = f k := by
  simp [State.launch, State.modLaunch, h]
theorem State.launch_modLaunch_ne (s : State) {l m : Nat} (f : Launch → Launch) (h : m ≠ l) :
    (s.modLaunch l f).launch m = s.launch m := by
  unfold State.modLaunch
  split
  · simp [State.launch, mgetD_mset_ne _ _ _ h]
  · rfl

/-! ### Registers -/

@[simp] theorem Slot.reg_setReg_same (x : Slot) (r : Nat) (v : Word) : (x.setReg r v).reg r = v := by
  simp [Slot.reg, Slot.setReg]
theorem Slot.reg_setReg_ne (x : Slot) {r q : Nat} (v : Word) (h : q ≠ r) : (x.setReg r v).reg q = x.reg q := by
  simp [Slot.reg, Slot.setReg, mgetD_mset_ne _ _ _ h]
@[simp] theorem Slot.reg_retire (x : Slot) (r : Nat) : x.retire.reg r = x.reg r := rfl

/-- A scalar instruction writes one register of one slot and advances; nothing else of any slot changes. -/
theorem State.slot_put_same (s : State) (dst : Reg) (v : Word) :
    (s.put dst v).slot s.here.1 s.here.2 = ((s.slot s.here.1 s.here.2).setReg dst.toNat v).retire := by
  simp [State.put]
theorem State.slot_put_ne (s : State) (dst : Reg) (v : Word) (c n : Nat) (h : c ≠ s.here.1 ∨ n ≠ s.here.2) :
    (s.put dst v).slot c n = s.slot c n :=
  State.slot_modSlot_ne s _ h
@[simp] theorem State.elem_put (s : State) (dst : Reg) (v : Word) (c p : Nat) : (s.put dst v).elem c p = s.elem c p :=
  State.elem_modSlot ..
@[simp] theorem State.slot_flag60 (s : State) (c : Nat) (fl : BitVec 4) (d n : Nat) : (s.flag60 c fl).slot d n = s.slot d n := by
  unfold State.flag60; split
  · rfl
  · exact State.slot_modElem ..

/-! ### Operations that may stop short -/

theorem M.bind_ok {α β : Type} (m : M α) (f : α → M β) (s s' : State) (a : α) (h : m s = .ok (a, s')) :
    (m >>= f) s = f a s' := by
  simp only [bind, StateT.bind, h, Except.bind]
theorem M.bind_error {α β : Type} (m : M α) (f : α → M β) (s : State) (x : Stop) (h : m s = .error x) :
    (m >>= f) s = .error x := by
  simp only [bind, StateT.bind, h, Except.bind]
@[simp] theorem M.get_bind {β : Type} (f : State → M β) (s : State) : ((get : M State) >>= f) s = f s s := rfl
@[simp] theorem M.pure_apply {α : Type} (a : α) (s : State) : (pure a : M α) s = .ok (a, s) := rfl
@[simp] theorem M.pure_bind' {α β : Type} (a : α) (f : α → M β) : ((pure a : M α) >>= f) = f a := rfl
@[simp] theorem M.set_bind {β : Type} (t : State) (f : PUnit → M β) (s : State) : ((set t : M PUnit) >>= f) s = f ⟨⟩ t := rfl
@[simp] theorem M.modify_bind {β : Type} (g : State → State) (f : PUnit → M β) (s : State) :
    ((modify g : M PUnit) >>= f) s = f ⟨⟩ (g s) := rfl
@[simp] theorem M.modify_apply (g : State → State) (s : State) : (modify g : M PUnit) s = .ok (⟨⟩, g s) := rfl
@[simp] theorem M.stop_bind {α β : Type} (x : Stop) (f : α → M β) : ((stop x : M α) >>= f) = stop x := rfl
@[simp] theorem M.stop_apply {α : Type} (x : Stop) (s : State) : (stop x : M α) s = .error x := rfl

/-- What completes answers its next state. -/
theorem State.runActor_ok (s s' : State) (c n : Nat) (m : M Unit) (h : m s = .ok ((), s')) : s.runActor c n m = .next s' := by
  simp [State.runActor, h]
/-- A precise trap is taken. -/
theorem State.runActor_trap (s : State) (c n code : Nat) (m : M Unit) (w4 w5 : Word) (h : m s = .error (.trap code w4 w5)) :
    s.runActor c n m = .next (s.takeTrap c n code w4 w5) := by
  simp [State.runActor, h]
/-- A wait parks the firing. -/
theorem State.runActor_wait (s : State) (c n : Nat) (m : M Unit) (p : Park) (h : m s = .error (.wait p)) :
    s.runActor c n m = .next (State.runActor.hold s c n p) := by
  simp [State.runActor, h]
/-- An actor's instruction never faults and is never refused: it completes, traps, errs, or waits. -/
theorem State.runActor_next (s : State) (c n : Nat) (m : M Unit) : ∃ t, s.runActor c n m = .next t := by
  unfold State.runActor
  split <;> exact ⟨_, rfl⟩
theorem State.runElem_ok (s s' : State) (c p : Nat) (m : M Unit) (h : m s = .ok ((), s')) : s.runElem c p m = s' := by
  simp [State.runElem, h]

/-! ### Memory at its homes -/

theorem State.rekey_frame (s : State) (key line : Nat) :
    s.rekey key line = { s with hbm := (s.rekey key line).hbm, lineKey := (s.rekey key line).lineKey, veils := (s.rekey key line).veils } := by
  unfold State.rekey; split <;> rfl
theorem State.rekey_wf (s : State) (key line : Nat) (h : bwf s.hbm = true) : bwf (s.rekey key line).hbm = true := by
  unfold State.rekey; split
  · exact h
  · exact h
  · exact bwf_bsetN _ _ _ h
theorem State.rekeys_wf (key : Nat) (ls : List Nat) : ∀ (s : State), bwf s.hbm = true →
    bwf (ls.foldl (fun s l => s.rekey key l) s).hbm = true := by
  induction ls with
  | nil => intro s h; exact h
  | cons l ls ih => intro s h; exact ih _ (s.rekey_wf key l h)
/-- Putting bytes at their homes keeps the canonical form of memory. -/
theorem State.putHome_wf (s : State) (a : Nat) (bs : List Byte) (key : Nat) (h : bwf s.hbm = true) :
    bwf (s.putHome a bs key).hbm = true :=
  bwf_bsetN _ _ _ (State.rekeys_wf key _ s h)

end Sys2Proof.Machine
end

