-- ==== Sys2Proof/Laws/Keeps.lean ====
section
/-!
SUPPORT. A property of states that an operation keeps whenever it completes: one lemma per way operations are put together, so
that an invariant is proved of the parts and follows of the whole.
-/
namespace Sys2Proof.Machine

/-- Whenever the operation completes from a state with the property, the state it leaves has it. -/
def M.Keeps {α : Type} (P : State → Prop) (m : M α) : Prop := ∀ s a t, P s → m s = .ok (a, t) → P t

variable {P : State → Prop}

theorem M.keeps_pure {α : Type} (a : α) : M.Keeps P (pure a : M α) := by
  intro s b t h e; cases e; exact h
theorem M.keeps_get : M.Keeps P (get : M State) := by
  intro s b t h e; cases e; exact h
theorem M.keeps_stop {α : Type} (x : Stop) : M.Keeps P (stop x : M α) := by
  intro s b t h e; cases e
theorem M.keeps_modify {f : State → State} (hf : ∀ s, P s → P (f s)) : M.Keeps P (modify f : M PUnit) := by
  intro s b t h e; cases e; exact hf s h
theorem M.keeps_setState {u : State} (hu : P u) : M.Keeps P (setState u) := by
  intro s b t h e; cases e; exact hu
theorem M.keeps_bind {α β : Type} {m : M α} {f : α → M β} (hm : M.Keeps P m) (hf : ∀ a, M.Keeps P (f a)) :
    M.Keeps P (m >>= f) := by
  intro s b t h e
  match hs : m s with
  | .ok (a, u) => rw [M.bind_ok m f s u a hs] at e; exact hf a u b t (hm s a u h hs) e
  | .error x => rw [M.bind_error m f s x hs] at e; cases e
theorem M.keeps_ite {α : Type} {c : Prop} [Decidable c] {m n : M α} (hm : M.Keeps P m) (hn : M.Keeps P n) :
    M.Keeps P (if c then m else n) := by
  split
  · exact hm
  · exact hn
theorem M.keeps_forM {α : Type} {f : α → M PUnit} (hf : ∀ a, M.Keeps P (f a)) : ∀ l : List α, M.Keeps P (l.forM f)
  | [] => M.keeps_pure _
  | a :: l => M.keeps_bind (hf a) fun _ => M.keeps_forM hf l
theorem M.keeps_foldlM {α β : Type} {f : β → α → M β} (hf : ∀ b a, M.Keeps P (f b a)) : ∀ (l : List α) (b : β), M.Keeps P (l.foldlM f b)
  | [], b => M.keeps_pure b
  | a :: l, b => M.keeps_bind (hf b a) fun c => M.keeps_foldlM hf l c
/-- An actor's instruction keeps what its operation keeps when it completes and what each way of stopping short keeps. -/
theorem State.runActor_keeps {s t : State} {c n : Nat} {m : M Unit} (h : P s) (hm : M.Keeps P m)
    (hx : ∀ x, m s = .error x → ∀ u, s.runActor c n (fun _ => .error x) = .next u → P u)
    (e : s.runActor c n m = .next t) : P t := by
  match hs : m s with
  | .ok ((), u) => rw [State.runActor_ok s u c n m hs] at e; cases e; exact hm s () t h hs
  | .error x => exact hx x hs t (by simpa [State.runActor, hs] using e)

end Sys2Proof.Machine
end

