-- ==== Sys2Proof/Laws/Memory.lean ====
section
/-!
SUPPORT. What a placed write does beside its bytes, and that every operation on memory keeps its canonical form.
-/
namespace Sys2Proof.Machine

@[simp] theorem State.appendPacket_hbm (s : State) (x q : Nat) (pkt : List Word) : (s.appendPacket x q pkt).hbm = s.hbm := by
  unfold State.appendPacket; simp only; split <;> rfl
/-- Waiters are parked ready; memory is left alone. -/
theorem wakeWaiters_hbm (s : State) (sp : Option Nat) (a n : Nat) (rd : State → Nat → Nat → Nat) (bad : State → Nat → Nat → Bool) :
    (wakeWaiters s sp a n rd bad).hbm = s.hbm := by
  unfold wakeWaiters
  generalize s.waiters = ws
  induction ws generalizing s with
  | nil => rfl
  | cons w ws ih =>
    rw [List.foldl_cons, ih]
    split
    · simp only; split <;> rfl
    · rfl
/-- A fired watchpoint appends a packet or calls a team back; memory is left alone. -/
theorem fireWatches_hbm (s : State) (a n : Nat) : (fireWatches s a n).hbm = s.hbm := by
  unfold fireWatches
  generalize s.watches = ws
  induction ws generalizing s with
  | nil => rfl
  | cons w ws ih =>
    rw [List.foldl_cons, ih]
    simp only
    by_cases hit : (decide (w.addr < a + n) && decide (a < w.addr + w.len)
        && word (leVal (bgetN s.hbm (8 * cdiv w.addr 8) 8)) &&& w.mask == w.value &&& w.mask) = true
    · rw [if_pos hit]
      cases w.team with
      | some l => simp
      | none => simp only; split <;> simp
    · rw [if_neg hit]
/-- A placed write puts its bytes at their homes, and nothing else there. -/
theorem State.writeHome_hbm (s : State) (a : Nat) (bs : List Byte) (key : Nat) : (s.writeHome a bs key).hbm = (s.putHome a bs key).hbm := by
  simp [State.writeHome, fireWatches_hbm, wakeWaiters_hbm]
theorem State.writeHome_wf (s : State) (a : Nat) (bs : List Byte) (key : Nat) (h : bwf s.hbm = true) :
    bwf (s.writeHome a bs key).hbm = true := by
  rw [State.writeHome_hbm]; exact s.putHome_wf a bs key h
theorem State.placePage_hbm (s : State) (die : Option Nat) (il : Bool) (lvl va pa : Nat) : (s.placePage die il lvl va pa).hbm = s.hbm := by
  unfold State.placePage; split <;> rfl
/-- A write on behalf of a context keeps the canonical form. -/
theorem State.ctxWrite_wf (s t : State) (x va : Nat) (bs : List Byte) (h : bwf s.hbm = true) (e : s.ctxWrite x va bs = some t) :
    bwf t.hbm = true := by
  unfold State.ctxWrite at e
  simp only at e
  split at e
  · cases e
    suffices ∀ (ps : List (Nat × Nat)) (u : State), bwf u.hbm = true →
        bwf (ps.foldl (fun s p =>
          match walk s x p.1 true with
          | .ok (lvl, w) =>
            let pa := leafPA lvl w p.1
            (s.placePage none false lvl p.1 pa).writeHome pa ((bs.drop (p.1 - va)).take p.2) (pteKey w)
          | .error _ => s) u).hbm = true from this _ s h
    intro ps
    induction ps with
    | nil => intro u hu; exact hu
    | cons p ps ih =>
      intro u hu
      rw [List.foldl_cons]
      refine ih _ ?_
      split
      · exact State.writeHome_wf _ _ _ _ (by rw [State.placePage_hbm]; exact hu)
      · exact hu
  · cases e
/-- Zeroing lines lists nothing there, and keeps the canonical form. -/
theorem State.zeroLines_wf (s : State) (a n : Nat) (h : bwf s.hbm = true) : bwf (s.zeroLines a n).hbm = true := by
  simp only [State.zeroLines, fireWatches_hbm, wakeWaiters_hbm]
  exact bwf_filter _ _ h
theorem reset_hbm_wf : bwf State.reset.hbm = true := rfl

end Sys2Proof.Machine
end

