-- ==== Sys2Proof/Laws/Step.lean ====
section
/-!
SUPPORT. What a step can be: the whole case analysis of `step`, for proofs about every step.
-/
namespace Sys2Proof.Machine

/-- A step that answers a next state took the next move of a package that is neither tripped nor held in reset: it performed
the row that the move names, or the move names none. -/
theorem step_cases {s t : State} (h : step s = .next t) :
    s.power ≠ .tripped ∧ s.power ≠ .heldInReset ∧
      ((∃ i, (s.nextMove.2.pick s.nextMove.1).2 = some i ∧ exec i (s.nextMove.2.pick s.nextMove.1).1 = .next t)
       ∨ ((s.nextMove.2.pick s.nextMove.1).2 = none ∧ t = (s.nextMove.2.pick s.nextMove.1).1)) := by
  unfold step at h
  split at h
  · cases h
  · cases h
  · rename_i hp hq
    refine ⟨hp, hq, ?_⟩
    split at h
    · rename_i u i e
      exact .inl ⟨i, by rw [e], by rw [e]; exact h⟩
    · rename_i u e
      exact .inr ⟨by rw [e], by rw [e]; cases h; rfl⟩
/-- Taking the next move changes the agenda, the clocks and the agent, and nothing else. -/
theorem State.nextMove_frame (s : State) :
    s.nextMove.2 = { s with agenda := s.nextMove.2.agenda, tick := s.tick + 1, cycle := s.nextMove.2.cycle, cur := .none } := by
  unfold State.nextMove; simp only; split <;> rfl
@[simp] theorem State.nextMove_hbm (s : State) : s.nextMove.2.hbm = s.hbm := by rw [s.nextMove_frame]
@[simp] theorem State.nextMove_power (s : State) : s.nextMove.2.power = s.power := by rw [s.nextMove_frame]
@[simp] theorem State.nextMove_cores (s : State) : s.nextMove.2.cores = s.cores := by rw [s.nextMove_frame]
@[simp] theorem State.nextMove_launches (s : State) : s.nextMove.2.launches = s.launches := by rw [s.nextMove_frame]
@[simp] theorem State.nextMove_ctxs (s : State) : s.nextMove.2.ctxs = s.ctxs := by rw [s.nextMove_frame]

end Sys2Proof.Machine
end

