-- ==== Sys2Proof/Tests/Slice0.lean ====
section
/-!
SUPPORT. The model's own tests: words written out from the encodings of the manual, ill-formed terms, single steps on small
states with results worked out from the manual, and for every statement with hypotheses a state that meets them.
-/
namespace Sys2Proof.Tests
set_option Elab.async false
open Sys2Proof Sys2Proof.Machine Sys2Proof.Claims

/-! ### Encodings (R46 to R49, R57 to R59, R65 to R69) -/

/-- Every word decodes, in a system actor in debug mode, to the instruction beside it. -/
def decodesTo (l : List (Word × Instr)) : Bool :=
  l.all fun x => match decodeWord true true x.1 with
    | .ok i => decide (i = x.2)
    | .error _ => false
/-- Every value of field 0 decodes to the element operation beside it with these modifiers. -/
def elementsAre {α : Type} (m : α) (l : List (BitVec 19 × (α → Instr))) : Bool :=
  l.all fun x => decide (decodeElem x.1 = some (x.2 m))

/-- Words of R69's integer opcodes. -/
theorem test_decode_integer : decodesTo [
  (0x004221A200000000, .add ⟨1, 2, 3, 0, 2, 0, 1⟩),
  (0x008221A200000000, .sub ⟨1, 2, 3, 0, 2, 0, 1⟩),
  (0x00C221A200000000, .mul ⟨1, 2, 3, 0, 2, 0, 1⟩),
  (0x010221E000000000, .mulh ⟨1, 2, 3, 0, 6, 0, 0⟩),
  (0x014221E000000000, .div ⟨1, 2, 3, 0, 6, 0, 0⟩),
  (0x018221E000000000, .rem ⟨1, 2, 3, 0, 6, 0, 0⟩),
  (0x01C221E000000000, .and ⟨1, 2, 3, 0, 6, 0, 0⟩),
  (0x020221E000000000, .or ⟨1, 2, 3, 0, 6, 0, 0⟩),
  (0x024221E000000000, .xor ⟨1, 2, 3, 0, 6, 0, 0⟩),
  (0x028221E000000000, .shl ⟨1, 2, 3, 0, 6, 0, 0⟩),
  (0x02C221E000000000, .shr ⟨1, 2, 3, 0, 6, 0, 0⟩),
  (0x030221E000000000, .sar ⟨1, 2, 3, 0, 6, 0, 0⟩),
  (0x034221E000000000, .min ⟨1, 2, 3, 0, 6, 0, 0⟩),
  (0x038221E000000000, .max ⟨1, 2, 3, 0, 6, 0, 0⟩),
  (0x03C221E000000000, .slt ⟨1, 2, 3, 0, 6, 0, 0⟩),
  (0x040221E020000000, .sel ⟨1, 2, 3, 4, 6, 0, 0⟩),
  (0x0442206000000000, .popc ⟨1, 2, 0, 0, 6, 0, 0⟩),
  (0x0482206000000000, .clz ⟨1, 2, 0, 0, 6, 0, 0⟩),
  (0x04C2206000000000, .mov ⟨1, 2, 0, 0, 6, 0, 0⟩),
  (0x08422060FFFFFFFD, .addi ⟨1, 2, 0, 6, 0xfffffffd⟩),
  (0x09C22060FFFFFFFD, .andi ⟨1, 2, 0, 6, 0xfffffffd⟩),
  (0x0A022060FFFFFFFD, .ori ⟨1, 2, 0, 6, 0xfffffffd⟩),
  (0x0A422060FFFFFFFD, .xori ⟨1, 2, 0, 6, 0xfffffffd⟩),
  (0x0A8220600000003F, .shli ⟨1, 2, 0, 6, 0x3f⟩),
  (0x0AC220600000003F, .shri ⟨1, 2, 0, 6, 0x3f⟩),
  (0x0B0220600000003F, .sari ⟨1, 2, 0, 6, 0x3f⟩),
  (0x0BC22060FFFFFFFD, .slti ⟨1, 2, 0, 6, 0xfffffffd⟩),
  (0x0C020000FFFFFFFD, .movi ⟨1, 0, 0, 0, 0xfffffffd⟩),
  (0x0C420000FFFFFFFD, .movhi ⟨1, 0, 0, 0, 0xfffffffd⟩)] = true := by decide

/-- Words of R69's float, and, branch opcodes. -/
theorem test_decode_float_and_branch : decodesTo [
  (0x100221D800000000, .fadd ⟨1, 2, 3, 0, 5, 2, 0⟩),
  (0x104221D800000000, .fsub ⟨1, 2, 3, 0, 5, 2, 0⟩),
  (0x108221D800000000, .fmul ⟨1, 2, 3, 0, 5, 2, 0⟩),
  (0x10C221D820000000, .ffma ⟨1, 2, 3, 4, 5, 2, 0⟩),
  (0x110221D000000000, .fmin ⟨1, 2, 3, 0, 5, 0, 0⟩),
  (0x114221D000000000, .fmax ⟨1, 2, 3, 0, 5, 0, 0⟩),
  (0x118221D000000000, .fcmp ⟨1, 2, 3, 0, 5, 0, 0⟩),
  (0x1202205000000000, .fclass ⟨1, 2, 0, 0, 5, 0, 0⟩),
  (0x11C221840004E000, .cvt ⟨1, 2, 3, 0, 0, 4, 0x4e000⟩),
  (0x18000000FFFFFFFE, .br ⟨0, 0, 0, 0, 0xfffffffe⟩),
  (0x184021A8FFFFFFFE, .bcc ⟨0, 2, 3, 5, 0xfffffffe⟩),
  (0x18820000FFFFFFFE, .loop ⟨1, 0, 0, 0, 0xfffffffe⟩)] = true := by decide

/-- Words of R69's memory, and, atomic opcodes. -/
theorem test_decode_memory_and_atomic : decodesTo [
  (0x20022073005FFFFE, .ld ⟨1, 2, 0, 3, 1, 3, 5, 0xffffe⟩),
  (0x204021F8005FFFFE, .st ⟨0, 2, 3, 3, 1, 8, 5, 0xffffe⟩),
  (0x20822070005FFFFE, .ldf ⟨1, 2, 0, 3, 1, 0, 5, 0xffffe⟩),
  (0x20C22070005FFFFE, .ldfe ⟨1, 2, 0, 3, 1, 0, 5, 0xffffe⟩),
  (0x210021F0005FFFFE, .stef ⟨0, 2, 3, 3, 1, 0, 5, 0xffffe⟩),
  (0x21C0000000000008, .ways ⟨0, 0, 0, 0, 8⟩),
  (0x2200000000000005, .hinv ⟨0, 0, 0, 0, 5⟩),
  (0x300221DB005FFFFE, .aadd ⟨1, 2, 3, 2, 1, 0xb, 5, 0xffffe⟩),
  (0x304221DB005FFFFE, .aand ⟨1, 2, 3, 2, 1, 0xb, 5, 0xffffe⟩),
  (0x308221DB005FFFFE, .aor ⟨1, 2, 3, 2, 1, 0xb, 5, 0xffffe⟩),
  (0x30C221DB005FFFFE, .axor ⟨1, 2, 3, 2, 1, 0xb, 5, 0xffffe⟩),
  (0x310221DB005FFFFE, .amin ⟨1, 2, 3, 2, 1, 0xb, 5, 0xffffe⟩),
  (0x314221DB005FFFFE, .amax ⟨1, 2, 3, 2, 1, 0xb, 5, 0xffffe⟩),
  (0x318221DB005FFFFE, .axchg ⟨1, 2, 3, 2, 1, 0xb, 5, 0xffffe⟩),
  (0x31C221DB005FFFFE, .afadd ⟨1, 2, 3, 2, 1, 0xb, 5, 0xffffe⟩),
  (0x320221DB005FFFFE, .cas ⟨1, 2, 3, 2, 1, 0xb, 5, 0xffffe⟩),
  (0x3244430119401400, .dcas ⟨2, 4, 6, 3, 5, 1, 0x1400⟩),
  (0x3284430019401400, .amove ⟨2, 4, 6, 3, 5, 0, 0x1400⟩),
  (0x34002270005FFFFE, .bind ⟨0, 2, 4, 3, 1, 0, 5, 0xffffe⟩),
  (0x34422073005FFFFE, .acq ⟨1, 2, 0, 3, 1, 3, 5, 0xffffe⟩),
  (0x348021F8005FFFFE, .rel ⟨0, 2, 3, 3, 1, 8, 5, 0xffffe⟩),
  (0x34C0000000040304, .bar ⟨0, 0, 0, 0, 0x40304⟩),
  (0x350221D0005FFFFE, .mwait ⟨1, 2, 3, 2, 1, 0, 5, 0xffffe⟩),
  (0x35422070005FFFFE, .watch ⟨1, 2, 0, 3, 1, 0, 5, 0xffffe⟩)] = true := by decide

/-- Words of R69's reach, copy, matrix opcodes. -/
theorem test_decode_reach_copy_matrix : decodesTo [
  (0x380021FA005FFFFE, .rst ⟨0, 2, 3, 3, 1, 0xa, 5, 0xffffe⟩),
  (0x3842218021400001, .rsend ⟨1, 2, 3, 4, 5, 0, 1⟩),
  (0x38822270005FFFFE, .ramo ⟨1, 2, 4, 3, 1, 0, 5, 0xffffe⟩),
  (0x38C02180214B0009, .coll ⟨0, 2, 3, 4, 5, 0, 0xb0009⟩),
  (0x3C00220000000000, .xfer ⟨0, 2, 4, 0, 0, 0, 0⟩),
  (0x3C40110019000025, .xim2c ⟨0, 1, 2, 3, 4, 0, 0x25⟩),
  (0x3C80110019000012, .gath ⟨0, 1, 2, 3, 4, 0, 0x12⟩),
  (0x3CC0000000000001, .drain ⟨0, 0, 0, 0, 1⟩),
  (0x3D00000000000005, .fenceq ⟨0, 0, 0, 0, 5⟩),
  (0x4002200000000000, .oclaim ⟨1, 2, 0, 0, 0, 0, 0⟩),
  (0x4040000000000021, .orelease ⟨0, 0, 0, 0, 0, 0, 0x21⟩),
  (0x4080000200000020, .mma ⟨0, 0, 0, 0, 0, 2, 0x20⟩),
  (0x40C0000000000041, .mmaq ⟨0, 0, 0, 0, 0, 0, 0x41⟩),
  (0x41080000000000A0, .mchk ⟨4, 0, 0, 0, 0, 0, 0xa0⟩),
  (0x4146400000000000, .mfix ⟨3, 4, 0, 0, 0, 0, 0⟩),
  (0x4180000000018000, .minj ⟨0, 0, 0, 0, 0, 0, 0x18000⟩),
  (0x41C0000000000007, .maccz ⟨0, 0, 0, 0, 0, 0, 7⟩),
  (0x42014A80000079E0, .maccst ⟨0, 0x14, 0x15, 0, 0, 0, 0x79e0⟩),
  (0x4240000000000000, .mfence)] = true := by decide

/-- Words of R69's routing, channel, system opcodes. -/
theorem test_decode_routing_channel_system : decodesTo [
  (0x480C218000000000, .rcap ⟨6, 2, 3, 0, 0, 0, 0⟩),
  (0x4840220028000000, .rdisp ⟨0, 2, 4, 5, 0, 0, 0⟩),
  (0x4880220028000000, .rcomb ⟨0, 2, 4, 5, 0, 0, 0⟩),
  (0x48CC220028000001, .rrec ⟨6, 2, 4, 5, 0, 0, 1⟩),
  (0x4C06000001400050, .recv ⟨3, 0, 0, 0, 5, 0, 0x50⟩),
  (0x4C40328000000051, .send ⟨0, 3, 5, 0, 0, 0, 0x51⟩),
  (0x4C86000000000010, .peek ⟨3, 0, 0, 0, 0, 0, 0x10⟩),
  (0x4CC8000000000001, .note ⟨4, 0, 0, 0, 0, 0, 1⟩),
  (0x4D00000000000001, .firend ⟨0, 0, 0, 0, 1⟩),
  (0x4FC0000000000000, .nop),
  (0x5008200018000000, .cfgw ⟨4, 2, 0, 3, 0, 0, 0⟩),
  (0x504A600000000002, .launch ⟨5, 6, 0, 0, 0, 0, 2⟩),
  (0x5402218000000010, .sysc ⟨1, 2, 3, 0, 0x10⟩),
  (0x544A600000001306, .sreg ⟨5, 6, 0, 0, 0, 0, 0x1306⟩),
  (0x5480400000000012, .tlbi ⟨0, 4, 0, 0, 0, 0, 0x12⟩),
  (0x54C0110018000000, .digest ⟨0, 1, 2, 3, 0, 0, 0⟩)] = true := by decide

/-- Field 0 of R59 with TY 5, SUB 2, SAT and SW, under every element opcode of 0x01 to 0x7F. -/
theorem test_decode_elements : elementsAre ⟨5, 2, 1, 1⟩ [
  (0x00D2C, .iadd), (0x0152C, .isub), (0x01D2C, .imul), (0x0252C, .imad), (0x02D2C, .imin), (0x0352C, .imax), (0x03D2C, .iabs),
  (0x0452C, .andElement), (0x04D2C, .orElement), (0x0552C, .xorElement), (0x05D2C, .not), (0x0652C, .shlElement),
  (0x06D2C, .shrElement), (0x0752C, .sarElement), (0x07D2C, .icmp), (0x0852C, .faddElement), (0x08D2C, .fsubElement),
  (0x0952C, .fmulElement), (0x09D2C, .ffmaElement), (0x0A52C, .fminElement), (0x0AD2C, .fmaxElement), (0x0B52C, .fabs),
  (0x0BD2C, .fneg), (0x0C52C, .fcmpElement), (0x0CD2C, .cmpf), (0x0D52C, .fclassElement), (0x0DD2C, .fcpys), (0x0E52C, .fexp),
  (0x0ED2C, .fldx), (0x1052C, .selElement), (0x10D2C, .cvtElement), (0x1152C, .pack), (0x11D2C, .unpack), (0x1852C, .shuf),
  (0x18D2C, .bcast), (0x1952C, .lred), (0x19D2C, .lscan), (0x1A52C, .lext), (0x1AD2C, .lins), (0x1B52C, .rot),
  (0x1BD2C, .lmask), (0x2052C, .cnt), (0x20D2C, .aff), (0x2152C, .delay), (0x21D2C, .acc), (0x2252C, .const), (0x2852C, .fork),
  (0x28D2C, .join), (0x2952C, .steer), (0x29D2C, .filter), (0x2A52C, .gate), (0x2AD2C, .osnew), (0x2B52C, .osquench),
  (0x2BD2C, .oscommit)] = true := by decide

/-- Field 0 of the fibre, stream, boundary and matrix-port opcodes. -/
theorem test_decode_streams : elementsAre 0x400 [
  (0x40400, .scanu), (0x40C00, .scanc), (0x41400, .scanb), (0x41C00, .isect), (0x42400, .union), (0x42C00, .repeatEl),
  (0x43400, .reduce), (0x43C00, .locate), (0x44400, .crddrop), (0x44C00, .poppfx), (0x45400, .band), (0x45C00, .bor),
  (0x46400, .fwrite), (0x50400, .lda), (0x50C00, .ldi), (0x51400, .sta), (0x51C00, .sti), (0x52400, .atom), (0x52C00, .xreq),
  (0x53400, .greq), (0x58400, .broute), (0x5AC00, .mport)] = true := by decide

/-- The element words of the manual's examples (06, 08, 10, 11, 12): the value of field 0 in each FIELD command. -/
theorem test_decode_example_elements :
    decodeElem 0x2A800 = some (.osnew ⟨0, 0, 0, 0⟩) ∧ decodeElem 0x28800 = some (.join ⟨0, 0, 0, 0⟩)
    ∧ decodeElem 0x52800 = some (.xreq 0) ∧ decodeElem 0x5A800 = some (.mport 0) ∧ decodeElem 0x40800 = some (.scanc 0)
    ∧ decodeElem 0x50400 = some (.lda 0x400) ∧ decodeElem 0x52000 = some (.atom 0)
    ∧ decodeElem 0x0CC00 = some (.cmpf ⟨4, 0, 0, 0⟩) ∧ decodeElem 0x09C00 = some (.ffmaElement ⟨4, 0, 0, 0⟩) := by decide

/-- Configuration commands: classes in [31:30], the CTRL operation in [29:26] (R46, R48). -/
theorem test_decode_commands :
    decodeCmd 0x0C009C00 = .field 12 0 0x09C00 ∧ decodeCmd 0x40000003 = .page 0 3 ∧ decodeCmd 0x44000001 = .bank 0 1
    ∧ decodeCmd 0x4800000C = .arm 0 0 12 ∧ decodeCmd 0x4C000008 = .sealPage 8 ∧ decodeCmd 0x80000800 = .pfx 0x800
    ∧ decodeCmd 0xC0000000 = .reservedClassCommand 0 := by decide
/-- DISARM, bit 7 of ARM (R48), with ALL in bit 6, and a CTRL operation that it does not list. -/
theorem test_decode_disarm_and_reserved :
    (match decodeCmd 0x480000C0 with | .disarm 0 1 0 => true | _ => false) = true
    ∧ (match decodeCmd 0x7C000001 with | .reservedCtrlOperation .. => true | _ => false) = true := by decide

/-- A word outside the map traps at issue, as does a system word outside a system actor (R70, R73). -/
theorem test_words_refused :
    (match decodeWord false false 0 with | .ok (.unassignedMajorOpcode 0) => true | _ => false) = true
    ∧ (match decodeWord false false 0x544A600000001306 with | .error 2 => true | _ => false) = true
    ∧ (match decodeWord true false 0x4180000000018000 with | .error 3 => true | _ => false) = true
    ∧ (match decodeWord true true 0x4FC0000000000001 with | .error 4 => true | _ => false) = true := by decide

/-- One ill-formed term for each check of an entry: reserved bits, unused registers, types, odd pairs, ranges. -/
def illFormed : List Instr :=
  [ .page 1 0, .bank 1 0, .arm 1 0 0, .arm 0 1 3, .disarm 1 0 0, .disarm 0 1 3
  , .add ⟨1, 2, 3, 4, 6, 0, 0⟩, .add ⟨1, 2, 3, 0, 4, 0, 0⟩, .add ⟨1, 2, 3, 0, 6, 1, 0⟩, .mulh ⟨1, 2, 3, 0, 6, 0, 1⟩
  , .popc ⟨1, 2, 3, 0, 6, 0, 0⟩, .addi ⟨1, 2, 3, 6, 0⟩, .addi ⟨1, 2, 0, 5, 0⟩, .shli ⟨1, 2, 0, 6, 64⟩
  , .movi ⟨1, 2, 0, 0, 0⟩, .movhi ⟨1, 0, 0, 6, 0⟩, .fadd ⟨1, 2, 3, 0, 6, 0, 0⟩, .fadd ⟨1, 2, 3, 0, 4, 0, 1⟩
  , .fclass ⟨1, 2, 3, 0, 4, 0, 0⟩, .cvt ⟨1, 2, 0, 0, 0, 0, 0x18000⟩, .cvt ⟨1, 2, 0, 0, 0, 0, 0x4C001⟩
  , .cvt ⟨1, 2, 3, 0, 0, 0, 0x46000⟩, .br ⟨0, 0, 0, 1, 0⟩, .bcc ⟨0, 1, 2, 6, 0⟩, .bcc ⟨1, 1, 2, 0, 0⟩, .loop ⟨1, 2, 0, 0, 0⟩
  , .ld ⟨1, 2, 0, 3, 0, 0, 5, 0⟩, .ld ⟨1, 0, 0, 3, 0, 6, 5, 0⟩, .st ⟨1, 0, 3, 3, 0, 0, 5, 0⟩, .st ⟨0, 0, 3, 3, 0, 1, 5, 0⟩
  , .ldf ⟨1, 0, 0, 2, 0, 0, 5, 0⟩, .stef ⟨0, 0, 3, 3, 0, 1, 5, 0⟩, .ways ⟨0, 0, 0, 0, 3⟩, .ways ⟨0, 0, 0, 0, 21⟩
  , .ways ⟨0, 0, 0, 0, 40⟩, .hinv ⟨0, 0, 0, 0, 0x1001⟩, .aadd ⟨1, 0, 3, 1, 0, 0, 5, 0⟩, .afadd ⟨1, 0, 3, 3, 0, 0, 5, 0⟩
  , .dcas ⟨1, 4, 6, 3, 5, 0, 0⟩, .dcas ⟨2, 4, 6, 3, 5, 0, 1⟩, .amove ⟨3, 4, 6, 3, 5, 0, 0⟩, .bind ⟨0, 0, 3, 3, 0, 0, 5, 0⟩
  , .acq ⟨1, 0, 0, 3, 0, 0, 5, 0⟩, .rel ⟨0, 0, 3, 3, 0, 1, 5, 0⟩, .bar ⟨0, 0, 0, 0, 6⟩, .bar ⟨0, 0, 0, 0, 1⟩
  , .mwait ⟨1, 0, 3, 1, 0, 0, 5, 0⟩, .watch ⟨1, 0, 0, 2, 0, 0, 5, 0⟩, .rst ⟨0, 0, 3, 3, 0, 6, 9, 0⟩
  , .ramo ⟨1, 0, 3, 3, 0, 0, 9, 0⟩, .rsend ⟨1, 2, 3, 4, 5, 0, 0⟩, .rsend ⟨0, 2, 3, 4, 5, 0, 8⟩
  , .coll ⟨0, 2, 3, 4, 5, 0, 0x80000⟩, .coll ⟨0, 2, 3, 4, 5, 0, 0x200000⟩, .xfer ⟨0, 1, 2, 0, 0, 0, 0⟩
  , .xim2c ⟨1, 1, 2, 3, 4, 0, 0⟩, .gath ⟨0, 1, 2, 3, 4, 0, 7⟩, .gath ⟨0, 1, 2, 3, 4, 2, 0⟩, .drain ⟨0, 0, 0, 0, 5⟩
  , .fenceq ⟨0, 0, 0, 0, 0⟩, .oclaim ⟨1, 0, 0, 0, 0, 0, 0x28⟩, .oclaim ⟨1, 2, 0, 0, 0, 0, 0x20⟩, .orelease ⟨1, 0, 0, 0, 0, 0, 0⟩
  , .mma ⟨0, 0, 0, 0, 0, 4, 0⟩, .mchk ⟨3, 0, 0, 0, 0, 0, 0⟩, .mfix ⟨3, 5, 0, 0, 0, 0, 0⟩, .minj ⟨0, 0, 0, 0, 0, 0, 0x100000⟩
  , .maccz ⟨0, 0, 0, 0, 0, 0, 8⟩, .maccst ⟨0, 2, 3, 0, 0, 0, 0x18⟩, .maccst ⟨0, 2, 3, 0, 0, 0, 0x30⟩
  , .rcap ⟨1, 2, 3, 4, 0, 0, 0⟩, .rdisp ⟨1, 2, 3, 4, 0, 0, 0⟩, .rrec ⟨1, 2, 3, 4, 0, 0, 3⟩, .rrec ⟨1, 2, 3, 4, 0, 0, 2⟩
  , .recv ⟨1, 0, 0, 0, 0, 0, 0x30⟩, .recv ⟨1, 0, 0, 0, 0, 0, 8⟩, .recv ⟨1, 0, 0, 0, 0, 0, 0x20⟩, .send ⟨1, 2, 0, 0, 0, 0, 0⟩
  , .send ⟨0, 4, 0, 0, 0, 0, 0x20⟩, .peek ⟨1, 0, 0, 0, 2, 0, 0⟩, .note ⟨3, 0, 0, 0, 0, 0, 0⟩, .firend ⟨0, 0, 0, 0, 2⟩
  , .cfgw ⟨1, 2, 3, 4, 0, 0, 0⟩, .launch ⟨1, 2, 0, 0, 0, 0, 8⟩, .sysc ⟨1, 2, 3, 1, 0⟩, .sysc ⟨1, 2, 3, 0, 0x10000⟩
  , .sreg ⟨1, 2, 0, 0, 0, 0, 0x2000⟩, .tlbi ⟨0, 1, 0, 0, 0, 0, 0⟩, .tlbi ⟨0, 0, 0, 0, 0, 0, 0x30⟩, .digest ⟨0, 1, 2, 3, 0, 0, 4⟩
  , .iadd ⟨4, 0, 0, 0⟩, .icmp ⟨0, 6, 0, 0⟩, .andElement ⟨0, 0, 1, 0⟩, .iabs ⟨0, 0, 0, 1⟩, .faddElement ⟨0, 0, 0, 0⟩
  , .fexp ⟨4, 6, 0, 0⟩, .cmpf ⟨4, 2, 0, 0⟩, .pack ⟨1, 0, 0, 0⟩, .unpack ⟨0, 0, 0, 0⟩, .lred ⟨4, 3, 0, 0⟩, .cnt ⟨4, 0, 0, 0⟩
  , .acc ⟨0, 3, 0, 0⟩, .scanu 1, .reduce 8, .reduce 0x730, .lda 1, .atom 0x200, .atom 0x410, .xreq 1, .broute 1, .mport 1 ]
theorem test_ill_formed_refused : illFormed.all (fun i => !i.wellFormed) = true := by decide

/-! ### Small states -/

/-- Does an outcome answer a next state of which this holds? -/
def after (o : Out) (f : State → Bool) : Bool :=
  match o with
  | .next t => f t
  | _ => false
/-- A field of an element as it is configured. -/
def fv (n : Nat) : BitVec 49 := BitVec.ofNat 49 n
/-- The descriptor of a channel source: position and output (R52). -/
def srcOf (p out : Nat) : Nat := p * 2 ^ 13 + out * 2 ^ 12
/-- The page that the tests use: launch 0 of context 0, core 0. -/
def owner0 : Owner := { launch := 0, pset := 0, inst := 0, share := 0, lpg := 0 }
/-- Handle entries in the cache: 5 a scratchpad place of the core itself (base 64, 4096 bytes), 6 memory (base 0x20000, 65536 bytes, wb),
7 window 0 (rem), 8 the whole scratchpad. -/
def handles0 : List HandleVer :=
  [ { ctx := 0, idx := 5, w0 := 0x0020000000000040, w1 := 4096, w2 := 0, w3 := 16 }
  , { ctx := 0, idx := 6, w0 := 0x0010000000020000, w1 := 65536, w2 := 0, w3 := 0 }
  , { ctx := 0, idx := 7, w0 := 0x0330000000000000, w1 := 4096, w2 := 0, w3 := 0 }
  , { ctx := 0, idx := 8, w0 := 0x0020000000000000, w1 := 131072, w2 := 0, w3 := 16 } ]
/-- Physical memory of the tests: a page table that maps the first GiB to itself (0 and 0x4000), window descriptors at 0x8000: 0 an outbound rem window
at 0x1000 of package 2; 1, 2 and 3 inbound rem, net and pcie windows onto 0x20000. -/
def hbm0 : List Host.Cell :=
  [ (0, 1), (1, 0x40), (0x4000, 7), (0x4005, 0x40), (0x8001, 0x10), (0x800A, 1), (0x800E, 0x30), (0x8010, 2), (0x8014, 7)
  , (0x8022, 2), (0x8029, 0x10), (0x802E, 0x30), (0x8034, 9), (0x8038, 2), (0x8042, 2), (0x8049, 0x10), (0x804E, 0x40)
  , (0x8054, 9), (0x8058, 2), (0x8062, 2), (0x8069, 0x10), (0x806E, 0x50), (0x8078, 2) ]
/-- A package that runs launch 0 on core 0 with a page of these elements and slots. -/
def pkg (elems : AMap Elem) (slots : AMap Slot) : State :=
  { State.reset with
    agenda := [], power := .on, hsMode := true, nextId := 1, hbm := hbm0, lineKey := [(0, (0, 0)), (256, (0, 0)), (512, (0, 0)), (513, (0, 0))]
    owners := [(0, 0), (2, 0)], tlb := [{ die := 0, ctx := 0, lvl := 2, base := 0, pte := 0x400000000007 }]
    ctxs := [(0, { ctl := 1, keys := 1, wtb := 0x8000 })]
    launches := [(0, { ctx := 0, dies := [0], places := [{ pset := 0, inst := 0, share := 0, lpg := 0, core := 0 }]
                       img := { psets := [{ pages := 2, stream := [] }], system := true } })]
    cores := [(0, { own := some owner0, running := some 0, slots := slots, elems := elems, handles := handles0
                    full := [8, 9], sp := [(64, 0x11), (65, 0x22), (72, 0x33)], srcRun := true })] }
/-- Slot 0 of core 0 in a firing with these registers. -/
def act (regs : AMap Word) : State :=
  { pkg [] [(0, { status := .firing, stop := 64, regs := regs })] with cur := .actor 0 0 }
/-- A register of slot 0 after an instruction. -/
def gives (i : Instr) (s : State) (r : Nat) (v : Word) : Bool := after (exec i s) fun t => (t.slot 0 0).reg r == v
/-- The team has been stopped with status 6 and this code. -/
def stopsWith (i : Instr) (s : State) (code : Nat) : Bool := after (exec i s) fun t => (t.launch 0).failed == some (6, code)
/-- Flags at position 60 after an instruction. -/
def flags60 (i : Instr) (s : State) (fl : BitVec 4) : Bool := after (exec i s) fun t => (t.elem 0 60).flags == fl

/-! ### Single steps of actors -/

/-- R370: INT8 wraps, INT8 saturates with overflow, UINT32 is held zero-extended. -/
theorem test_add_wraps_and_saturates :
    gives (.add ⟨1, 2, 3, 0, 3, 0, 0⟩) (act [(2, 127), (3, 1)]) 1 0xFFFFFFFFFFFFFF80 = true
    ∧ flags60 (.add ⟨1, 2, 3, 0, 3, 0, 1⟩) (act [(2, 127), (3, 1)]) 2 = true := by decide
theorem test_sub_unsigned : gives (.sub ⟨1, 2, 3, 0, 1, 0, 0⟩) (act [(3, 1)]) 1 0x00000000FFFFFFFF = true := by decide
/-- R370: the high half of a signed product; quotients truncate; a zero divisor gives all ones and invalid. -/
theorem test_mulh_signed : gives (.mulh ⟨1, 2, 3, 0, 0, 0, 0⟩) (act [(2, 0xFFFFFFFFFFFFFFFF), (3, 1)]) 1 0xFFFFFFFFFFFFFFFF = true := by decide
theorem test_div_truncates : gives (.div ⟨1, 2, 3, 0, 6, 0, 0⟩) (act [(2, 0xFFFFFFFFFFFFFFF9), (3, 2)]) 1 0xFFFFFFFFFFFFFFFD = true := by decide
theorem test_rem_sign_of_dividend : gives (.rem ⟨1, 2, 3, 0, 6, 0, 0⟩) (act [(2, 0xFFFFFFFFFFFFFFF9), (3, 2)]) 1 0xFFFFFFFFFFFFFFFF = true := by decide
theorem test_div_by_zero :
    gives (.div ⟨1, 2, 3, 0, 0, 0, 0⟩) (act [(2, 7)]) 1 0xFFFFFFFFFFFFFFFF = true ∧ flags60 (.div ⟨1, 2, 3, 0, 0, 0, 0⟩) (act [(2, 7)]) 1 = true := by decide
/-- R370: a shift of the width or more leaves zeros or copies of the sign. -/
theorem test_sar_beyond_width : gives (.sar ⟨1, 2, 3, 0, 0, 0, 0⟩) (act [(2, 0x80000000), (3, 40)]) 1 0xFFFFFFFFFFFFFFFF = true := by decide
theorem test_shl_beyond_width : gives (.shl ⟨1, 2, 3, 0, 0, 0, 0⟩) (act [(2, 1), (3, 32)]) 1 0 = true := by decide
theorem test_shri_of_32_bits : gives (.shri ⟨1, 2, 0, 0, 4⟩) (act [(2, 0xF00000080)]) 1 8 = true := by decide
theorem test_slt_unsigned : gives (.slt ⟨1, 2, 3, 0, 1, 0, 0⟩) (act [(2, 1), (3, 0xFFFFFFFF)]) 1 1 = true := by decide
theorem test_clz_and_popc :
    gives (.clz ⟨1, 2, 0, 0, 2, 0, 0⟩) (act [(2, 0x100)]) 1 7 = true ∧ gives (.popc ⟨1, 2, 0, 0, 2, 0, 0⟩) (act [(2, 0xF0101)]) 1 2 = true := by decide
theorem test_movhi_keeps_low_half : gives (.movhi ⟨1, 0, 0, 0, 0x12345678⟩) (act [(1, 0xFFFFFFFF9ABCDEF0)]) 1 0x123456789ABCDEF0 = true := by decide
theorem test_sel_takes_sb_on_zero : gives (.sel ⟨1, 2, 3, 4, 6, 0, 0⟩) (act [(2, 5), (3, 9)]) 1 9 = true := by decide
/-- R372, R137: BF16 1.0 + 1.0 = 2.0; FP32 FMA of 2, 3 and 1 is 7; a NaN compares unordered and is invalid. -/
theorem test_fadd_bf16 : gives (.fadd ⟨1, 2, 3, 0, 5, 0, 0⟩) (act [(2, 0x3F80), (3, 0x3F80)]) 1 0x4000 = true := by decide
theorem test_ffma : gives (.ffma ⟨1, 2, 3, 4, 4, 0, 0⟩) (act [(2, 0x40000000), (3, 0x40400000), (4, 0x3F800000)]) 1 0x40E00000 = true := by decide
theorem test_fcmp_unordered :
    gives (.fcmp ⟨1, 2, 3, 0, 4, 0, 0⟩) (act [(2, 0x7FC00000)]) 1 8 = true ∧ flags60 (.fcmp ⟨1, 2, 3, 0, 4, 0, 0⟩) (act [(2, 0x7FC00000)]) 1 = true := by decide
/-- R127: FP32 300.0 to INT8 is clamped to 127. -/
theorem test_cvt_clamps : gives (.cvt ⟨1, 2, 0, 0, 0, 0, 0x5C000⟩) (act [(2, 0x43960000)]) 1 127 = true := by decide
/-- R373: displacements count instructions from the branch itself; a target outside the image is trap 0x07. -/
theorem test_bcc_taken :
    after (exec (.bcc ⟨0, 1, 2, 2, 3⟩) (act [(1, 0xFFFFFFFFFFFFFFFF)])) (fun t => (t.slot 0 0).pc == 24) = true := by decide
theorem test_br_outside_traps : stopsWith (.br ⟨0, 0, 0, 0, 8⟩) (act []) 7 = true := by decide
theorem test_loop_falls_through :
    after (exec (.loop ⟨6, 0, 0, 0, 0xFFFFFFFF⟩) (act [(6, 1)])) (fun t => (t.slot 0 0).pc == 8 && (t.slot 0 0).reg 6 == 0) = true := by decide
/-- R216, R217: a load zero-extends its little-endian bytes; a store changes its bytes only. -/
theorem test_ld_little_endian : gives (.ld ⟨1, 0, 0, 2, 0, 0, 5, 0⟩) (act []) 1 0x2211 = true := by decide
theorem test_st_writes_its_bytes :
    after (exec (.st ⟨0, 0, 3, 0, 0, 0, 5, 0⟩) (act [(3, 0xAABB)])) (fun t => (t.core 0).sp == [(64, 0xBB), (65, 0x22), (72, 0x33)]) = true := by decide
theorem test_st_out_of_bounds_traps : stopsWith (.st ⟨0, 0, 3, 3, 0, 0, 5, 512⟩) (act []) 0x11 = true := by decide
theorem test_ld_misaligned_traps : stopsWith (.ld ⟨1, 2, 0, 3, 1, 0, 5, 0⟩) (act [(2, 4)]) 0x12 = true := by decide
/-- R221: LDFE empties a FULL word; STEF fills an EMPTY one. -/
theorem test_ldfe_empties :
    after (exec (.ldfe ⟨1, 0, 0, 3, 0, 0, 5, 0⟩) (act [])) (fun t => (t.slot 0 0).reg 1 == 0x2211 && (t.core 0).full == [9]) = true := by decide
theorem test_stef_fills :
    after (exec (.stef ⟨0, 0, 3, 3, 0, 0, 5, 2⟩) (act [(3, 7)])) (fun t => (t.core 0).full.contains 10 && bget (t.core 0).sp 80 == 7) = true := by decide
/-- R229: WAYS to the least scratchpad keeps what stays; R257: a word at its bound answers at once. -/
theorem test_ways_shrinks : after (exec (.ways ⟨0, 0, 0, 0, 5⟩) (act [])) (fun t => (t.core 0).nsp == 5 && bget (t.core 0).sp 64 == 0x11) = true := by decide
/-- R238, R239: the old value is delivered sign-extended; CAS stores on a match only. -/
theorem test_aadd_delivers_old :
    after (exec (.aadd ⟨1, 0, 3, 2, 0, 0, 5, 1⟩) (act [(3, 0xFFFFFFFF)])) (fun t => (t.slot 0 0).reg 1 == 0x33 && bget (t.core 0).sp 72 == 0x32) = true := by decide
theorem test_cas_mismatch :
    after (exec (.cas ⟨1, 0, 3, 3, 0, 0, 5, 1⟩) (act [(1, 0x34), (3, 9)])) (fun t => (t.slot 0 0).reg 1 == 0x33 && bget (t.core 0).sp 72 == 0x33) = true := by decide
theorem test_mwait_at_bound : gives (.mwait ⟨1, 0, 3, 2, 0, 0, 5, 1⟩) (act [(3, 0x33)]) 1 0x33 = true := by decide
theorem test_mwait_parks :
    after (exec (.mwait ⟨1, 0, 3, 2, 0, 0, 5, 1⟩) (act [(3, 0x34)])) (fun t => (t.slot 0 0).status == .parked && t.waiters.length == 1) = true := by decide
/-- R256: a barrier of one arrival holds nothing. -/
theorem test_bar_of_one : after (exec (.bar ⟨0, 0, 0, 0, 0x00010001⟩) (act [])) (fun t => (t.slot 0 0).pc == 8 && (t.launch 0).barriers.isEmpty) = true := by decide
/-- R269: a store through window 0 leaves for package 2 at 0x1000 and goes on at once. -/
theorem test_rst_sends :
    after (exec (.rst ⟨0, 0, 3, 3, 0, 0, 7, 1⟩) (act [(3, 5)])) (fun t =>
      t.sent == [.remote 1 2 0 7 0x1008 8 none 0 5 0] && (t.slot 0 0).pc == 8) = true := by decide
/-- R315, R316, R326: a claim advances the generation, and its answer is awaited; R325: MFENCE of an empty queue goes on. -/
theorem test_oclaim_counts_generations :
    after (exec (.oclaim ⟨1, 0, 0, 0, 0, 0, 0x23⟩) (act [])) (fun t => ((t.core 0).tile 3).gen == 1 && (t.slot 0 0).pend == [.matrix [1]]
      && (t.core 0).seq.map (·.a) == [1]) = true := by decide
theorem test_orelease_unclaimed_traps : stopsWith (.orelease ⟨0, 0, 0, 0, 0, 0, 0x23⟩) (act []) 0x20 = true := by decide
theorem test_mfence_empty : after (exec .mfence (act [])) (fun t => (t.slot 0 0).pc == 8) = true := by decide
/-- R374: FIREND with DONE finishes the slot. -/
theorem test_firend_done :
    after (exec (.firend ⟨0, 0, 0, 0, 1⟩) (act [])) (fun t => (t.slot 0 0).status == .finished && (t.core 0).running == none) = true := by decide
/-- R367: SEND on an unbound port is trap 0x29. -/
theorem test_send_unbound_traps : stopsWith (.send ⟨0, 3, 0, 0, 0, 0, 0x10⟩) (act []) 0x29 = true := by decide
/-- R413: a call without a ring counts as lost and goes on. -/
theorem test_sysc_without_ring :
    after (exec (.sysc ⟨1, 2, 3, 0, 16⟩) (act [])) (fun t => trapLost (t.ctx 0).trapwr == 1 && (t.slot 0 0).pc == 8) = true := by decide
/-- R409: SREG reads TEAMWAIT, 20 at reset; an unassigned register is trap 0x2B. -/
theorem test_sreg_reads : gives (.sreg ⟨5, 0, 0, 0, 0, 0, 0x006⟩) (act []) 5 20 = true := by decide
theorem test_sreg_unassigned_traps : stopsWith (.sreg ⟨5, 0, 0, 0, 0, 0, 0x00F⟩) (act []) 0x2B = true := by decide
theorem test_tlbi_context : after (exec (.tlbi ⟨0, 0, 0, 0, 0, 0, 0⟩) (act [])) (fun t => t.tlb.isEmpty) = true := by decide
/-- R72, R363: the watchdog and a word outside the map. -/
theorem test_watchdog_traps : stopsWith .watchdog (act []) 0x28 = true ∧ stopsWith (.unassignedMajorOpcode 0) (act []) 1 = true := by decide
theorem test_nop_advances : after (exec .nop (act [])) (fun t => (t.slot 0 0).pc == 8) = true := by decide

/-! ### Single firings of elements -/

/-- An element with an opcode, modifiers, MODE, LF 3 and OW 0, inputs from outputs x of positions 1 to 3, and further fields. -/
def elemOf (op mods mode : Nat) (more : AMap Nat) : Elem :=
  { b0 := more.foldl (fun b x => mset b x.1 (fv x.2))
      [(0, fv (op * 2 ^ 11 + mods)), (1, fv (srcOf 1 0)), (2, fv (srcOf 2 0)), (3, fv (srcOf 3 0)), (14, fv (3 + 16 * mode))] }
/-- A port with these tokens. -/
def portOf (q : List Token) : Port := { q := q.zipIdx.map fun x => { tok := x.1, ord := x.2 }, seen := q.length }
/-- The element at position 5 with heads on a, b and c, about to fire; position 6 consumes x and y. -/
def firing (e : Elem) (a b d : List Token) : State :=
  { pkg [(5, { e with pa := portOf a, pb := portOf b, pc := portOf d })
        , (6, { b0 := [(0, fv (1 * 2 ^ 11)), (1, fv (srcOf 5 0)), (2, fv (srcOf 5 1)), (14, fv 3)] })] [] with cur := .elem 0 5 }
/-- The same at position 41, where fibre operations stand, with position 42 as the consumer. -/
def fibring (e : Elem) (a b : List Token) : State :=
  { pkg [(41, { e with pa := portOf a, pb := portOf b })
        , (42, { b0 := [(0, fv (0x84 * 2 ^ 11)), (1, fv (srcOf 41 0)), (2, fv (srcOf 41 1))] })] [] with cur := .elem 0 41 }
/-- A 32-bit val token. -/
def val (n : Nat) : Token := { pay := BitVec.ofNat 512 n }
/-- A coordinate and reference pair. -/
def pair (crd r : Nat) : Token := { kind := .crd, width := 1, pay := BitVec.ofNat 512 (crd + r * 2 ^ 32) }
def ref (n : Nat) : Token := { kind := .ref, pay := BitVec.ofNat 512 n }
def stopTok (k : Nat) : Token := { kind := .stop, lvl := k }
/-- Payloads that have reached the consumer's port a, and its port b. -/
def sentX (o : Out) (p : Nat) (l : List Nat) : Bool := after o fun t => (t.elem 0 p).pa.q.map (fun x => x.tok.pay.toNat) == l
def sentY (o : Out) (p : Nat) (l : List Nat) : Bool := after o fun t => (t.elem 0 p).pb.q.map (fun x => x.tok.pay.toNat) == l
def kindsX (o : Out) (p : Nat) (l : List TKind) : Bool := after o fun t => (t.elem 0 p).pa.q.map (·.tok.kind) == l

/-- R136: INT8 lanes saturate, with overflow, and a scalar result is sign-extended to OW. -/
theorem test_iadd_saturates :
    sentX (exec (.iadd ⟨3, 0, 1, 0⟩) (firing (elemOf 1 (3 * 256 + 8) 0 []) [val 127] [val 1] [])) 6 [127] = true
    ∧ after (exec (.iadd ⟨3, 0, 1, 0⟩) (firing (elemOf 1 (3 * 256 + 8) 0 []) [val 127] [val 1] [])) (fun t => (t.elem 0 5).flags == 2) = true := by decide +kernel
/-- SW exchanges the inputs (R59); ICMP of SUB 2 is less than, and unsigned under TY 1. -/
theorem test_isub_swapped : sentX (exec (.isub ⟨0, 0, 0, 1⟩) (firing (elemOf 2 4 0 []) [val 1] [val 5] [])) 6 [4] = true := by decide +kernel
theorem test_icmp_unsigned : sentX (exec (.icmp ⟨1, 2, 0, 0⟩) (firing (elemOf 0x0F (256 + 32) 0 []) [val 1] [val 0xFFFFFFFF] [])) 6 [1] = true := by decide +kernel
/-- R135: heads of two sets under "require equal" are fault 0x21; a control token passes to x (R133). -/
theorem test_sets_clash :
    stopsWith (.iadd ⟨0, 0, 0, 0⟩) (firing (elemOf 1 0 0 [(11, 2)]) [{ val 1 with set := 1 }] [{ val 2 with set := 2 }] []) 0x21 = true := by decide +kernel
theorem test_stops_pass : kindsX (exec (.iadd ⟨0, 0, 0, 0⟩) (firing (elemOf 1 0 0 []) [stopTok 0] [stopTok 0] [])) 6 [.stop] = true := by decide +kernel
theorem test_stop_meets_data : stopsWith (.iadd ⟨0, 0, 0, 0⟩) (firing (elemOf 1 0 0 []) [stopTok 0] [val 1] []) 0x22 = true := by decide +kernel
/-- R137: FP32 2 × 3 + 1. R141: of equal scores the lower index wins, and its token is forwarded unchanged. -/
theorem test_ffma_element :
    sentX (exec (.ffmaElement ⟨4, 0, 0, 0⟩) (firing (elemOf 0x13 0x400 0 []) [val 0x40000000] [val 0x40400000] [val 0x3F800000])) 6 [0x40E00000] = true := by decide +kernel
theorem test_cmpf_tie :
    sentX (exec (.cmpf ⟨4, 0, 0, 0⟩) (firing (elemOf 0x19 0x400 0 []) [val (0x3F800000 + 9 * 2 ^ 32)] [val (0x3F800000 + 4 * 2 ^ 32)] [])) 6
      [0x3F800000 + 4 * 2 ^ 32] = true := by decide +kernel
/-- R144: LRED of sixteen ones is 16, and lanes beyond the first are zero. R145: SHUF is bit for bit. -/
theorem test_lred_adds :
    sentX (exec (.lred ⟨0, 0, 0, 0⟩) (firing (elemOf 0x32 0 0 [(14, 8)]) [val 1] [] [])) 6 [16] = true := by decide +kernel
/-- R146: an inclusive scan keeps its last lane as the carry. -/
theorem test_lscan_carry :
    after (exec (.lscan ⟨0, 0, 0, 0⟩) (firing (elemOf 0x33 0 0 [(14, 8)]) [val 1] [] [])) (fun t => (t.elem 0 5).carry == some 16) = true := by decide +kernel
/-- R147: CNT emits k0 + j·k1. R151: AFF of count 2 with a lane each keeps its base for the second value. -/
theorem test_cnt_counts :
    sentX (exec (.cnt ⟨0, 0, 0, 0⟩) { firing { elemOf 0x40 0 0 [(4, 10), (5, 3), (6, 2), (11, 3)] with q0 := 1 } [] [] [] with tick := 7 }) 6 [13] = true := by decide +kernel
theorem test_aff_keeps_its_base :
    after (exec (.aff ⟨0, 0, 0, 0⟩) (firing (elemOf 0x41 0 0 [(5, 3), (6, 2)]) [val 10] [] []))
      (fun t => (t.elem 0 5).pa.q.length == 1 && (t.elem 0 5).q0 == 1) = true := by decide +kernel
/-- R149: a filled line of two gives its front. R150: ACC parks the fold of set 0 decided. -/
theorem test_delay_front :
    sentX (exec (.delay ⟨0, 0, 0, 0⟩) (firing { elemOf 0x42 0 0 [] with line := [val 8, val 9], filled := true } [val 10] [] [])) 6 [8] = true := by decide +kernel
theorem test_acc_parks :
    after (exec (.acc ⟨0, 0, 0, 0⟩) (firing (elemOf 0x43 0 0 [(11, 3)]) [val 10] [] []))
      (fun t => (t.elem 0 5).settle.length == 1 && (t.elem 0 5).pa.q.isEmpty) = true := by decide +kernel
/-- R183: STEER sends a rejected token to y; FORK copies to both; GATE without credit holds its a. -/
theorem test_steer_rejects :
    sentY (exec (.steer ⟨0, 0, 0, 0⟩) (firing (elemOf 0x52 0 0 []) [val 10] [val 0] [])) 6 [10] = true := by decide +kernel
theorem test_fork_copies :
    sentX (exec (.fork ⟨0, 0, 0, 0⟩) (firing (elemOf 0x50 0 0 []) [val 10] [] [])) 6 [10] = true
    ∧ sentY (exec (.fork ⟨0, 0, 0, 0⟩) (firing (elemOf 0x50 0 0 []) [val 10] [] [])) 6 [10] = true := by decide +kernel
theorem test_gate_takes_credit :
    after (exec (.gate ⟨0, 0, 0, 0⟩) (firing (elemOf 0x54 0 0 []) [val 10] [val 2] []))
      (fun t => (t.elem 0 5).q0 == 2 && (t.elem 0 5).pa.q.length == 1) = true := by decide +kernel
/-- R160: OSNEW of index 0 in share 0 declares set 1 first. -/
theorem test_osnew_declares :
    after (exec (.osnew ⟨0, 0, 0, 0⟩) (firing (elemOf 0x55 0 0 [(11, 3)]) [val 10] [] []))
      (fun t => match t.dreqs with | [(_, r)] => r.set == 1 && r.kind == .declare | _ => false) = true := by decide +kernel
/-- R199: SCANU of fibres of 3 gives child 3·v first. R200: ISECT drops the lower coordinate. R201: UNION marks the missing side. -/
theorem test_scanu_first_child :
    sentX (exec (.scanu 0) (fibring (elemOf 0x80 0 0 [(14, 0), (18, 3)]) [ref 2] [])) 42 [6 * 2 ^ 32] = true
    ∧ sentY (exec (.scanu 0) (fibring (elemOf 0x80 0 0 [(14, 0), (18, 3)]) [ref 2] [])) 42 [6] = true := by decide +kernel
theorem test_isect_drops :
    after (exec (.isect 0) (fibring (elemOf 0x83 0 0 [(14, 0)]) [pair 1 10] [pair 2 20])) (fun t => (t.elem 0 41).pa.q.isEmpty) = true := by decide +kernel
theorem test_union_marks :
    sentY (exec (.union 0) (fibring (elemOf 0x84 0 0 [(14, 0)]) [pair 1 10] [pair 2 20])) 42 [1 + 0xFFFFFFFF * 2 ^ 32] = true := by decide +kernel
/-- R193: a coordinate that does not rise is fault 0x33 at UNION. R202: REPEAT gives a's reference for each data token of b. -/
theorem test_union_order :
    stopsWith (.union 0) ((fibring (elemOf 0x84 0 0 [(14, 0)]) [pair 1 10] [pair 2 20]).modElem 0 41 fun e =>
      { e with pa := { e.pa with prev := .data, lastCrd := some 1 } }) 0x33 = true := by decide +kernel
theorem test_repeat_repeats : sentX (exec (.repeatEl 0) (fibring (elemOf 0x85 0 0 [(14, 0)]) [ref 7] [val 1])) 42 [7] = true := by decide +kernel
theorem test_bor_words :
    sentX (exec (.bor 0) (fibring (elemOf 0x8B 0 0 [(14, 0)]) [{ val 5 with width := 1 }] [{ val 8 with width := 1 }])) 42 [13] = true := by decide +kernel
/-- R328: MPORT refuses a token that is no 64-bit val with fault 0x3B. -/
theorem test_mport_width : stopsWith (.mport 0) (firing (elemOf 0xB5 0 0 [(11, 3)]) [val 1] [] []) 0x3B = true := by decide +kernel
/-- R226: LDA under handle 5 loads the FULL word's low byte as INT8; its traversal goes on. -/
theorem test_lda_loads :
    sentX (exec (.lda 0x300) (firing (elemOf 0xA0 0x300 0 [(15, 5), (17, 1), (18, 2), (11, 0)]) [] [] [])) 6 [0x11] = true := by decide +kernel

/-! ### Configuration, omission, dealing and the supervisor's events -/

/-- Core 0's network at a command of a stream, with page 0 open in a bank when `page` says so. -/
def netAtCmd (cmds : List Cmd) (idx : Nat) (page : Option Nat) (bank : Nat) (pfx : Option (Nat × BitVec 30)) : State :=
  { (pkg [] []).modCore 0 fun k => { k with net := some { cmds := cmds, idx := idx, page := page, bank := bank, pfx := pfx } } with cur := .net 0 }
/-- The fault code and index that stop the network's stream. -/
def cfgFault (o : Out) (code idx : Nat) : Bool := after o fun t =>
  match (t.core 0).net with
  | some n => n.ended && (n.fault.map fun f => (f.1, f.2.1)) == some (code, idx)
  | none => false

/-- R47, R53: FIELD k0 = −1 is sign-extended to 49 bits; under PREFIX the high bits come from it. -/
theorem test_field_sign_extends :
    after (exec (.field 5 4 0x7FFFF) (netAtCmd [0, 0, 0] 1 (some 0) 0 none)) (fun t => (t.elem 0 5).inBank 0 4 == 2 ^ 49 - 1) = true := by decide +kernel
theorem test_field_under_prefix :
    after (exec (.field 5 4 7) (netAtCmd [0, 0, 0] 1 (some 0) 1 (some (0, 1)))) (fun t => (t.elem 0 5).inBank 1 4 == 2 ^ 19 + 7) = true := by decide +kernel
/-- R48 to R50, R63: a second PAGE, a reserved class, a position that opcode ADD may not stand at, a page beyond the set. -/
theorem test_configuration_faults :
    cfgFault (exec (.page 0 0) (netAtCmd [0, 0, 0] 1 (some 0) 0 none)) 3 1 = true
    ∧ cfgFault (exec (.reservedClassCommand 0) (netAtCmd [0, 0, 0] 1 (some 0) 0 none)) 1 1 = true
    ∧ cfgFault (exec (.field 40 0 0x00800) (netAtCmd [0, 0, 0] 1 (some 0) 0 none)) 6 1 = true
    ∧ cfgFault (exec (.page 0 2) (netAtCmd [0, 0, 0] 1 none 0 none)) 0x10 1 = true := by decide +kernel
/-- R48; R61: a page without HEAD is not sealed: fault 0x06 names the SEAL command. -/
theorem test_bank_and_seal :
    after (exec (.bank 0 1) (netAtCmd [0, 0, 0] 1 (some 0) 0 none)) (fun t => ((t.core 0).net.map (·.bank)) == some 1) = true
    ∧ cfgFault (exec (.sealPage 0) (netAtCmd [0, 0, 0] 1 (some 0) 0 none)) 6 1 = true := by decide +kernel
theorem test_prefix_alone :
    cfgFault (exec (.bank 0 1) (netAtCmd [0, 0, 0] 1 (some 0) 0 (some (0, 5)))) 3 0 = true
    ∧ after (exec (.arm 0 0 5) (netAtCmd [0, 0, 0] 1 (some 0) 0 none)) (fun t => ((t.core 0).net.map (·.arms)) == some [(0, 5, true)]) = true := by decide +kernel

/-- A request at the damper of die 0 for set 2, which is LIVE or QUENCHED there. -/
def asked (kind : DKind) (quenched : Bool) : State :=
  { pkg [] [] with
    entries := [(0, { launch := 0, share := 0, set := 2, s := 1, u := 1, quenched := quenched })]
    dreqs := [(5, { die := 0, launch := 0, kind := kind, set := 2, src := .settle 0 5, cause := 1, worth := 0x3E80, elem := 20 })] }
/-- R164: COMMIT of a LIVE set is answered SEALED and frees the entry; of a QUENCHED one QUENCHED; QUENCH is broadcast to the team's core. -/
theorem test_commit_seals :
    after (exec (.commitIfLive 0 5) (asked .commit false)) (fun t => t.entries.isEmpty && (t.dans.map (·.2.quenched)) == [false]) = true
    ∧ after (exec (.commitIfLive 0 5) (asked .commit true)) (fun t => (t.dans.map (·.2.quenched)) == [true]) = true := by decide +kernel
theorem test_quench_broadcasts :
    after (exec (.quenchIfLive 0 5) (asked .quench false)) (fun t => (t.casts.map (·.2.core)) == [0] && (t.entries.map (·.2.quenched)) == [true]) = true := by decide +kernel
theorem test_declare_makes_live :
    after (exec (.declare 0 5) { asked .declare false with entries := [] }) (fun t => (t.entries.map (·.2.quenched)) == [false]) = true := by decide +kernel
/-- R180: the words of the manual's notice for set 2, at element 20, evicted with worth 0x3E80. -/
theorem test_notice_words :
    after (exec (.noticeRelease 0) { pkg [] [] with
        launches := [(0, { dies := [0], frontier := [(0, none)] })]
        entries := [(0, { launch := 0, share := 0, set := 2, s := 1, u := 1, quenched := true, cause := 1, worth := 0x3E80, elem := 20 })] })
      (fun t => ((t.launch 0).flue.map fun n => (n.w0, n.w1)) == [(0x00003E8001000002, 0x0000000000010014)]) = true := by decide +kernel
/-- R378: the first chunk of 50 records among three instances, MIN 4, is 9 records from 50. -/
theorem test_first_chunk :
    after (exec (.chunkRequest 0 1 0) { pkg [(60, { b0 := [(0, fv (0xB4 * 2 ^ 11)), (4, fv 0x8000), (16, fv 0x78000)] })] [] with
        launches := [(0, { pkt := [0x0000208E00000000, 0x0000000400000064], dies := [0, 1]
                           img := { psets := [{ pages := 1, stream := [] }], job := some 8 }
                           places := [{ pset := 0, inst := 0, share := 1, lpg := 0, core := 0 }], cursor := [(1, 50)]
                           deals := [{ share := 1, inst := 0, next := 0, stop := 0 }] })]
        cores := [(0, { own := some { owner0 with share := 1 }, srcRun := true
                        elems := [(60, { b0 := [(0, fv (0xB4 * 2 ^ 11)), (4, fv 0x8000), (16, fv 0x78000)] })] })] })
      (fun t => (t.launch 0).cursorOf 1 == 59) = true := by decide +kernel
/-- R407 to R409: TEAMWAIT has 32 bits. -/
theorem test_register_write_refused :
    after (exec (.registerWrite 0x06 3 (2 ^ 32)) (pkg [] [])) (fun t => fld t.refr 0 1 == 1 && fld t.refr 8 8 == 6 && fld t.refr 16 4 == 3) = true
    ∧ after (exec (.registerWrite 0x06 3 7) (pkg [] [])) (fun t => (t.ctx 3).teamwait == 7) = true := by decide +kernel
/-- R432, R434: bring-up before everything; a throttle slows one step of sixteen at a time. -/
theorem test_bring_up : after (step State.reset) (fun t => t.power == .on && t.hbm.isEmpty) = true := by decide +kernel
theorem test_throttle_saturates : after (exec .throttle { pkg [] [] with throttle := 15 }) (fun t => t.throttle == 15) = true := by decide +kernel
/-- FIPS 180-4: the first eight bytes of SHA-512 of the string abc. -/
theorem test_sha512_abc :
    (Sha.sha512 [0x61, 0x62, 0x63]).take 8 = [0xDD, 0xAF, 0x35, 0xA1, 0x93, 0x61, 0x7A, 0xBA] := by decide +kernel
/-- R1, R65, R72: step fetches and runs a word that is laid down, as the first instruction after reset. -/
theorem test_step_runs_a_word :
    after (step (State.reset.withFetchWord 64 0x0C020000FFFFFFFD)) (fun t => (t.slot 0 0).reg 1 == 0xFFFFFFFFFFFFFFFD && (t.slot 0 0).pc == 8) = true
    ∧ after (step (State.reset.withFetchWord 32 0xC0000000)) (fun t => (t.core 0).net.isSome) = true := by decide +kernel

/-! ### Witnesses: states and operands that meet the hypotheses of the statements -/

/-- Does an operation complete in a state? -/
def runs {α : Type} (m : M α) (s : State) : Bool := (m s).toBool
theorem runs_ok {α : Type} {m : M α} {s : State} (h : runs m s = true) : ∃ r t, m s = .ok (r, t) := by
  unfold runs at h
  match hm : m s with
  | .ok (r, t) => exact ⟨r, t, rfl⟩
  | .error _ => simp [hm, Except.toBool] at h
/-- Does an operation complete with this result in this state? -/
def yields {α : Type} [DecidableEq α] (m : M α) (s : State) (r : α) (t : State) : Bool :=
  match m s with
  | .ok x => decide (x = (r, t))
  | .error _ => false
theorem yields_ok {α : Type} [DecidableEq α] {m : M α} {s t : State} {r : α} (h : yields m s r t = true) : m s = .ok (r, t) := by
  unfold yields at h
  match hm : m s with
  | .ok x => simp only [hm, decide_eq_true_eq] at h; rw [h]
  | .error _ => simp [hm] at h
/-- An operation on a unit result that completes, at the state that it reaches. -/
def reached {α : Type} (m : M α) (s : State) : State :=
  match m s with
  | .ok (_, t) => t
  | .error _ => s
theorem nexts {o : Out} (h : after o (fun _ => true) = true) : ∃ t, o = .next t := by
  unfold after at h
  match o with
  | .next t => exact ⟨t, rfl⟩
  | .fault _ => simp at h
  | .refused _ => simp at h
/-- Does a word decode to an instruction, or to a trap code? -/
theorem decodes {sys dbg : Bool} {w : Word} {i : Instr}
    (h : (match decodeWord sys dbg w with | .ok j => decide (j = i) | .error _ => false) = true) : decodeWord sys dbg w = .ok i := by
  match hm : decodeWord sys dbg w with
  | .ok j => simp only [hm, decide_eq_true_eq] at h; rw [h]
  | .error _ => simp [hm] at h
theorem refuses {sys dbg : Bool} {w : Word} {n : Nat}
    (h : (match decodeWord sys dbg w with | .ok _ => false | .error m => decide (m = n)) = true) : decodeWord sys dbg w = .error n := by
  match hm : decodeWord sys dbg w with
  | .ok j => simp [hm] at h
  | .error _ => simp only [hm, decide_eq_true_eq] at h; rw [h]

/-- A word laid down for the sequencer of core 0, and a command for its network. -/
def fetched (w : Nat) : State := State.reset.withFetchWord 64 w

theorem witness_bring_up_comes_first : ∃ s t, s.power = .off ∧ step s = .next t :=
  ⟨State.reset, (nexts (by decide +kernel)).choose, rfl, (nexts (o := step State.reset) (by decide +kernel)).choose_spec⟩
theorem witness_held_or_tripped :
    ({ State.reset with power := .heldInReset } : State).power = .heldInReset ∧ ({ State.reset with power := .tripped } : State).power = .tripped := ⟨rfl, rfl⟩
theorem witness_step_runs_an_actor_word :
    ∃ (s : State) (c n : Nat) (rest : List Move) (i : Instr),
      let u := s.nextMove.2.redoCore c
      s.power = .on ∧ s.agenda = .actor c :: rest ∧ (u.core c).running = some n
      ∧ u.firingLive c = true ∧ (u.slot c n).status = .firing ∧ (u.slot c n).issued < 65536 ∧ (u.slot c n).entry ≤ (u.slot c n).pc
      ∧ (u.slot c n).pc + 16 ≤ (u.slot c n).stop
      ∧ decodeWord (u.launch (u.own c).launch).img.system (fld (u.ctx (u.ctxOf c)).ctl 1 1 == 1) (u.fetchWord c n) = .ok i
      ∧ u.awaited c n i = none ∧ u.readsPoison c n i = none ∧ ∀ x ∈ (s.core c).slots, x.2.pend = [] :=
  ⟨fetched 0x004221A200000000, 0, 0, [.event (.bringUp State.plainBringUp)], .add ⟨1, 2, 3, 0, 2, 0, 1⟩,
    by decide +kernel, by decide +kernel, by decide +kernel, by decide +kernel, by decide +kernel, by decide +kernel, by decide +kernel,
    by decide +kernel, decodes (by decide +kernel), by decide +kernel, by decide +kernel, by decide +kernel⟩
/-- Register 1 is awaited from the matrix sequencer, and is read. -/
theorem witness_an_instruction_waits :
    ∃ (s : State) (i : Instr) (p : Pend),
      let u := s.nextMove.2.redoCore 0
      s.agenda = [.actor 0] ∧ (u.core 0).running = some 0 ∧ u.firingLive 0 = true ∧ (u.slot 0 0).status = .firing
      ∧ (u.slot 0 0).pc + 16 ≤ (u.slot 0 0).stop
      ∧ decodeWord (u.launch (u.own 0).launch).img.system (fld (u.ctx (u.ctxOf 0)).ctl 1 1 == 1) (u.fetchWord 0 0) = .ok i
      ∧ p ∈ (u.slot 0 0).pend ∧ ∃ r ∈ p.dsts, r ∈ regReads (u.slot 0 0) i ++ regWrites (u.fetchWord 0 0) i :=
  ⟨{ fetched 0x004221A200000000 with agenda := [.actor 0] }.modSlot 0 0 fun x => { x with pend := [.matrix [1]] }, .add ⟨1, 2, 3, 0, 2, 0, 1⟩, .matrix [1],
    by decide +kernel, by decide +kernel, by decide +kernel, by decide +kernel, by decide +kernel, decodes (by decide +kernel), by decide +kernel,
    1, by decide +kernel, by decide +kernel⟩
/-- The last word of an image may end the firing: FIREND in the image's last place. -/
theorem witness_step_runs_the_last_word :
    ∃ (s : State) (i : Instr), s.agenda = [.actor 0] ∧ s.firingLive 0 = true ∧ (s.slot 0 0).pc + 8 ≤ (s.slot 0 0).stop ∧ ¬ (s.slot 0 0).pc + 16 ≤ (s.slot 0 0).stop
      ∧ endsBlock i = true ∧ decodeWord (s.launch (s.own 0).launch).img.system (fld (s.ctx (s.ctxOf 0)).ctl 1 1 == 1) (s.fetchWord 0 0) = .ok i :=
  ⟨{ fetched 0x4D00000000000001 with agenda := [.actor 0] }.modSlot 0 0 fun x => { x with stop := 8 }, .firend ⟨0, 0, 0, 0, 1⟩,
    by decide +kernel, by decide +kernel, by decide +kernel, by decide +kernel, rfl, decodes (by decide +kernel)⟩
theorem witness_step_runs_a_command :
    ∃ (s : State) (c : Nat) (rest : List Move) (n : Stream) (w : Cmd), s.power = .on ∧ s.agenda = .config c :: rest ∧ (s.core c).net = some n
      ∧ n.cmds[n.idx]? = some w :=
  ⟨State.reset.withFetchWord 32 0x44000001, 0, [.event (.bringUp State.plainBringUp)], { cmds := [0x44000001] }, 0x44000001,
    by decide +kernel, by decide +kernel, by decide +kernel, rfl⟩
theorem witness_step_runs_an_event :
    ∃ (s : State) (i : Instr), s.power = .on ∧ s.agenda = [.event i] ∧ ownedRow i = false :=
  ⟨{ pkg [] [] with agenda := [.event .throttle] }, .throttle, rfl, rfl, rfl⟩
theorem witness_refused_word :
    ∃ (s : State) (code : Nat), s.power = .on ∧ s.agenda = [.actor 0] ∧ (s.core 0).running = some 0 ∧ s.firingLive 0 = true ∧ (s.slot 0 0).status = .firing
      ∧ (s.slot 0 0).issued < 65536 ∧ (s.slot 0 0).entry ≤ (s.slot 0 0).pc ∧ (s.slot 0 0).pc + 8 ≤ (s.slot 0 0).stop
      ∧ decodeWord (s.launch (s.own 0).launch).img.system (fld (s.ctx (s.ctxOf 0)).ctl 1 1 == 1) (s.fetchWord 0 0) = .error code :=
  ⟨{ fetched 0x4FC0000000000001 with agenda := [.actor 0] }, 4, by decide +kernel, by decide +kernel, by decide +kernel, by decide +kernel,
    by decide +kernel, by decide +kernel, by decide +kernel, by decide +kernel, refuses (by decide +kernel)⟩
theorem witness_trap_of_a_team :
    ∃ (s : State) (o : Owner) (k : Launch), (s.core 0).own = some o ∧ mget s.launches o.launch = some k ∧ k.failed = none :=
  ⟨act [], owner0, _, rfl, rfl, rfl⟩
/-- Encodings: an instruction at the edges of its fields, an element operation, a word that decodes, a system word. -/
theorem witness_encodings :
    (Instr.ld ⟨31, 31, 0, 3, 1, 5, 4095, 0xFFFFF⟩).wellFormed = true ∧ (encodeWord (.ld ⟨31, 31, 0, 3, 1, 5, 4095, 0xFFFFF⟩)).isSome = true
    ∧ (Instr.unassignedMajorOpcode 0xFFFFFFFFFFFFFFFF).wellFormed = true ∧ rawWord 0xFFFFFFFFFFFFFFFF = none
    ∧ encodeElem (.cmpf ⟨5, 1, 0, 1⟩) = some 0x0CD14 ∧ fld (0x544A600000001306 : Word) 54 10 = 0x151
    ∧ fld (0x5480400000000012 : Word) 54 10 = 0x152 ∧ fld (0x4180000000018000 : Word) 54 10 = 0x106 := by decide +kernel
theorem witness_word_that_decodes : ∃ (w : Word) (i : Instr), decodeWord true true w = .ok i := ⟨0x3800_02EA_0090_0008, _, decodes (i := .rst ⟨0, 0, 5, 3, 0, 10, 9, 8⟩) (by decide +kernel)⟩

/-- Integer and float types of scalar instructions, a zero and a nonzero divisor, a float type and an identity conversion. -/
theorem witness_scalar_types :
    (∀ ty : BitVec 3, ty ∈ [0, 1, 2, 3, 6] → IntTy ty) ∧ operand 6 (reg (act [(3, 2)]) 3) ≠ 0 ∧ operand 3 (reg (act [(3, 0x100)]) 3) = 0
    ∧ ((0x330000 : BitVec 22).extractLsb' 18 4).toNat = 12 ∧ ((0x330000 : BitVec 22).extractLsb' 14 4).toNat = 12
    ∧ (0x330000 : BitVec 22).getLsbD 13 = false := by
  refine ⟨?_, ?_⟩
  · intro ty h; unfold IntTy; simp only [List.mem_cons, List.not_mem_nil, or_false] at h; exact h
  · decide +kernel
theorem witness_float_types : (4 : BitVec 3) = 4 ∨ (4 : BitVec 3) = 5 := .inl rfl
/-- Branches: the last word inside the image, the first beyond it, and one before it. -/
theorem witness_branch_targets :
    let x := (act []).slot 0 0
    ((x.entry : Int) ≤ (x.pc : Int) + 8 * (7#32).toInt ∧ (x.pc : Int) + 8 * (7#32).toInt < (x.stop : Int))
    ∧ ¬ ((x.entry : Int) ≤ (x.pc : Int) + 8 * (8#32).toInt ∧ (x.pc : Int) + 8 * (8#32).toInt < (x.stop : Int))
    ∧ ¬ ((x.entry : Int) ≤ (x.pc : Int) + 8 * (0xFFFFFFFF#32).toInt ∧ (x.pc : Int) + 8 * (0xFFFFFFFF#32).toInt < (x.stop : Int)) := by decide +kernel
theorem witness_scalar_frame : ∃ (s t : State) (i : Instr) (dst : Reg), scalarDst i = some dst ∧ exec i s = .next t :=
  ⟨act [], _, .add ⟨1, 2, 3, 0, 2, 0, 1⟩, 1, rfl, (nexts (by decide +kernel)).choose_spec⟩
theorem witness_agents_frame :
    (∃ (s t : State) (i : Instr) (d : List Nat), actorDsts i = some d ∧ exec i s = .next t)
    ∧ ∃ (s t : State) (i : Instr) (v : BitVec 19), encodeElem i = some v ∧ exec i s = .next t :=
  ⟨⟨act [], _, .ld ⟨1, 0, 0, 2, 0, 0, 5, 0⟩, [1], rfl, (nexts (by decide +kernel)).choose_spec⟩,
   ⟨firing (elemOf 1 0 0 []) [val 1] [val 2] [], _, .iadd ⟨0, 0, 0, 0⟩, 0x00800, rfl, (nexts (by decide +kernel)).choose_spec⟩⟩
theorem witness_memory_invariant : ∃ s t : State, Memory.wf s = true ∧ step s = .next t ∧ s.hbm ≠ [] :=
  ⟨{ pkg [] [] with agenda := [.event .throttle] }, _, by decide +kernel,
    (nexts (o := step { pkg [] [] with agenda := [.event .throttle] }) (by decide +kernel)).choose_spec, by decide +kernel⟩

/-! Witnesses: memory, atomics and synchronisation. -/

def e5 : List Word := [0x0020000000000040, 4096, 0, 16]
def e6 : List Word := [0x0010000000020000, 65536, 0, 0]
def e7 : List Word := [0x0330000000000000, 4096, 0, 0]
/-- The leaf that maps the first GiB to itself. -/
def pte0 : Word := 0x400000000007
/-- No access of the running firing is pending. -/
theorem settled_here {s : State} (lvl : Nat)
    (w : decide (s.accessPending (s.actorSrc s.here.1 s.here.2) = false ∧ s.remotePending (s.actorSrc s.here.1 s.here.2) = false) = true) : Settled s lvl :=
  ⟨(of_decide_eq_true w).1, fun _ => (of_decide_eq_true w).2⟩
theorem spPlace {s : State} {h o n k off : Nat} {e : List Word}
    (w : (yields (handle .actor s.here.1 h o) s e s && decide (hSpace e = 2 ∧ o + n ≤ hSize e ∧ k = s.spCore s.here.1 e ∧ off = hBase e + o
      ∧ off + n ≤ (s.core k).nsp * 32768 ∧ off % n = 0)) = true) : SpPlace s h o n k off e := by
  simp only [Bool.and_eq_true, decide_eq_true_eq] at w
  exact ⟨yields_ok w.1, w.2.1, w.2.2.1, w.2.2.2.1, w.2.2.2.2.1, w.2.2.2.2.2.1, w.2.2.2.2.2.2⟩
theorem memPlace {s : State} {h o n : Nat} {write : Bool} {va pa lvl : Nat} {pte : Word} {e : List Word}
    (w : (yields (handle .actor s.here.1 h o) s e s && yields (xlate s.here.1 (s.ctxOf s.here.1) va write) s (lvl, pte, pa) s
      && yields (inOrder va 8) s () s
      && decide (hSpace e = 1 ∧ o + n ≤ hSize e ∧ va = hBase e + o ∧ (hEFV e = true → hEFMT e = pteFmt pte) ∧ va % n = 0)) = true) :
    MemPlace s h o n write va pa lvl pte e := by
  simp only [Bool.and_eq_true, decide_eq_true_eq] at w
  exact ⟨yields_ok w.1.1.1, w.2.1, w.2.2.1, w.2.2.2.1, yields_ok w.1.1.2, w.2.2.2.2.1, w.2.2.2.2.2, yields_ok w.1.2⟩
theorem winPlace {s : State} {h o n : Nat} {write : Bool} {sp idx ofs : Nat} {e : List Word}
    (w : (yields (handle .actor s.here.1 h o) s e s && decide (hSpace e = sp ∧ 3 ≤ sp ∧ o + n ≤ hSize e ∧ idx = bits (hBase e) 46 6
      ∧ ofs = bits (hBase e) 0 46 + o ∧ wKind (s.window (s.ctxOf s.here.1) idx) = sp ∧ wIn (s.window (s.ctxOf s.here.1) idx) = false
      ∧ wClean (s.window (s.ctxOf s.here.1) idx) = true ∧ ofs + n ≤ wSize (s.window (s.ctxOf s.here.1) idx)
      ∧ (write = true → wRdonly (s.window (s.ctxOf s.here.1) idx) = false) ∧ (hEFV e = true → hEFMT e = 0))) = true) :
    WinPlace s h o n write sp idx ofs e := by
  simp only [Bool.and_eq_true, decide_eq_true_eq] at w
  obtain ⟨a, b, c, d, f, g, i, j, k, l, m, q⟩ := w
  exact ⟨yields_ok a, b, c, d, f, g, i, j, k, l, m, q⟩

/-- An access of 2 ^ sz bytes at offset 8 of handle 5 or 6, in order and scope os. -/
def acc (sz : BitVec 2) (os : BitVec 4) (h : BitVec 12) : MForm := ⟨1, 0, 3, sz, 0, os, h, 1⟩
theorem sp_place (n : Nat) (h : n ∈ [1, 2, 4, 8]) : SpPlace (act []) 5 8 n 0 72 e5 := by
  simp only [List.mem_cons, List.not_mem_nil, or_false] at h
  rcases h with rfl | rfl | rfl | rfl <;> exact spPlace (by decide +kernel)
theorem mem_place (write : Bool) (n : Nat) (h : n ∈ [1, 2, 4, 8]) : MemPlace (act []) 6 8 n write 0x20008 0x20008 2 pte0 e6 := by
  simp only [List.mem_cons, List.not_mem_nil, or_false] at h
  cases write <;> rcases h with rfl | rfl | rfl | rfl <;> exact memPlace (by decide +kernel)
/-- The last word of handle 5, and one past it, that no place is. -/
theorem sp_place_at_the_end : SpPlace (act []) 5 4088 8 0 4152 e5 := spPlace (by decide +kernel)
theorem sp_place_beyond : ¬ SpPlace (act []) 5 4096 8 0 4160 e5 := fun h => absurd h.within (by decide +kernel)

theorem witness_handle_is_cached : ∃ (s t : State) (e : List Word), handle .actor 0 5 0 s = .ok (e, t) := ⟨act [], act [], e5, yields_ok (by decide +kernel)⟩
/-- An entry read from the table at HTB, 0x20000: a scratchpad handle 0 of the core itself. -/
def uncached : State :=
  { act [] with hbm := hbm0 ++ [(0x20006, 0x20), (0x20009, 0x10), (0x20018, 0x10)], lineKey := [(0, (0, 0)), (256, (0, 0)), (512, (0, 0)), (513, (0, 0)), (0x800, (0, 0))]
                ctxs := [(0, { ctl := 1, keys := 1, htb := 0x20000, htbUse := 0x20000 })], tlb := [] }
theorem witness_handle_is_read : ∃ (e : List Word) (t : State), handle .actor 0 0 0 uncached = .ok (e, t) := runs_ok (by decide +kernel)
theorem witness_translation : ∃ (r : Nat × Word × Nat) (t : State), xlate 0 0 0x20008 true uncached = .ok (r, t) := runs_ok (by decide +kernel)
theorem witness_walk : ∃ r : Nat × Word, walk uncached 0 0x20008 true = .ok r := by
  have h : (walk uncached 0 0x20008 true).toBool = true := by decide +kernel
  match hw : walk uncached 0 0x20008 true with
  | .ok r => exact ⟨r, rfl⟩
  | .error _ => simp [hw, Except.toBool] at h
theorem witness_load_store_scratchpad :
    let s := act []
    SpPlace s 5 (s.mOfs (acc 2 0 5)) 4 0 72 e5 ∧ SpScope 0 0 0 ∧ SpScope 0 0 5 ∧ s.spPoisoned 0 72 4 = false ∧ osRel 5 = false
      ∧ osAcq 10 = false ∧ NothingPending s 10 :=
  ⟨sp_place 4 (by decide), .inl rfl, .inr (.inr (.inr (.inr (by decide)))), by decide +kernel, rfl, rfl, fun _ => settled_here _ (by decide +kernel)⟩
theorem witness_load_store_memory :
    let s := act []
    pteGeo pte0 = 0 ∧ MemPlace s 6 (s.mOfs (acc 3 0 6)) (accBytes (pteFmt pte0) 3) true 0x20008 0x20008 2 pte0 e6
      ∧ MemPlace s 6 (s.mOfs (acc 3 0 6)) (accBytes (pteFmt pte0) 3) false 0x20008 0x20008 2 pte0 e6
      ∧ ldOk (pteFmt pte0) 3 = true ∧ stOk (pteFmt pte0) 0 3 = true
      ∧ (∃ r t, scopeAt false 0 6 8 0 (.mem 0 0x20008 0 false) s = .ok (r, t)) ∧ (∃ r t, scopeAt false 0 6 8 3 (.mem 0 0x20008 0 false) s = .ok (r, t))
      ∧ (s.lineRead 0 0 0 0x20008 8).2.2 = none ∧ NothingPending s 0 :=
  ⟨by decide +kernel, mem_place true 8 (by decide), mem_place false 8 (by decide), by decide +kernel, by decide +kernel, runs_ok (by decide +kernel),
    runs_ok (by decide +kernel), by decide +kernel, fun h => by simp [osRel] at h⟩
theorem witness_values_by_format : (255 : Nat) < 2 ^ 8 ∧ (65535 : Nat) < 2 ^ 16 ∧ (2 ^ 32 - 1 : Nat) < 2 ^ 32 ∧ (2 ^ 64 - 1 : Nat) < 2 ^ 64 := by decide +kernel
theorem witness_scratchpad_store_frame :
    let s := act []
    let f : MForm := acc 3 0 5
    SpPlace s 5 (s.mOfs f) 8 0 72 e5 ∧ (∃ t, exec (.ld f) s = .next t) ∧ (∃ u, exec (.st ⟨0, 0, 3, 3, 0, 0, 5, 1⟩) s = .next u)
      ∧ s.waiters = [] ∧ NoWaiters s 0 :=
  ⟨sp_place 8 (by decide), nexts (by decide +kernel), nexts (by decide +kernel), rfl, ⟨rfl, rfl, rfl⟩⟩
/-- Policies wb, uc; the line is not in the L1, and no line marked zero lists bytes. -/
theorem witness_memory_store_frame :
    let s := act []
    MemPlace s 6 (s.mOfs (acc 3 0 6)) 8 true 0x20008 0x20008 2 pte0 e6 ∧ (∃ t, exec (.st (acc 3 0 6)) s = .next t) ∧ polAt (hPol e6) pte0 = 0
      ∧ polAt (hPol e6) 7 = 3 ∧ s.l1Line (s.l1Core 0 (0x20008 / 64)) (0x20008 / 64) = none ∧ Memory.wf s = true :=
  ⟨mem_place true 8 (by decide), nexts (by decide +kernel), by decide +kernel, by decide +kernel, by decide +kernel, by decide +kernel⟩
theorem witness_zero_marks : Memory.zeroMarks State.reset := fun _ _ => rfl
/-- Words 9 FULL and 10 EMPTY under handle 5; nobody waits. -/
theorem witness_full_empty :
    let s := act []
    SpPlace s 5 8 8 0 72 e5 ∧ SpPlace s 5 16 8 0 80 e5 ∧ NoWaiters s 0 ∧ s.waiters = [] ∧ s.given 0 0 .fullEmpty = none ∧ Full s 0 (72 / 8)
      ∧ ¬ Full s 0 (80 / 8) ∧ 72 / 8 ∉ (s.core 0).spPoison :=
  ⟨sp_place 8 (by decide), spPlace (by decide +kernel), ⟨rfl, rfl, rfl⟩, rfl, by decide +kernel, by unfold Full; decide +kernel, by unfold Full; decide +kernel,
    by decide +kernel⟩
theorem witness_ways_and_hinv :
    let s := act []
    (s.core 0).fused = false ∧ (s.core 0).lists = [] ∧ (s.core 0).writers = [] ∧ s.coreWaits 0 (5 * 4096) = false ∧ s.coreWaits 0 (20 * 4096) = false ∧ Settled s 4 :=
  ⟨by decide +kernel, by decide +kernel, by decide +kernel, by decide +kernel, by decide +kernel, settled_here 4 (by decide +kernel)⟩

theorem witness_atomic_results : (0 : Nat) < 9 ∧ (0 : Nat) ≠ 7 ∧ (2 ^ 32 - 1 : Nat) < 2 ^ (8 * 2 ^ 2) ∧ (2 ^ 64 - 1 : Nat) < 2 ^ (8 * 2 ^ 3) := by decide +kernel
theorem witness_atomics :
    let s := act []
    NothingPending s 15 ∧ SpPlace s 5 (s.mOfs (acc 2 0 5)) 4 0 72 e5 ∧ SpScope 0 0 1 ∧ s.spPoisoned 0 72 4 = false
      ∧ MemPlace s 6 (s.mOfs (acc 3 0 6)) 8 true 0x20008 0x20008 2 pte0 e6 ∧ amoOk (pteFmt pte0) 3 false = true ∧ amoOk (pteFmt pte0) 2 true = true
      ∧ (∃ r t, scopeAt false 0 6 8 13 (.mem 0 0x20008 0 false) (Claims.released s 0 13) = .ok (r, t))
      ∧ (homed s 0 false 2 0x20008 0x20008).poisoned 0x20008 8 = false :=
  ⟨fun _ => settled_here _ (by decide +kernel), sp_place 4 (by decide), .inr (.inl ⟨rfl, rfl⟩), by decide +kernel, mem_place true 8 (by decide), by decide +kernel,
    by decide +kernel, runs_ok (by decide +kernel), by decide +kernel⟩
theorem witness_double_word_atomics :
    let s := act [(2, 8), (3, 16)]
    let f : XForm := ⟨4, 6, 8, 2, 3, 0, 0x1400⟩
    SpPlace s (f.ctl.extractLsb' 10 12).toNat (reg s f.sc).toNat 8 0 72 e5 ∧ SpPlace s (f.ctl.extractLsb' 10 12).toNat (reg s f.sd).toNat 8 0 80 e5
      ∧ SpScope 0 0 0 ∧ NothingPending s 0 ∧ s.spPoisoned 0 72 8 = false ∧ s.spPoisoned 0 80 8 = false :=
  ⟨spPlace (by decide +kernel), spPlace (by decide +kernel), .inl rfl, fun h => by simp [osRel] at h, by decide +kernel, by decide +kernel⟩
/-- A region of length 64 of handle 6, and one of length 0; an acquire and a release at .die. -/
theorem witness_entry_consistency :
    let s := act [(4, 0x0060000000000000), (5, 64)]
    let bare := act [(4, 0x0060000000000000)]
    MemPlace s 6 8 8 false 0x20008 0x20008 2 pte0 e6 ∧ MemPlace s 6 8 8 true 0x20008 0x20008 2 pte0 e6 ∧ (∀ lvl, Settled s lvl)
      ∧ (reg bare (4 + 1)).toNat = 0 ∧ 0 < (reg s (4 + 1)).toNat ∧ (reg s (4 + 1)).toNat ≤ 2 ^ 32 ∧ (s.launch (s.own 0).launch).binds.length < 64
      ∧ handle .actor 0 (fld (reg s 4) 52 12) (fld (reg s 4) 0 52) s = .ok (e6, s) ∧ fld (reg s 4) 0 52 + 64 ≤ hSize e6
      ∧ (∃ r t, scopeAt false 0 6 8 3 (.mem 0 0x20008 0 false) s = .ok (r, t)) ∧ (s.lineRead 0 0 0 0x20008 8).2.2 = none
      ∧ (∃ r t, scopeAt false 0 6 8 8 (.mem 0 0x20008 0 false) (releasedOf s 0 3 (s.coverOf 0 0x20008)) = .ok (r, t)) :=
  ⟨memPlace (by decide +kernel), memPlace (by decide +kernel), fun _ => settled_here _ (by decide +kernel), by decide +kernel, by decide +kernel, by decide +kernel, by decide +kernel,
    yields_ok (by decide +kernel), by decide +kernel, runs_ok (by decide +kernel), by decide +kernel, runs_ok (by decide +kernel)⟩
/-- Barrier 0 of level 1 in launch 0, where slot 1 of core 0 has arrived of COUNT. -/
def atBarrier (count : Nat) : State :=
  { act [] with launches := [(0, { barriers := [{ lvl := 1, inst := barInst 0 1, id := 0, count := count, arrived := [(0, 1)] }] })] }
theorem witness_barrier :
    let here (b : Barrier) : Bool := b.lvl == 1 && b.inst == barInst 0 1 && b.id == 0
    mget (act []).launches 0 = some ((act []).launch 0) ∧ (act []).given 0 0 .barrier = none ∧ ((act []).launch 0).barriers.find? here = none
      ∧ (∀ lvl, Settled (act []) lvl)
      ∧ (∃ b, ((atBarrier 3).launch 0).barriers.find? here = some b ∧ b.count = 3 ∧ b.arrived.length + 1 < 3)
      ∧ ∃ b, ((atBarrier 2).launch 0).barriers.find? here = some b ∧ b.count = 2 ∧ b.arrived.length + 1 = 2 ∧ (atBarrier 2).waiters = [] :=
  ⟨rfl, by decide +kernel, by decide +kernel, fun _ => settled_here _ (by decide +kernel), ⟨_, rfl, rfl, by decide⟩, ⟨_, rfl, rfl, rfl, rfl⟩⟩
/-- The word at offset 8 holds 0x33: bound 0x33 is reached, 0x34 is not. -/
theorem witness_mwait :
    let s := act [(3, 0x33)]
    let u := act [(3, 0x34)]
    s.given 0 0 .mwait = none ∧ SpPlace s 5 8 4 0 72 e5 ∧ SpPlace u 5 8 4 0 72 e5 ∧ SpScope 0 0 0 ∧ s.spPoisoned 0 72 4 = false
      ∧ (reg s 3).toNat % 2 ^ 32 ≤ leVal (s.spRead 0 72 4) ∧ leVal (u.spRead 0 72 4) < (reg u 3).toNat % 2 ^ 32
      ∧ MemPlace s 6 8 4 false 0x20008 0x20008 2 pte0 e6 ∧ amoOk (pteFmt pte0) 2 false = true
      ∧ (s.evictLine (s.l1Core 0 (0x20008 / 64)) (0x20008 / 64)).poisoned 0x20008 4 = false
      ∧ 0 ≤ leVal (s.readHome 0x20008 4 0) :=
  ⟨by decide +kernel, spPlace (by decide +kernel), spPlace (by decide +kernel), .inl rfl, by decide +kernel, by decide +kernel, by decide +kernel,
    memPlace (by decide +kernel), by decide +kernel, by decide +kernel, Nat.zero_le _⟩
/-- A watch descriptor at 0x20000: a word of handle 6 at 0x100, and a packet at 0x200; and one that cancels watchpoint 0. -/
def watching (cancel : Bool) : State :=
  { act [] with
    hbm := hbm0 ++ (if cancel then [(0x2000F, 0x80)]
      else [(0x20001, 1), (0x20006, 0x60), (0x20008, 8), (0x20010, 0xFF), (0x20021, 2), (0x20026, 0x60)])
    lineKey := [(0, (0, 0)), (256, (0, 0)), (512, (0, 0)), (513, (0, 0)), (0x800, (0, 0))] }
theorem witness_watch :
    let w (c : Bool) : List Word := wordsOf 8 ((watching c).readHome 0x20000 64 0)
    handle .actor 0 6 0 (watching false) = .ok (e6, watching false)
      ∧ (∃ r t, readLoc 0 (.mem 0 0x20000 0 false) 64 (watching false) = .ok (r, t))
      ∧ (fld ((w false).getD 1 0) 7 1 = 0 ∧ fld ((w false).getD 1 0) 11 21 = 0 ∧ fld ((w false).getD 1 0) 48 15 = 0 ∧ (w false).getD 5 0 = 0
        ∧ fld ((w false).getD 1 0) 63 1 = 0 ∧ fld ((w false).getD 1 0) 0 7 = 8)
      ∧ (fld ((w true).getD 1 0) 63 1 = 1 ∧ fld ((w true).getD 1 0) 7 1 = 0)
      ∧ yields (sideRef (.trap 0x1A 6 0) 0 ((w false).getD 0 0) 8 [1] false) (watching false) (.mem 0 0x20100 0 false) (watching false) = true
      ∧ yields (sideRef (.trap 0x1A 6 0) 0 ((w false).getD 4 0) 256 [1] false) (watching false) (.mem 0 0x20200 0 false) (watching false) = true
      ∧ yields (xlate 0 0 0x20100 false) (watching false) (2, pte0, 0x20100) (watching false) = true
      ∧ 0x20100 / 64 = (0x20100 + 8 - 1) / 64 ∧ 8 * cdiv 0x20100 8 + 8 ≤ 0x20100 + 8 :=
  ⟨yields_ok (by decide +kernel), runs_ok (by decide +kernel), by decide +kernel, by decide +kernel, by decide +kernel, by decide +kernel, by decide +kernel,
    by decide +kernel, by decide +kernel⟩
theorem witness_held_append :
    let s : State := { pkg [] [] with heldAppends := [(0, 2, [1])] }
    s.heldAppends[0]? = some (0, 2, [1]) ∧ ([1] : List Word) ≠ [] ∧ (∀ a ∈ s.heldAppends.take 0, ¬ (a.1 = 0 ∧ a.2.1 = 2)) ∧ (mgetD (s.ctx 0).queues 2 []).length < 64 := by decide +kernel

/-! Witnesses: reach, copies, the matrix array, routing. -/

/-- What an operation gives in a state, and the state it reaches. -/
def resultOf {α : Type} [Inhabited α] (m : M α) (s : State) : α × State :=
  match m s with
  | .ok x => x
  | .error _ => (default, s)
theorem result_ok {α : Type} [Inhabited α] {m : M α} {s : State} (h : runs m s = true) : m s = .ok ((resultOf m s).1, (resultOf m s).2) := by
  obtain ⟨r, t, e⟩ := runs_ok h
  simp only [resultOf, e]
/-- Words laid down in physical memory, at a line boundary above everything that the tests list. -/
def placing (a : Nat) (ws : List Nat) (s : State) : State :=
  let bs := ws.flatMap fun w => leBytes 8 w
  { s with hbm := s.hbm ++ (bs.zipIdx.filter fun b => b.1 != 0).map fun b => (a + b.2, b.1)
           lineKey := s.lineKey ++ (upTo ((bs.length + 63) / 64)).map fun i => (a / 64 + i, (0, 0)) }
/-- A reference of a handle and byte offset. -/
def refTo (h o : Nat) : Word := word (h * 2 ^ 52 + o)

theorem witness_rst_and_ramo :
    let s := act [(3, 5)]
    WinPlace s 7 (s.mOfs (acc 3 0 7)) 8 true 3 0 8 e7 ∧ 8 % 8 = 0 ∧ NothingPending s 0 ∧ NothingPending s 11 ∧ (reg s (3 + 1)).toNat < 9 ∧ s.given 0 0 .ramo = none
      ∧ s.given 0 0 .scope = none :=
  ⟨winPlace (by decide +kernel), rfl, fun h => by simp [osRel] at h, fun _ => settled_here _ (by decide +kernel), by decide +kernel, by decide +kernel,
    by decide +kernel⟩
/-- The target's slice has let a checked access go on, and has refused one under the scope .pkg. -/
theorem witness_checked_access :
    let s (ok : Bool) := (act []).modSlot 0 0 fun x => { x with park := some { kind := .scope, done := true, val := 4, flag := ok } }
    (s true).given 0 0 .scope = some { kind := .scope, done := true, val := 4, flag := true }
      ∧ (s false).given 0 0 .scope = some { kind := .scope, done := true, val := 4, flag := false } := by decide +kernel
theorem witness_ramo_answered :
    let s := (act []).modSlot 0 0 fun x => { x with park := some { kind := .ramo, done := true, val := 7 } }
    s.given 0 0 .ramo = some { kind := .ramo, done := true, val := 7 } ∧ s.given 0 0 .scope = none := by decide +kernel
/-- A row of 64 bytes from handle 5 to window 0, without a set and with set 9; a longest row is too long by one. -/
def sending : State := act [(1, 9), (2, refTo 5 0), (3, refTo 7 64), (4, 64)]
theorem witness_rsend :
    0 < (reg sending 4).toNat ∧ (reg sending 4).toNat ≤ 2 ^ 24 ∧ sideRef (.trap 0x1D 0 0) 0 (reg sending 2) 64 [1, 2] false sending = .ok (.sp 0 64, sending)
      ∧ sideRef (.trap 0x1D 0 0) 0 (reg sending 3) 64 [3, 4, 5] false sending = .ok (.win 3 0 64, sending) ∧ wRdonly (sending.window 0 0) = false
      ∧ sending.given 0 0 .rsend = none ∧ sending.spPoisoned 0 64 64 = false ∧ (reg sending 1).setWidth 24 ≠ (0 : BitVec 24)
      ∧ (4 : BitVec 22).getLsbD 2 = true ∧ (4 : BitVec 22).getLsbD 0 = false ∧ (5 : BitVec 22).getLsbD 0 = true
      ∧ handle (.fixed (.trap 0x1D 0 0)) 0 (fld (reg sending 3) 52 12) (fld (reg sending 3) 0 52) sending = .ok (e7, sending) ∧ hSpace e7 = 3 ∧ hEFV e7 = false :=
  ⟨by decide +kernel, by decide +kernel, yields_ok (by decide +kernel), yields_ok (by decide +kernel), by decide +kernel, by decide +kernel, by decide +kernel,
    by decide +kernel, by decide +kernel, by decide +kernel, by decide +kernel, yields_ok (by decide +kernel), by decide +kernel, by decide +kernel⟩
/-- A member of a group of two, rank 0: a reduction of one 32-bit element. -/
def collecting : State :=
  { act [(2, refTo 6 0x100), (3, refTo 6 0x200), (4, 1), (5, refTo 6 0x300)] with
    ctxs := [(0, { ctl := 1, keys := 1, wtb := 0x8000, grp := 0x804000000 })] }
theorem witness_coll :
    let s := collecting
    (s.ctx 0).gv = true ∧ (s.ctx 0).gsize = 2 ∧ 0 < (reg s 4).toNat ∧ (reg s 4).toNat ≤ 2 ^ 24
      ∧ sideRef (.trap 0x1D 0 0) 0 (reg s 2) (collSrc 2 1 2 * collSize 1) [1] false s = .ok (.mem 0 0x20100 0 false, s)
      ∧ sideRef (.trap 0x1D 0 0) 0 (reg s 3) (collDst 2 1 2 * collSize 1) [1] true s = .ok (.mem 0 0x20200 0 false, s)
      ∧ sideRef (.trap 0x1D 0 0) 0 (reg s 5) 8 [1] true s = .ok (.mem 0 0x20300 0 false, s) ∧ 0x20300 % 8 = 0
      ∧ yields (readLoc 0 (.mem 0 0x20100 0 false) (collSrc 2 1 2 * collSize 1)) s ([0, 0, 0, 0], none)
          (resultOf (readLoc 0 (.mem 0 0x20100 0 false) (collSrc 2 1 2 * collSize 1)) s).2 = true
      ∧ (s.ctx 0).rank = 0 ∧ (0 : Nat) < (s.ctx 0).gsize ∧ (1 : Nat) < (s.ctx 0).gsize :=
  ⟨by decide +kernel, by decide +kernel, by decide +kernel, by decide +kernel, yields_ok (by decide +kernel), yields_ok (by decide +kernel),
    yields_ok (by decide +kernel), rfl, by decide +kernel, by decide +kernel, by decide +kernel, by decide +kernel⟩
/-- Inbound windows 1, 2 and 3 admit their own kind and key, to the last byte of their 4096, and no more. -/
theorem witness_arrivals :
    let s := pkg [] []
    s.admits 0 3 9 0x20000 8 true = true ∧ s.admits 0 3 9 (0x20000 + 4088) 8 true = true ∧ s.admits 0 3 9 (0x20000 + 4089) 8 true = false
      ∧ s.admits 0 3 8 0x20000 8 true = false ∧ s.admits 0 4 9 0x20000 8 true = true ∧ s.admits 0 4 9 0x20000 8 false = true ∧ s.admits 0 4 1 0x20000 8 true = false
      ∧ s.admits 0 5 0 0x20000 8 true = true ∧ s.admits 0 5 0 0x30000 8 true = false
      ∧ runs (unitRead none 0 0x20000 8) s = true ∧ runs (unitWrite none 0 0x20000 false [1, 2]) s = true ∧ runs (unitXlate none 0 0x20000 false true) s = true
      ∧ (resultOf (unitXlate none 0 0x20000 false true) s).2.poisoned (resultOf (unitXlate none 0 0x20000 false true) s).1.1 8 = false
      ∧ mget s.qpairs 4 = none ∧ mget s.requesters 4 = none
      ∧ mget ({ s with qpairs := [(4, { port := 1, ctx := 0, queue := 2, launch := true, mtu := 4096 })] }).qpairs 4
        = some { port := 1, ctx := 0, queue := 2, launch := true, mtu := 4096 }
      ∧ s.unitWait = [] ∧ runs (unitBad none 0 0x20000 8) s = true
      ∧ mget ({ s with requesters := [(4, 0)] }).requesters 4 = some 0 ∧ (List.replicate 256 (0 : Byte)).length = 256
      ∧ (mgetD (s.ctx 0).queues 2 []).length < 64 := by decide +kernel
/-- A cell of one row, its first and last, for this package under key 9. -/
theorem witness_cell_arrival :
    let s := pkg [] []
    let p0 : Word := word (9 * 2 ^ 32)
    fld p0 9 9 = s.pod ∧ fld (0 : Word) 0 16 ≤ fld (0 : Word) 16 16 ∧ fld (0 : Word) 32 1 = 0 ∧ fld (0 : Word) 34 1 = 0
      ∧ s.admits (fld p0 18 4) 3 (fld p0 32 32) (fld (0x20000 : Word) 0 52 + 256 * 0) 1 true = true
      ∧ s.admits (fld (0 : Word) 18 4) 3 (fld (0 : Word) 32 32) (fld (0x20000 : Word) 0 52 + 256 * 0) 1 true = false
      ∧ runs (unitWrite none (fld p0 18 4) (fld (0x20000 : Word) 0 52) false ([5].take 1)) s = true := by decide +kernel
/-- An access to a line whose recorded scope is .pkg: refused under .die of another package's agent, allowed where no scope is recorded. -/
theorem witness_far_scopes :
    let a : RemoteAccess := { ctx := 0, rkey := 9, addr := 0x20000, size := 8, read := false, amo := none, os := 3, val := 0, cmp := 0
                              data := leBytes 8 5, bad := [], gid := none, pkg := 2, tag := 6 }
    let s : State := pkg [] []
    let u : State := { s with scopes := [(0x800, { lvl := 4, inst := 0 })] }
    a.os ≠ 0 ∧ (match s.scopeCheck 0x20000 (s.farScope a) with | .ok _ => true | .error _ => false) = true
      ∧ (match u.scopeCheck 0x20000 (u.farScope a) with | .ok _ => false | .error r => r.lvl == 4) = true
      ∧ runs (unitWrite none a.ctx a.addr false a.data) s = true := by decide +kernel
/-- Slot 0 waits for request 7, an atomic of its firing, or for the check of request 8, a store with scope .pkg. -/
theorem witness_reach_ends :
    let r (k : ReachKind) : ReachReq := { kind := k, launch := some 0, src := .actor 0 0 0, os := 4 }
    let s (p : Park) : State :=
      { (act []).modSlot 0 0 (fun x => { x with park := some p }) with reach := [(7, r .ramo), (8, r .rst), (9, r .row)] }
    let a : Park := { kind := .ramo, on := 7 }
    let b : Park := { kind := .scope, on := 8 }
    mget (s a).reach 7 = some (r .ramo) ∧ mget (s b).reach 8 = some (r .rst) ∧ mget (s a).reach 9 = some (r .row) ∧ ((s a).core 0).own.map (·.launch) = some 0
      ∧ ((s a).slot 0 0).serial = 0 ∧ ((s a).slot 0 0).park = some a ∧ ((s b).slot 0 0).park = some b ∧ (r .rst).os ≠ 0 := by decide +kernel
/-- The first COLL of tag 3 of a member of rank 0: a sum of one 32-bit element with the member of rank 1, at package 1, into 0x20200. -/
theorem witness_collective_ends :
    let part (n : Nat) : CollPart := { op := 2, ty := 1, rop := 0, root := 0, n := 1, data := leBytes 4 n, tag := 3, k := 0 }
    let r : ReachReq := { kind := .coll, args := [0x20200, 0, 0x20300, 0], part := some (part 1) }
    let s : State := placing 0x30000 [2 ^ 32] { collecting with
      reach := [(7, r)], ctxs := [(0, { ctl := 1, keys := 1, wtb := 0x8000, grp := 0x804000000, rnkt := 0x30000 })] }
    let parts := (List.range 2).filterMap (s.collPart 0 (part 1) [(1, part 2)])
    let s1 := reached (unitWrite (some 0) 0 0x20200 false (leBytes 4 3)) s
    mget s.reach 7 = some r ∧ (s.ctx 0).gsize = 2 ∧ parts = [part 1, part 2] ∧ s.unitWait = []
      ∧ runs (unitWrite (some 0) 0 0x20200 false (leBytes 4 3)) s = true
      ∧ runs (unitWrite (some 0) 0 0x20300 false (leBytes 8 1)) (({ s1 with reach := mdel s1.reach 7 }).pkgRelease 0 0x20300) = true := by decide +kernel

/-- A packet that moves 16 bytes from handle 5 to its place 16 further on through queue 3; and a fence in queue 0. -/
def copying : State :=
  act [(2, word (15 * 2 ^ 16 + 3 * 2 ^ 13)), (3, word (5 * 2 ^ 36)), (4, word (5 * 2 ^ 36 + 16)), (6, word 2), (8, word 1)]
theorem witness_xfer :
    ((copying.core 0).qRoom (pQ (reg copying 2)) = true) ∧ Settled copying 4
      ∧ (∃ r s1, checkPacket false 0 (copying.actorSrc 0 0) (reg copying 2) (reg copying 3) (reg copying 4) (reg copying 5) (ordered copying true) = .ok (r, s1))
      ∧ (∃ r s1, checkPacket false 0 (copying.actorSrc 0 0) (reg copying 6) 0 0 0 (ordered copying false) = .ok (r, s1)) :=
  ⟨by decide +kernel, settled_here 4 (by decide +kernel), runs_ok (by decide +kernel), runs_ok (by decide +kernel)⟩
/-- Queue 3 full; mask 0x88 joins queues 3 and 7. -/
theorem witness_full_copy_queue :
    let s := copying.modCore 0 fun k => { k with queues := [(3, List.replicate 16 {})] }
    (s.core 0).qRoom 3 = false ∧ (s.core 0).qRoom 7 = true ∧ ((0x88 : BitVec 32).setWidth 8) ≠ (0 : BitVec 8)
      ∧ ((List.range 8).find? fun i => ((0x88 : BitVec 32).setWidth 8).getLsbD i) = some 3 := by decide +kernel
/-- A descriptor of one image at 0x20000 (a 1 by 1 image of one channel of one byte) for operand slot 2, which the team holds. -/
def unfolding : State :=
  placing 0x20000 [6 * 2 ^ 52 + 0x100, 0x0001000100010001, 0x01010101, 0, 8 * 2 ^ 16, 0, 0, 0]
    ((act [(2, refTo 6 0), (4, 1)]).modOp 0 2 fun o => { o with owner := some 0, gen := 1 })
theorem witness_xim2c :
    let s := unfolding
    let bs := leBytes 8 (6 * 2 ^ 52 + 0x100) ++ leBytes 8 0x0001000100010001 ++ leBytes 8 0x01010101 ++ leBytes 8 0 ++ leBytes 8 (8 * 2 ^ 16)
      ++ List.replicate 24 0
    (s.core 0).qRoom 1 = true ∧ handle .actor 0 6 0 s = .ok (e6, s) ∧ hSpace e6 = 1 ∧ locate .actor 0 6 e6 0 64 false s = .ok (.mem 0 0x20000 0 false, s)
      ∧ homeBytes 0 (.mem 0 0x20000 0 false) 64 s = .ok ((bs, none), s) ∧ (s.core 0).holdsOp (s.own 0).launch 2 = true
      ∧ im2colOk (wordsOf 8 bs) 1 = true ∧ sideRef (.trap 0x21 6 0) 0 ((wordsOf 8 bs).getD 0 0) 1 [1] false s = .ok (.mem 0 0x20100 0 false, s) :=
  ⟨by decide +kernel, yields_ok (by decide +kernel), by decide +kernel, yields_ok (by decide +kernel), yields_ok (by decide +kernel), by decide +kernel,
    by decide +kernel, yields_ok (by decide +kernel)⟩
theorem witness_gath :
    let s := act [(2, refTo 6 0), (3, refTo 6 0x100), (4, 3), (5, refTo 6 0x200)]
    (s.core 0).qRoom 1 = true ∧ 0 < (reg s 4).toNat ∧ (reg s 4).toNat ≤ 65536 ∧ handle .actor 0 6 0 s = .ok (e6, s) ∧ handle .actor 0 6 0x100 s = .ok (e6, s)
      ∧ handle .actor 0 6 0x200 s = .ok (e6, s) ∧ hSpace e6 = 1 ∧ 0x200 + 3 * 8 ≤ hSize e6 ∧ ((11 : BitVec 22).extractLsb' 6 6 = (0 : BitVec 6)) :=
  ⟨by decide +kernel, by decide +kernel, by decide +kernel, yields_ok (by decide +kernel), yields_ok (by decide +kernel), yields_ok (by decide +kernel),
    by decide +kernel, by decide +kernel, by decide +kernel⟩
/-- DRAIN of every path with no request, and with one in queue 3 before the bound. -/
theorem witness_drain :
    let r : CopyReq := { w0 := word (15 * 2 ^ 16 + 3 * 2 ^ 13) }
    let s := copying.modCore 0 fun k => { k with queues := [(3, [r])] }
    (∀ q ∈ (copying.core 0).requests, q.id < copying.nextId → q.onPath 7 = false) ∧ (∃ q ∈ (s.core 0).requests, q.id < s.nextId ∧ q.onPath 0 = true) := by
  decide +kernel
/-- Heads at each stage: reading, writing the last word, the stamp, the append, the follow-on; a fence that is held and one that is not. -/
theorem witness_copy_heads :
    let r : CopyReq := { w0 := word (15 * 2 ^ 16), from_ := .sp 0 64, to_ := .sp 0 80 }
    let s (r : CopyReq) : State := copying.modCore 0 fun k => { k with queues := [(0, [r])] }
    ((s r).core 0).queue 0 = [r] ∧ r.xwait = none ∧ r.fences.any ((s r).core 0).open_ = false ∧ pTag r.w0 = 0 ∧ pDk r.w0 = 0 ∧ pLen r.w0 = 16
      ∧ (s r).spPoisoned 0 64 (toWord 64 16) = false ∧ pStamp r.w0 = false ∧ pAppend r.w0 = false ∧ pFollow r.w0 = false
      ∧ (let f : CopyReq := { r with kind := .fence, id := 4 }
         let w : State := (s r).modCore 0 fun k => { k with poolQ := [{ word := 0, write := true, cont := some (.append 0 0) }] }
         (((s r).core 0).poolQ.any fun x => x.cont == some (.append 0 0)) = false ∧ ((w.core 0).poolQ.any fun x => x.cont == some (.append 0 0)) = true
         ∧ f.ahead.any ((s f).core 0).open_ = false ∧ ({ f with ahead := [4] } : CopyReq).ahead.any ((s f).core 0).open_ = true) := by decide +kernel

/-- BF16 operands of one row and K 1 in slots 0 and 1, tile 2, all held; another slot is free. -/
def bf16Row : Word := word (1 * 2 ^ 8 + 2 * 2 ^ 18)
def holding : State :=
  ((act [(1, bf16Row), (2, refTo 5 0), (3, 4)]).modOp 0 0 fun o => { o with owner := some 0, gen := 1, desc := bf16Row, mem := [(1, 0x40)] })
    |>.modOp 0 1 (fun o => { o with owner := some 0, gen := 1, desc := bf16Row, mem := [(0, 0x40), (1, 0x40)] })
    |>.modTile 0 2 fun t => { t with owner := some 0, gen := 1, ckv := true }
theorem witness_claims :
    let k := holding.core 0
    (k.opSlot 5).releasing = false ∧ (k.opSlot 5).owner = none ∧ descOk bf16Row = true ∧ descOk 0 = false ∧ (k.opSlot 0).owner = some 0
      ∧ (k.tile 5).owner = none ∧ (k.tile 2).owner = some 0 ∧ k.holdsOp 0 0 = true ∧ k.holdsOp 0 5 = false ∧ k.holdsTile 0 2 = true ∧ k.holdsTile 0 5 = false
      ∧ k.seqRoom = true ∧ (5 : BitVec 22).getLsbD 5 = false ∧ (0x25 : BitVec 22).getLsbD 5 = true := by decide +kernel
/-- Product of slots 0 and 1 into tile 2: allowed; into tile 3: trap 0x20; a full queue. -/
theorem witness_matrix_words :
    let k := holding.core 0
    let f (ctl : BitVec 22) : XForm := ⟨0, 2, 3, 0, 0, 0, ctl⟩
    k.matCheck 0 (encX 0x102#10 (f 0x820)) = none ∧ k.matCheck 0 (encX 0x103#10 (f 0x820)) = some 0x23 ∧ k.matCheck 0 (encX 0x102#10 (f 0xC20)) = some 0x20
      ∧ k.matCheck 0 (encX 0x104#10 (f 2)) = none ∧ k.matCheck 0 (encX 0x105#10 (f 2)) = none ∧ k.matCheck 0 (encX 0x106#10 (f 2)) = none
      ∧ k.matCheck 0 (encX 0x107#10 (f 2)) = none ∧ k.matCheck 0 (encX 0x108#10 (f 2)) = none ∧ k.seqRoom = true
      ∧ ({ k with seq := List.replicate 16 {} } : Core).seqRoom = false ∧ holding.given 0 0 .matrix = none := by decide +kernel
theorem witness_maccst :
    let w := encX 0x108#10 ⟨0, 2, 3, 0, 0, 0, 2⟩
    let r := reg holding 2
    stShape w = (1, 4, 4) ∧ (reg holding 3).toNat % 4 = 0 ∧ 4 ≤ (reg holding 3).toNat ∧ handle .actor 0 (fld r 52 12) (fld r 0 52) holding = .ok (e5, holding)
      ∧ hSpace e5 < 3 ∧ locate .actor 0 (fld r 52 12) e5 (fld r 0 52) 4 true holding = .ok (.sp 0 64, holding) ∧ hEFV e5 = false :=
  ⟨by decide +kernel, by decide +kernel, by decide +kernel, yields_ok (by decide +kernel), by decide +kernel, yields_ok (by decide +kernel), by decide +kernel⟩
theorem witness_matrix_answers :
    let s := holding.modSlot 0 0 fun x => { x with park := some { kind := .matrix, done := true, val := 1 } }
    let u := holding.modCore 0 fun k => { k with seq := [{}], stLines := [0x800] }
    s.given 0 0 .matrix = some { kind := .matrix, done := true, val := 1 } ∧ (holding.core 0).seq = [] ∧ (u.core 0).seq ≠ [] ∧ (u.core 0).fused = false := by
  decide +kernel
/-- Each operation at the head of the sequencer's queue; what OCLAIM, MCHK and MFIX of the tile 3, which has no checksums, deliver is awaited. -/
theorem witness_sequencer_heads :
    let o (m : BitVec 10) (ctl : BitVec 22) : MatOp := { word := encX m ⟨4, 0, 0, 0, 0, 0, ctl⟩, src := .actor 0 0 0, a := 7 }
    let s (q : MatOp) : State := (holding.modCore 0 fun k => { k with seq := [q] }).modSlot 0 0 fun x => { x with pend := [.matrix (matDsts q.word)] }
    let p := o 0x102 0x820
    ((s p).core 0).seq = [p] ∧ p.xwait = none ∧ ((s p).launch p.launch).phase = .running
      ∧ p.port = false ∧ fld (o 0x101 0x22).word 54 10 = 0x101 ∧ fld (o 0x101 0x22).word 5 1 = 1 ∧ fld (o 0x101 2).word 5 1 = 0
      ∧ fld (o 0x107 2).word 54 10 = 0x107 ∧ fld (o 0x106 2).word 54 10 = 0x106 ∧ fld p.word 54 10 = 0x102 ∧ mAcc p.word = false
      ∧ p.chunk = 0 ∧ ((s p).core 0 |>.opSlot 0).bad = none ∧ ((s p).core 0 |>.opSlot 1).bad = none
      ∧ chunkError 0 p.word ((s p).core 0 |>.opSlot 0) ((s p).core 0 |>.opSlot 1) ((s p).core 0 |>.tile 2) 0 = none ∧ mC p.word = 2 ∧ mA p.word = 0 ∧ mB p.word = 1
      ∧ dK bf16Row ≤ 32 ∧ dRows bf16Row = 1 ∧ fld (o 0x104 3).word 54 10 = 0x104 ∧ fld (o 0x105 3).word 54 10 = 0x105 ∧ fld (o 0x100 3).word 54 10 = 0x100
      ∧ ((s p).slot 0 0).inFiring 0 = true ∧ mTile (o 0x104 3).word = 3 ∧ ((s (o 0x104 3)).core 0 |>.tile 3).ckv = false := by
  decide +kernel
/-- A routing descriptor at 0x20000: one expert, one choice, one token, no arrays but those it needs, all under handle 6; and the expert's row, with a counter. -/
def routing : State :=
  (placing 0x20000
      ([0x100000000, 1, 0x100000008, 6 * 2 ^ 52 + 0x100, 6 * 2 ^ 52 + 0x200, 6 * 2 ^ 52 + 0x300, 6 * 2 ^ 52 + 0x400, 6 * 2 ^ 52 + 0x500
      , 6 * 2 ^ 52 + 0x600, 6 * 2 ^ 52 + 0x800, 6 * 2 ^ 52 + 0xC00, 0, 0, 6 * 2 ^ 52 + 0xD00, 2 ^ 48, 0] ++ List.replicate 80 0
        ++ [6 * 2 ^ 52 + 0x1000, 6 * 2 ^ 52 + 0x1100, 6 * 2 ^ 52 + 0x1200, 0])
    (act [(2, refTo 6 0), (3, 1), (4, 1)])).modLaunch 0 fun l => { l with phase := .running }
/-- The operation that it makes, accepted at the head of die 0's queue. -/
def theOp (kind next last : Nat) : BelfryOp :=
  { id := 1, kind := kind, dva := 0x20000, desc := wordsOf 16 ((routing.readHome 0x20000 128 0)), epoch := 1, next := next, last := last
    arr := [0x20100, 0x20200, 0x20300, 0x20400, 0x20500, 0x20600, 0x20800, 0x20C00, 0, 0, 0x20D00] }
def turnOf (o : BelfryOp) : State :=
  { routing.modSlot 0 0 (fun x => { x with status := .parked, park := some { kind := belfryPark o.kind, on := 1 } }) with belfry := [(0, [o])] }
theorem at_head {s : State} {die : Nat} {o : BelfryOp}
    (w : decide ((s.belfryQ die).head? = some o ∧ o.waiting = false ∧ o.xwait = none ∧ (s.launch o.launch).failed = none) = true) : AtHead s die o :=
  let h := of_decide_eq_true w
  ⟨h.1, h.2.1, h.2.2.1, h.2.2.2⟩
theorem witness_at_head :
    AtHead (turnOf (theOp 0 0 0)) 0 (theOp 0 0 0) ∧ AtHead (turnOf (theOp 1 0 1)) 0 (theOp 1 0 1) ∧ AtHead (turnOf (theOp 2 0 1)) 0 (theOp 2 0 1)
    ∧ AtHead (turnOf (theOp 3 0 0)) 0 (theOp 3 0 0) ∧ ((turnOf (theOp 1 0 1)).launch 0).stopped = false :=
  ⟨at_head (by decide +kernel), at_head (by decide +kernel), at_head (by decide +kernel), at_head (by decide +kernel), by decide +kernel⟩
/-- Issued into an empty queue, and with 16 accepted or an earlier one waiting ahead; and told that it is complete. -/
theorem witness_routing_is_accepted :
    let f : XForm := ⟨1, 2, 3, 4, 0, 0, 0⟩
    let first : BelfryOp := { id := routing.nextId, waiting := true, launch := (routing.own 0).launch }
    let u : State := { routing with nextId := routing.nextId + 1, belfry := [(0, [first])] }
    let full : State := { routing with belfry := [(0, List.replicate 16 { core := 1 })] }
    let behind : State := { routing with belfry := [(0, [{ id := 9, core := 1, waiting := true }])] }
    let told := routing.modSlot 0 0 fun x => { x with park := some { kind := .rcap, done := true, val := 5 } }
    (∀ kind, kind < 4 → routing.given 0 0 (belfryPark kind) = none) ∧ routing.belfryQ 0 = [] ∧ runs (belfryAccept 0 f 0 0 first.id) u = true
      ∧ (u.belfryQ 0).find? (·.waiting) = some first ∧ 16 ≤ ((full.belfryQ 0).filter (!·.waiting)).length
      ∧ (behind.belfryQ 0).find? (·.waiting) = some { id := 9, core := 1, waiting := true } ∧ 9 ≠ behind.nextId
      ∧ told.given 0 0 (belfryPark 0) = some { kind := .rcap, done := true, val := 5 } := by decide +kernel
/-- Not published; published with XCTR below n·D, and at it; merged with quenches to be answered, and answered. -/
theorem witness_rcap_merge :
    let o : BelfryOp := { theOp 0 0 0 with published := true }
    let m (asks : List (Nat × Option Bool)) : BelfryOp := { o with merged := true, asks := asks }
    let s := working (turnOf o) o
    let u := reached (homeWrite 0 (.mem 0 0x20C00 3 false) 8 1) s
    let at_ (s : State) : Nat × State := resultOf (xctrRead o 0 false) (resultOf (xctrCheck o 0 false) s).2
    runs (rcapPublish (theOp 0 0 0)) (working (turnOf (theOp 0 0 0)) (theOp 0 0 0)) = true ∧ o.kind = 0 ∧ (s.launch 0).dies.length = 1
      ∧ runs (xctrCheck o 0 false) s = true ∧ runs (xctrRead o 0 false) (resultOf (xctrCheck o 0 false) s).2 = true ∧ (at_ s).1 = 0 ∧ (at_ u).1 = 1
      ∧ runs (rcapMerge o) (at_ u).2 = true ∧ (m [(0, none)]).asks = [(0, none)] ∧ (m [(0, some true)]).bad48 = none := by decide +kernel
/-- A token of the range and its last one, with no slotted choice, and with one, whose record has state 0: rows run; RREC reads each of its three arrays. -/
theorem witness_routing_in_turn :
    let o := theOp 1 0 1
    let s := working (turnOf o) o
    let p := theOp 2 0 1
    let r := working (turnOf p) p
    let empty := reached (homeWrite 0 (.mem 0 0x20400 3 false) 8 (2 ^ 63)) s
    let rs := resultOf (tokenRecords o 0 0) s
    let slotted := rs.1.filter fun r => fld r.2 62 2 == 0
    let rows := resultOf (outRows p slotted) r
    rSetv o.desc = false ∧ runs (tokenRecords o 0 0) s = true ∧ slotted.length = 1 ∧ ((resultOf (tokenRecords o 0 0) empty).1.filter fun r => fld r.2 62 2 == 0) = []
      ∧ (resultOf (sendToken o 0 0 0 false slotted) rs.2).1 = true ∧ runs (sendToken o 0 0 0 false slotted) rs.2 = true
      ∧ runs (tokenRecords p 0 0) r = true ∧ runs (outRows p slotted) r = true ∧ (rows.1.getD []).length = 1 ∧ (rows.1.getD []).all (fun r => !placeIsWin r.2.2.1) = true
      ∧ runs (combineToken p 0 0 (rows.1.getD [])) rows.2 = true ∧ (resultOf (combineToken p 0 0 (rows.1.getD [])) rows.2).1 = false ∧ p.bad41 = false
      ∧ o.last ≤ o.next + 1 ∧ (theOp 1 0 2).next + 1 < (theOp 1 0 2).last := by decide +kernel
theorem witness_rrec :
    let o := theOp 3 0 0
    let s := working (turnOf o) o
    let gets (i k : Nat) : Bool := runs (o.get8 0 i k) s && (resultOf (o.get8 0 i k) s).1.2.isNone
    gets 3 (o.at_ 0 0) = true ∧ gets 4 (o.inv 0 0) = true ∧ gets 5 0 = true := by decide +kernel
theorem witness_belfry_moves : ∃ s : State, s.power = .on ∧ s.agenda = [.belfry 0] := ⟨{ routing with agenda := [.belfry 0] }, rfl, rfl⟩

/-! Witnesses: actors at their channels, scheduling, system instructions. -/

/-- Slot 0 with input channel 0 at its port 1 and output channel 0 at its port 2, one token a firing each; the input holds these tokens. -/
def bound (q : List Token) (regs : AMap Word) : State :=
  (act regs).modCore 0 fun k => { k with elems :=
    [(60, { b0 := [(0, fv (0xB4 * 2 ^ 11)), (4, fv 0x8100), (6, fv (0x8200 * 2 ^ 32)), (16, fv (srcOf 1 0))], chans := [(0, portOf q)] })] }
/-- The consumer of output channel 0 is armed and has consumed eos: no token of the old producer may follow. -/
def heldBack : State :=
  (bound [] []).modCore 0 fun k => { k with elems := (5, { elemOf 1 0 0 [(1, srcOf 60 0)] with armed := true, pa := { ended := true } }) :: k.elems }
theorem witness_send_recv_and_peek :
    let s := bound [{ val 7 with set := 2 }] []
    let f (ctl : BitVec 22) : XForm := ⟨1, 2, 3, 0, 4, 0, ctl⟩
    (s.elem 0 60).outChan 0 2 = some 0 ∧ mgetD (s.slot 0 0).sent 2 0 < (s.elem 0 60).outRate 0 ∧ (sentToken (s.slot 0 0) (f 2)).isSome = true
      ∧ s.chanOpen 0 0 = true ∧ (heldBack.elem 0 60).outChan 0 2 = some 0 ∧ heldBack.chanOpen 0 0 = false ∧ (s.elem 0 60).outChan 0 3 = none ∧ (s.elem 0 60).inChan 0 3 = none ∧ (s.elem 0 60).inChan 0 1 = some 0
      ∧ (s.elem 0 60).inRate 0 = 1 ∧ mgetD (s.slot 0 0).taken 1 0 < 1 ∧ s.given 0 0 .recv = none ∧ ((bound [] []).core 0).chan 0 = []
      ∧ (s.core 0).chan 0 = [{ tok := { val 7 with set := 2 } }] ∧ (s.core 0).quenches { tok := { val 7 with set := 2 } } = false
      ∧ (s.core 0).asks { tok := { val 7 with set := 2 } } = false ∧ ((bound [val 7] []).core 0).chan 0 = [{ tok := val 7 }]
      ∧ (2 : BitVec 24) ≠ (s.elem 0 60).lastSealed ∧ ((s.elem 0 60).port 8).res = none
      ∧ (f 0x42).ctl.getLsbD 6 = true ∧ fld (word (7 * 2 ^ 3)) 3 3 = 7 ∧ sentToken ((act [(3, word (7 * 2 ^ 3))]).slot 0 0) (f 0x42) = none := by decide +kernel
theorem witness_declared_counts :
    let s := (bound [val 7] []).modSlot 0 0 fun x => { x with taken := [(1, 1)], sent := [(2, 1)] }
    (s.elem 0 60).inRate 0 ≤ mgetD (s.slot 0 0).taken 1 0 ∧ (s.elem 0 60).outRate 0 ≤ mgetD (s.slot 0 0).sent 2 0 := by decide +kernel
/-- A notice in the flue behind an empty ring at 0x20000, and none. -/
theorem witness_note :
    let s (wr : Nat) : State := { act [] with launches :=
      [(0, { dies := [0], note := 0x20000, flue := [⟨2, 0x10014, 0⟩], released := wr, img := { psets := [{ pages := 1, stream := [] }], osnew := [5] } })] }
    let read (wr : Nat) : State × State :=
      let a := (resultOf (noteTouch 0 0) (s wr)).2
      (a, (resultOf (scopeAt false 0 0 0 4 (.mem 0 0x20008 3 false)) a).2)
    (s 0).noteArea 0 = some 0x20000 ∧ (∀ wr < 2, runs (noteTouch 0 0) (s wr) = true ∧ runs (scopeAt false 0 0 0 4 (.mem 0 0x20008 3 false)) (read wr).1 = true)
      ∧ (read 0).2.noticeAt 0 = none ∧ ((read 0).2.launch 0).img.osnew ≠ [] ∧ (read 1).2.noticeAt 0 = some (⟨2, 0x10014, 0⟩, 0)
      ∧ ((act []).launch 0).img.osnew = [] ∧ ((s 0).elem 0 60).ending = false := by decide +kernel
theorem witness_scheduling_round :
    let idle := (bound [val 7] []).modSlot 0 0 fun x => { x with status := .idle }
    let free : State := idle.modCore 0 fun k => { k with running := none }
    let parked := free.modSlot 0 0 fun x => { x with status := .parked, park := some { kind := .seqQueue } }
    (idle.core 0).running = some 0 ∧ (free.core 0).running = none ∧ (List.range 16).filter (free.candidateSlot 0) = [0]
      ∧ (List.range 16).filter (parked.candidateSlot 0) = [0] ∧ (free.slot 0 0).status = .idle
      ∧ (List.range 16).filter (((bound [] []).modCore 0 fun k => { k with running := none }).candidateSlot 0) = [] := by decide +kernel
theorem witness_slot_finishes :
    let s := (bound [eosTok] []).modSlot 0 0 fun x => { x with status := .idle }
    let t := (bound [] []).modSlot 0 0 fun x => { x with status := .finished, eosDue := [0] }
    s.pageLive 0 = true ∧ (s.elem 0 60).inChans 0 = [0] ∧ ((s.core 0).chan 0).map (·.tok.kind) = [.eos] ∧ (s.elem 0 60).inChans 0 ≠ [] ∧ (s.core 0).countedAt ((s.core 0).chan 0) = 0
      ∧ t.pageLive 0 = true ∧ (t.slot 0 0).status = .finished ∧ (t.slot 0 0).eosDue = [0] ∧ t.canEmit 0 60 0 true = true := by decide +kernel
/-- Launch 0 deals 100 records to instance 0 of share 0, one instance, in either mode; MIN 4. -/
def dealt (mode next stop cursor : Nat) : Launch :=
  { pkt := [word (mode * 2 ^ 32), 0x0000000400000064], dies := [0], img := { psets := [{ pages := 1, stream := [] }], job := some 8 }
    places := [{ pset := 0, inst := 0, share := 0, lpg := 0, core := 0 }], cursor := [(0, cursor)]
    deals := [{ share := 0, inst := 0, next := next, stop := stop }] }
def dealing (k : Launch) : State :=
  { pkg [] [] with
    launches := [(0, k)]
    cores := [(0, { own := some owner0, srcRun := true, elems := [(60, { b0 := [(0, fv (0xB4 * 2 ^ 11)), (4, fv 0x8000), (16, fv 0x78000)] })] })] }
theorem witness_lantern :
    let s := dealing (dealt 1 0 100 0)
    mget s.launches 0 = some (dealt 1 0 100 0) ∧ s.jobChan 0 0 0 = some (0, 0) ∧ (dealt 1 0 100 0).dealing = true ∧ s.sourcesRun 0 = true
      ∧ s.canTake (0, 60, 8) false = true ∧ s.canTake (0, 60, 8) true = true ∧ (dealt 1 100 100 0).elastic = false
      ∧ (dealt 2 0 0 60).elastic = true ∧ (s.core 0).chan 0 = [] ∧ (dealt 2 0 0 60).cursorOf 0 < (dealt 2 0 0 60).shareEnd 0
      ∧ ¬ (dealt 2 0 0 100).cursorOf 0 < (dealt 2 0 0 100).shareEnd 0 ∧ (dealt 2 0 0 60).insts = 1
      ∧ ((dealt 1 0 100 0).deals.find? fun d => d.share == 0 && d.inst == 0) = some { share := 0, inst := 0, next := 0, stop := 100 } := by decide +kernel

/-- Every listed register takes a value that it allows, and refuses its lowest reserved bit; those without a writable field refuse all. -/
theorem witness_register_writes :
    let s := pkg [] []
    s.hsMode = true ∧ State.reset.hsMode = false ∧ (s.ctx 3).trapQ = [] ∧ regAssigned 0x06 = true ∧ ((2 ^ 32 : Word) &&& ~~~ listedBits 0x06) ≠ 0 ∧ s.podaFixed = false ∧ fld s.refr 0 1 = 0 ∧ regAssigned 0x81 = true
      ∧ ([0x01, 0x02, 0x03, 0x04, 0x05, 0x07, 0x0A, 0x0B, 0x0D].all fun r => (s.regRefused r 0).isNone) = true
      ∧ s.regRefused 0x06 1 = none ∧ s.regRefused 0x08 1 = none ∧ s.regRefused 0x09 0x103FFF = none ∧ s.regRefused 0x0E 0x100F00000000FFFF = none
      ∧ s.regRefused 0x06 0 ≠ none ∧ fld ({ s with refr := 1 } : State).refr 0 1 = 1 := by decide +kernel
theorem witness_sreg :
    let s := act [(2, 7)]
    Settled s 4 ∧ regAssigned 0x0F = false ∧ regAssigned 0x86 = true ∧ (s.flushL1 0 everyLine).regRefused 0x06 (reg s 2) = none
      ∧ (s.flushL1 0 everyLine).regRefused 0x0C (reg s 2) = some 1 ∧ (0x1006 : BitVec 22).getLsbD 12 = true ∧ (6 : BitVec 22).getLsbD 12 = false :=
  ⟨settled_here 4 (by decide +kernel), by decide +kernel⟩
/-- A trap ring of 2^4 records with room, in a page that is mapped and one that is not, and full; and no ring, with LOST below its limit. -/
theorem witness_sysc :
    let s (rd : Nat) : State := { act [] with ctxs := [(0, { ctl := 1, keys := 1, trapr := 0x0400000000030000, trapwr := word (16 + 0), traprd := word rd })] }
    let placed : State := { s 1 with owners := [(0, 0), (2, 0), (3, 0)] }
    (placed.ringBase 0 ≠ 0 ∧ placed.ringRoom 0 = true ∧ (placed.ctx 0).trapQ = [] ∧ placed.trapHeld 0 = none)
      ∧ ((s 1).ringBase 0 ≠ 0 ∧ (s 1).ringRoom 0 = true ∧ (s 1).trapHeld 0 = some (some 4)) ∧ ((s 0).ringBase 0 ≠ 0 ∧ (s 0).ringRoom 0 = false)
      ∧ ((act []).ringBase 0 = 0 ∧ trapLost ((act []).ctx 0).trapwr < 0xFFFF) := by decide +kernel
theorem witness_tlbi :
    let s := act [(2, 0x20000)]
    Settled s 4 ∧ (∃ v ∈ s.tlb, v.ctx = 0 ∧ (reg s 2).toNat / 2 ^ lvlShift v.lvl = v.base) :=
  ⟨settled_here 4 (by decide +kernel), by decide +kernel⟩
/-- Three bytes of the scratchpad from offset 64 digested to offset 128. -/
theorem witness_digest :
    let s := act [(2, refTo 5 0), (3, refTo 5 64), (4, 3)]
    let bad (q : Word) : Stop := .trap 0x2C (word (fld q 52 12)) (word (fld q 0 52))
    (reg s 4).toNat ≤ 2 ^ 32 ∧ sideRef (bad (reg s 3)) 0 (reg s 3) 64 [1, 2] true s = .ok (.sp 0 128, s) ∧ 128 % 8 = 0
      ∧ sideRef (bad (reg s 2)) 0 (reg s 2) (reg s 4).toNat [1, 2] false s = .ok (.sp 0 64, s)
      ∧ handle .actor 0 (fld (reg s 2) 52 12) (fld (reg s 2) 0 52) s = .ok (e5, s) ∧ s.spPoisoned 0 64 (reg s 4).toNat = false :=
  ⟨by decide +kernel, yields_ok (by decide +kernel), rfl, yields_ok (by decide +kernel), yields_ok (by decide +kernel), by decide +kernel⟩
theorem nothing_waits {s : State}
    (w : decide ((∀ k ∈ s.cores, ∀ x ∈ k.2.slots, x.2.pend = []) ∧ ∀ k ∈ s.ctxs, k.2.trapQ = [] ∧ k.2.endWords = []) = true) : NothingWaits s := by
  have h := of_decide_eq_true w
  refine ⟨h.1, fun x => ?_⟩
  have all : ∀ (l : AMap Ctx), (∀ k ∈ l, k.2.trapQ = [] ∧ k.2.endWords = []) → (mgetD l x {}).trapQ = [] ∧ (mgetD l x {}).endWords = [] := by
    intro l
    induction l with
    | nil => intro _; exact ⟨rfl, rfl⟩
    | cons a r ih =>
      intro hl
      by_cases e : a.1 = x
      · simpa [mgetD, mget, e] using hl a (List.mem_cons_self ..)
      · simpa [mgetD, mget, e] using ih fun k hk => hl k (List.mem_cons_of_mem _ hk)
  exact all s.ctxs h.2
theorem witness_supervisor_events :
    let s : State := { pkg [] [] with xfaults := [{ ord := 3, ctx := 0, page := 1, cause := 1 }], ctxs := [(0, { ctl := 1 })] }
    let b : State := { pkg [] [] with pzBusy := some (2, 0x2000000003) }
    ((3 : Word) &&& ~~~ listedBits 0x84 = 0 ∧ fld (3 : Word) 48 1 = 0 ∧ ∃ f ∈ s.xfaults, f.ord = fld (3 : Word) 0 48 ∧ f.held = false)
      ∧ (s.pzBusy = none ∧ (0x1000000003 : Word) &&& ~~~ 0x1F_FFFF_FFFF = 0)
      ∧ (b.pzBusy = some (2, 0x2000000003) ∧ 2 ≤ 2 ∧ 2 < 2 + fld (0x2000000003 : Word) 0 32 ∧ fld (0x2000000003 : Word) 0 32 = 3)
      ∧ s.hsMode = true ∧ NothingWaits s ∧ NothingWaits b ∧ (0 : Nat) < 64 ∧ (63 : Nat) < 64 ∧ (fld (0x3F02 : Word) 0 1 = 0 ∧ (0x3F02 : Word) &&& ~~~ listedBits 0 = 0 ∧ fld (s.ctx 0).ctl 0 1 = 1)
      ∧ (List.replicate 64 (1 : Byte)).length = 64 :=
  ⟨by decide +kernel, by decide +kernel, by decide +kernel, by decide +kernel, nothing_waits (by decide +kernel), nothing_waits (by decide +kernel), by decide +kernel⟩
theorem witness_bring_up :
    let b := State.plainBringUp
    State.reset.power = .off ∧ Sha.sha512 b.fwKey = State.reset.fuse ∧ Ed25519.verify b.fwKey b.firmware b.fwSig = true
      ∧ Ed25519.verify b.fwKey b.firmware (b.fwSig.set 0 0) = false := by decide +kernel

/-! Witnesses: elements. -/

/-- A token alone in its buffer. -/
def slot0 (k : Token) : Slotted := { tok := k }
def inSet (n : Nat) (k : Token) : Token := { k with set := BitVec.ofNat 24 n }
/-- The element at position 5 with these effects parked. -/
def settling (e : Elem) (q : List Parked) : State := firing { e with settle := q } [] [] []
theorem performs {s : State} {c p : Nat} {eff : Eff} {rest : List Parked} {x : Parked}
    (w : decide ((s.cur = .elem c p ∧ s.pageLive c = true ∧ (s.elem c p).xwait = none ∧ (s.elem c p).outQ = [] ∧ (s.elem c p).got = none)
      ∧ (s.elem c p).settle = x :: rest ∧ x.eff = eff ∧ x.decided = true ∧ x.quenched = false) = true) : Performs s c p eff rest :=
  let h := of_decide_eq_true w
  ⟨h.1.1, h.1.2.1, h.1.2.2.1, h.1.2.2.2.1, h.1.2.2.2.2, x, h.2⟩
/-- Effects of set 0 are decided. -/
theorem performs0 (e : Elem) (eff : Eff) (h : (e.xwait = none ∧ e.outQ = []) ∧ e.got = none) : Performs (settling e [{ eff := eff }]) 0 5 eff [] :=
  ⟨rfl, by rfl, h.1.1, h.1.2, h.2, _, rfl, rfl, by rfl, by rfl⟩
def dataFiring (s : State) (p : Nat) (sw : Bool) (ports : List Nat) (hs : List (Nat × Slotted)) : Bool :=
  decide (s.cur = .elem 0 p ∧ s.pageLive 0 = true ∧ (s.elem 0 p).xwait = none ∧ (s.elem 0 p).outQ = [] ∧ (s.elem 0 p).got = none ∧ (s.elem 0 p).due = false
    ∧ (s.elem 0 p).settle = []) && decide (hs.map (·.1) = ports) && hs.all (fun h => s.headAt 0 p (physPort sw h.1) == some h.2)
  && hs.all (fun h => isDat h.2.tok) && hs.all fun h => hs.all fun k => h.2.tok.set == 0 || k.2.tok.set == 0 || h.2.tok.set == k.2.tok.set
theorem data_firing {s : State} {p : Nat} {sw : Bool} {ports : List Nat} {hs : List (Nat × Slotted)} (w : dataFiring s p sw ports hs = true) :
    DataFiring s 0 p sw ports hs := by
  simp only [dataFiring, isDat, Bool.and_eq_true, decide_eq_true_eq, List.all_eq_true, Bool.or_eq_true, beq_iff_eq] at w
  obtain ⟨⟨⟨⟨⟨h1, h2, h3, h4, h5, h6, h7⟩, hp⟩, hh⟩, hd⟩, hs⟩ := w
  refine ⟨⟨h1, h2, h3, h4, h5, h6, by simp [h7]⟩, ⟨hp, hh⟩, fun h m => ?_, fun _ h m k n a b => ?_⟩
  · rcases hd h m with (h | h) | h <;> simp [h]
  · rcases hs h m k n with (h | h) | h
    · exact absurd h a
    · exact absurd h b
    · exact h
theorem acts_of {s : State} {p : Nat} {sw : Bool} {ports : List Nat} {hs : List (Nat × Slotted)} (w : dataFiring s p sw ports hs = true) : Acts s 0 p :=
  (data_firing w).1
theorem head_is {s : State} {p : Nat} {x : Slotted}
    (w : decide ((s.cur = .elem 0 p ∧ s.pageLive 0 = true ∧ (s.elem 0 p).xwait = none ∧ (s.elem 0 p).outQ = [] ∧ (s.elem 0 p).got = none
      ∧ (s.elem 0 p).due = false ∧ (s.elem 0 p).settle = []) ∧ s.headAt 0 p 0 = some x) = true) : HeadIs s 0 p x := by
  have h := of_decide_eq_true w
  exact ⟨⟨h.1.1, h.1.2.1, h.1.2.2.1, h.1.2.2.2.1, h.1.2.2.2.2.1, h.1.2.2.2.2.2.1, by simp [h.1.2.2.2.2.2.2]⟩, h.2⟩

/-- An element that fires at once, with room, and with the consumer's port a full; one with CMT whose settle buffer has room, and is full. -/
theorem witness_outputs :
    let s := firing (elemOf 1 0 0 []) [val 1] [val 2] []
    let blocked := s.modElem 0 6 fun e => { e with pa := portOf (List.replicate 8 (val 0)) }
    let u (n : Nat) := settling (elemOf 1 0 0 [(11, 4)]) (List.replicate n { eff := .nothing })
    (s.elem 0 5).cmt = false ∧ OutRoom s 0 5 (some (val 3)) none ∧ ¬ OutRoom blocked 0 5 (some (val 3)) none ∧ ((u 31).elem 0 5).cmt = true
      ∧ ((u 31).elem 0 5).settle.length < 32 ∧ 32 ≤ ((u 32).elem 0 5).settle.length ∧ ((u 31).elem 0 5).lastSealed = 0 ∧ (2 : BitVec 24) ≠ 0
      ∧ (((u 31).modElem 0 5 fun e => { e with lastSealed := 2 }).elem 0 5).lastSealed = 2 := by unfold OutRoom; decide +kernel
theorem witness_ports :
    ((firing (elemOf 1 0 0 []) [] [] []).elem 0 5).ranked 0 = false ∧ (portOf [val 1, val 2]).q = [slot0 (val 1), { tok := val 2, ord := 1 }]
      ∧ (portOf [val 1]).res = none ∧ (0 < 14 ∧ 14 < 15) ∧ ({ res := some (slot0 (val 1), some 1) } : Port).res = some (slot0 (val 1), some 1)
      ∧ ({ res := some (slot0 (val 1), none) } : Port).res = some (slot0 (val 1), none) ∧ ({ tok := eosTok : Slotted }).tok.kind = .eos
      ∧ ((firing (elemOf 1 0 0 []) [] [] []).elem 0 5).inStep = false ∧ ((portOf [val 1, eosTok]).q.any fun y => y.tok.kind == .eos) = true
      ∧ ((portOf [val 1]).q.all fun y => y.tok.kind != .eos) = true := by decide +kernel
theorem two_heads {s : State} {a b : Token}
    (w : decide ((s.cur = .elem 0 5 ∧ s.pageLive 0 = true ∧ (s.elem 0 5).xwait = none ∧ (s.elem 0 5).outQ = [] ∧ (s.elem 0 5).got = none
      ∧ (s.elem 0 5).due = false ∧ (s.elem 0 5).settle = []) ∧ s.headAt 0 5 0 = some (slot0 a) ∧ s.headAt 0 5 1 = some (slot0 b)) = true) :
    Acts s 0 5 ∧ Heads s 0 5 false [0, 1] [(0, slot0 a), (1, slot0 b)] := by
  have h := of_decide_eq_true w
  refine ⟨⟨h.1.1, h.1.2.1, h.1.2.2.1, h.1.2.2.2.1, h.1.2.2.2.2.1, h.1.2.2.2.2.2.1, by simp [h.1.2.2.2.2.2.2]⟩, rfl, ?_⟩
  simpa [physPort] using h.2
/-- Control tokens at IADD: equal stops, a stop beside data, eos with and without an armed element; heads of two sets; poison with and without CMT. -/
theorem witness_common_rule :
    let e (a : AMap Nat) := elemOf 1 0 0 a
    let ok (a b : Token) (s : State) := Acts s 0 5 ∧ Heads s 0 5 false [0, 1] [(0, slot0 a), (1, slot0 b)]
    let poison : Token := { kind := .poison, pay := 3 }
    commonRow (e []) (.iadd ⟨0, 0, 0, 0⟩) = some (⟨0, 0, 0, 0⟩, [0, 1])
      ∧ ok (stopTok 2) (stopTok 2) (firing (e []) [stopTok 2] [stopTok 2] []) ∧ ok (stopTok 2) (val 1) (firing (e []) [stopTok 2] [val 1] [])
      ∧ ok eosTok eosTok (firing (e []) [eosTok] [eosTok] []) ∧ ok eosTok eosTok (firing { e [] with armed := true } [eosTok] [eosTok] [])
      ∧ ok (inSet 1 (val 1)) (inSet 2 (val 1)) (firing (e [(11, 2)]) [inSet 1 (val 1)] [inSet 2 (val 1)] []) ∧ (e [(11, 2)]).pol = 2
      ∧ ok (val 1) poison (firing (e []) [val 1] [poison] []) ∧ ok (val 1) poison (firing (e [(11, 4)]) [val 1] [poison] []) ∧ (e [(11, 4)]).cmt = true
      ∧ ((firing (e []) [] [] []).elem 0 5).isReg 0 = false ∧ OutRoom (firing { e [] with armed := true } [eosTok] [eosTok] []) 0 5 (some eosTok) (some eosTok)
      ∧ runs (sendOut 0 5 0 (some (stopTok 2)) (some (stopTok 2))) (firing (e []) [stopTok 2] [stopTok 2] []) = true :=
  ⟨by decide +kernel, two_heads (by decide +kernel), two_heads (by decide +kernel), two_heads (by decide +kernel), two_heads (by decide +kernel),
    two_heads (by decide +kernel), by decide +kernel, two_heads (by decide +kernel), two_heads (by decide +kernel), by decide +kernel, by decide +kernel,
    by unfold OutRoom; decide +kernel, by decide +kernel⟩
theorem witness_headers :
    (elemOf 1 0 0 [(11, 0)]).pol = 0 ∧ (elemOf 1 0 0 [(11, 1)]).pol = 1 ∧ (elemOf 1 0 0 [(11, 2)]).pol = 2 ∧ (elemOf 1 0 0 [(11, 3)]).pol = 3
      ∧ (elemOf 1 0 0 [(12, 0)]).rsrc = 0 ∧ (elemOf 1 0 0 [(12, 1)]).rsrc = 1 ∧ (elemOf 1 0 0 [(12, 2)]).rsrc = 2 ∧ (elemOf 1 0 0 [(12, 3)]).rsrc = 3
      ∧ ([(0, val 1), (1, inSet 3 (val 2))].find? fun h => h.2.set != 0) = some (1, inSet 3 (val 2)) := by decide +kernel
/-- Two and three data heads, in their places and exchanged by SW; integer and float rows of every type. -/
def two (sw : Nat) : State := firing (elemOf 1 sw 0 []) [val 1] [val 2] [val 3]
def heads2 : List (Nat × Slotted) := [(0, slot0 (val 1)), (1, slot0 (val 2))]
theorem witness_data_firing :
    DataFiring (two 0) 0 5 false [0, 1] heads2 ∧ DataFiring (two 0) 0 5 true [0, 1] [(0, slot0 (val 2)), (1, slot0 (val 1))]
      ∧ DataFiring (two 0) 0 5 false [0, 1, 2] (heads2 ++ [(2, slot0 (val 3))]) ∧ DataFiring (two 0) 0 5 false [0] [(0, slot0 (val 1))]
      ∧ ∃ t, sendOut 0 5 0 (some (val 9)) none (two 0) = .ok ((), t) := by
  refine ⟨data_firing (by decide +kernel), data_firing (by decide +kernel), data_firing (by decide +kernel), data_firing (by decide +kernel), ?_⟩
  obtain ⟨_, t, h⟩ := runs_ok (m := sendOut 0 5 0 (some (val 9)) none) (s := two 0) (by decide +kernel)
  exact ⟨t, h⟩
theorem witness_integer_and_float_rows :
    (∃ r, intRow (.isub ⟨6, 0, 1, 1⟩) = some r ∧ IntTy r.m.ty ∧ r.ports = [0, 1]) ∧ (∃ r, fltRow 1 (.ffmaElement ⟨5, 0, 0, 0⟩) = some r ∧ r.m.ty = 5 ∧ r.ports = [0, 1, 2])
      ∧ ∃ r, fltRow 0 (.fexp ⟨4, 1, 0, 0⟩) = some r ∧ r.m.ty = 4 :=
  ⟨⟨_, rfl, .inr (.inr (.inr (.inr rfl))), rfl⟩, ⟨_, rfl, rfl, rfl⟩, ⟨_, rfl, rfl⟩⟩
/-- CMPF of vector pairs in two sets, and of scalar pairs. -/
theorem witness_pairs :
    let wide (n : Nat) (k : Token) : Token := { inSet n k with width := 2 }
    let s := firing (elemOf 0x13 0 0 [(11, 1), (14, 0)]) [wide 1 (val 1)] [wide 2 (val 2)] []
    (Acts s 0 5 ∧ Heads s 0 5 false [0, 1] [(0, slot0 (wide 1 (val 1))), (1, slot0 (wide 2 (val 2)))]) ∧ (s.elem 0 5).lf ≠ 3 ∧ (s.elem 0 5).cmt = false
      ∧ (s.elem 0 5).pol ≠ 2 ∧ ((inSet 2 (val 2)).set ≠ 0 ∧ (inSet 2 (val 2)).set ≠ (inSet 1 (val 1)).set) ∧ DataFiring (two 0) 0 5 false [0, 1] heads2
      ∧ ((two 0).elem 0 5).lf = 3 :=
  ⟨two_heads (by decide +kernel), by decide +kernel, by decide +kernel, by decide +kernel, by decide +kernel, data_firing (by decide +kernel), by decide +kernel⟩
/-- The same under LF 0, the widest lanes; SEL under LF 3. -/
theorem witness_lane_moves :
    let s := firing (elemOf 0x31 0 0 [(14, 8)]) [{ val 1 with width := 2 }] [{ val 2 with width := 2 }] [val 0]
    let hs : List (Nat × Slotted) := [(0, slot0 { val 1 with width := 2 }), (1, slot0 { val 2 with width := 2 })]
    (s.elem 0 5).lf ≠ 3 ∧ DataFiring s 0 5 false [0, 1] hs ∧ DataFiring s 0 5 false [0, 1, 2] (hs ++ [(2, slot0 (val 0))])
      ∧ (∃ r, moveRow (s.elem 0 5) (.shuf ⟨0, 0, 0, 0⟩) = some r ∧ r.ports = [0, 1]) ∧ (∃ r, moveRow (s.elem 0 5) (.selElement ⟨0, 0, 0, 0⟩) = some r ∧ r.ports = [0, 1, 2])
      ∧ DataFiring s 0 5 false [0] [(0, slot0 { val 1 with width := 2 })] :=
  ⟨by decide +kernel, data_firing (by decide +kernel), data_firing (by decide +kernel), ⟨_, rfl, rfl⟩, ⟨_, rfl, rfl⟩, data_firing (by decide +kernel)⟩
theorem witness_folds_and_tournaments :
    let s := firing (elemOf 0x33 0 0 [(14, 8)]) [stopTok 0] [] []
    (two 0 |>.elem 0 5).lf = 3 ∧ (s.elem 0 5).isReg 0 = false ∧ (s.elem 0 5).cmt = false ∧ s.headAt 0 5 0 = some (slot0 (stopTok 0))
      ∧ runs (sendOut 0 5 0 (some (stopTok 0)) (some (stopTok 0))) s = true ∧ beats 4 0 none 0x3F800000 0x3F000000 = true ∧ beats 4 0 none 0x3F000000 0x3F800000 = false
      ∧ Acts s 0 5 := by unfold Acts; decide +kernel

/-- Parked effects: one that is undecided is no witness; a quenched one, and a pair of tokens waiting to leave. -/
theorem witness_parked_effects :
    let q := settling (elemOf 1 0 0 [(11, 4)]) [{ set := 2, ans := some true, eff := .nothing }]
    let o := (firing (elemOf 1 0 0 []) [] [] []).modElem 0 5 fun e => { e with outQ := [(some (val 1), none)] }
    (q.cur = .elem 0 5 ∧ q.pageLive 0 = true ∧ ((q.elem 0 5).settle.headD { eff := .nothing }).decided = true ∧ ((q.elem 0 5).settle.headD { eff := .nothing }).quenched = true)
      ∧ ((o.elem 0 5).outQ = [(some (val 1), none)] ∧ o.canEmit 0 5 0 false = true ∧ (o.elem 0 5).op ≠ 0xA6) ∧ (0x01 : Nat) ∉ ownEffects
      ∧ Performs (settling (elemOf 1 0 0 [(11, 4)]) [{ eff := .emit (some (val 1)) none }]) 0 5 (.emit (some (val 1)) none) []
      ∧ OutRoom (settling (elemOf 1 0 0 [(11, 4)]) [{ eff := .emit (some (val 1)) none }]) 0 5 (some (val 1)) none
      ∧ (encodeElem (.iadd ⟨0, 0, 0, 0⟩)).isSome = true :=
  ⟨by decide +kernel, by decide +kernel, by decide +kernel, performs (x := { eff := .emit (some (val 1)) none }) (by decide +kernel), by unfold OutRoom; decide +kernel,
    by decide +kernel⟩
/-- A source before its first value, at its last, and past it; AFF within a run; DELAY filled, of length one and none. -/
theorem witness_sources_runs_and_delays :
    let cnt (q : Nat) (e : Bool) := firing { elemOf 0x40 0 1 [(4, 10), (5, 3), (6, 2), (11, 3)] with q0 := word q, ending := e } [] [] []
    let aff (q : Nat) (l : Bool) := firing { elemOf 0x41 0 1 [(5, 3), (6, 2)] with q0 := word q, last := l } [val 10] [] []
    let dly (l : List Token) := firing { elemOf 0x42 0 0 [] with line := l, filled := true } [val 10] [] []
    (Acts (cnt 0 false) 0 5 ∧ (cnt 0 false).sourcesRun 0 = true ∧ ((cnt 0 false).elem 0 5).fin = 0) ∧ ((cnt 1 false).elem 0 5).q0.toInt < max 0 (kInt ((cnt 1 false).elem 0 5) 2)
      ∧ max 0 (kInt ((cnt 2 false).elem 0 5) 2) ≤ ((cnt 2 false).elem 0 5).q0.toInt ∧ ((cnt 0 true).elem 0 5).ending = true
      ∧ bitAt ((cnt 0 false).elem 0 5).mode 0 = true ∧ ((cnt 2 false).elem 0 5).armed = false ∧ IntTy (0 : BitVec 3)
      ∧ (Acts (aff 0 false) 0 5 ∧ (aff 0 false).headAt 0 5 0 = some (slot0 (val 10)) ∧ ((aff 0 false).elem 0 5).last = false)
      ∧ (Acts (aff 2 true) 0 5 ∧ ((aff 2 true).elem 0 5).last = true)
      ∧ (Acts (dly [val 8]) 0 5 ∧ (dly [val 8]).headAt 0 5 0 = some (slot0 (val 10)) ∧ ((dly [val 8]).elem 0 5).line = [val 8] ∧ ((dly []).elem 0 5).line = []) := by
  unfold Acts IntTy; decide +kernel
theorem witness_aff_ends :
    let aff (k : Token) (l : AMap Nat) := firing (elemOf 0x41 0 1 l) [k] [] []
    HeadIs (aff (stopTok 6) []) 0 5 (slot0 (stopTok 6)) ∧ HeadIs (aff (stopTok 0) []) 0 5 (slot0 (stopTok 0)) ∧ HeadIs (firing (elemOf 0x41 0 0 []) [val 1] [] []) 0 5 (slot0 (val 1))
      ∧ (max 0 (kInt ((firing (elemOf 0x41 0 0 []) [val 1] [] []).elem 0 5) 2) - ((firing (elemOf 0x41 0 0 []) [val 1] [] []).elem 0 5).q0.toInt).toNat = 0
      ∧ HeadIs (firing (elemOf 0x44 0 0 []) [val 1] [] []) 0 5 (slot0 (val 1)) :=
  ⟨head_is (by decide +kernel), head_is (by decide +kernel), head_is (by decide +kernel), by decide +kernel, head_is (by decide +kernel)⟩
/-- ACC with each EMIT, and REDUCE with KLVL 1: a fold, a poison head, a stop below, at and above KLVL. -/
theorem witness_accumulators :
    let acc (mode : Nat) := elemOf 0x43 0 mode [(11, 3)]
    let red := elemOf 0x86 0 1 [(11, 3)]
    HeadIs (firing (acc 0) [val 1] [] []) 0 5 (slot0 (val 1)) ∧ HeadIs (firing (acc 0) [{ kind := .poison }] [] []) 0 5 (slot0 { kind := .poison })
      ∧ Performs (settling (acc 1) [{ eff := .fold (val 1) }]) 0 5 (.fold (val 1)) [] ∧ (acc 1).mode % 4 ≠ 0 ∧ (acc 0).mode % 4 = 0
      ∧ Performs (settling (acc 1) [{ eff := .ctl (slot0 (stopTok 0)) }]) 0 5 (.ctl (slot0 (stopTok 0))) []
      ∧ Performs (settling red [{ eff := .ctl (slot0 (stopTok 0)) }]) 0 5 (.ctl (slot0 (stopTok 0))) [] ∧ (stopTok 0).lvl < red.mode % 8 ∧ red.mode % 8 ≤ (stopTok 1).lvl
      ∧ OutRoom (settling (acc 1) [{ eff := .ctl (slot0 (stopTok 0)) }]) 0 5 (some (val 0)) none :=
  ⟨head_is (by decide +kernel), head_is (by decide +kernel), performs0 _ _ ⟨⟨rfl, rfl⟩, rfl⟩, by decide +kernel, by decide +kernel, performs0 _ _ ⟨⟨rfl, rfl⟩, rfl⟩,
    performs0 _ _ ⟨⟨rfl, rfl⟩, rfl⟩, by decide +kernel, by decide +kernel, by unfold OutRoom; decide +kernel⟩
/-- An effect can be parked: of set 0, of the set that was sealed last, and of another. -/
theorem witness_parks : ∃ s t eff, Parks s 0 5 2 eff t :=
  ⟨firing (elemOf 0x43 0 0 [(11, 3)]) [val 1] [] [], _, .fold (val 1), by decide +kernel, fun h => absurd h (by decide), fun _ h => absurd h (by decide +kernel), fun _ _ => rfl⟩
/-- STEER and FILTER with b's lane nonzero and zero; GATE with credit, without, and with a register at b; JOIN's and FORK's heads as before. -/
theorem witness_gates :
    let g (q : Nat) := firing { elemOf 0x54 0 0 [] with q0 := word q } [val 10] [val 2] []
    DataFiring (firing (elemOf 0x52 0 0 []) [val 10] [val 1] []) 0 5 false [0, 1] [(0, slot0 (val 10)), (1, slot0 (val 1))]
      ∧ DataFiring (firing (elemOf 0x52 0 0 []) [val 10] [val 0] []) 0 5 false [0, 1] [(0, slot0 (val 10)), (1, slot0 (val 0))]
      ∧ (Acts (g 1) 0 5 ∧ 0 < ((g 1).elem 0 5).q0.toInt ∧ (g 1).headAt 0 5 0 = some (slot0 (val 10)) ∧ OutRoom (g 1) 0 5 (some (val 10)) none)
      ∧ (Acts (g 0) 0 5 ∧ ((g 0).elem 0 5).q0.toInt ≤ 0 ∧ (g 0).headAt 0 5 1 = some (slot0 (val 2)) ∧ ((g 0).elem 0 5).isReg 1 = false ∧ ((g 0).elem 0 5).armed = false)
      ∧ (let r := firing (elemOf 0x54 0 0 [(2, 7 * 32), (4, 3)]) [val 10] [] []
         (r.elem 0 5).isReg 1 = true ∧ ((r.headAt 0 5 1).any fun y => y.tok.isData) = true ∧ (r.elem 0 5).q0 ≠ BitVec.ofInt 64 (min (2 ^ 32 - 1) (0 + 3))) :=
  ⟨data_firing (by decide +kernel), data_firing (by decide +kernel), by unfold Acts OutRoom; decide +kernel, by unfold Acts; decide +kernel, by decide +kernel⟩
/-- OSNEW before its declaration and after its answer; an item that has a set; OSQUENCH in either launch mode; OSCOMMIT. -/
theorem witness_sets :
    let os (b : Bool) (k : Token) := firing { elemOf 0x55 0 0 [(11, 3)] with begun := b } [k] [] []
    let sq (m : Nat) : State := { settling (elemOf 0x56 0 0 []) [{ set := 2, ans := some false, eff := .pass (slot0 (inSet 2 (val 1))) }] with
      launches := [(0, { dies := [0], pkt := [word (m * 2 ^ 32)] })] }
    (HeadIs (os false (val 1)) 0 5 (slot0 (val 1)) ∧ ((os false (val 1)).own 0).share < 4 ∧ (os false (val 1)).declStall 0 0 0 = false
        ∧ ((os false (val 1)).elem 0 5).declReq = none)
      ∧ (HeadIs (os true (val 1)) 0 5 (slot0 (val 1)) ∧ OutRoom (os true (val 1)) 0 5 (some (val 1)) none) ∧ HeadIs (os false (inSet 2 (val 1))) 0 5 (slot0 (inSet 2 (val 1)))
      ∧ HeadIs (firing (elemOf 0x56 0 0 []) [inSet 2 (val 1)] [] []) 0 5 (slot0 (inSet 2 (val 1)))
      ∧ (Performs (sq 2) 0 5 (.pass (slot0 (inSet 2 (val 1)))) [] ∧ ((sq 2).launch 0).elastic = true ∧ ((sq 1).launch 0).elastic = false)
      ∧ Performs (sq 1) 0 5 (.pass (slot0 (inSet 2 (val 1)))) [] ∧ Performs (settling (elemOf 0x57 0 1 [(11, 7)]) [{ eff := .emit (some (val 1)) none }]) 0 5 (.emit (some (val 1)) none) [] :=
  ⟨⟨head_is (by decide +kernel), by decide +kernel, by decide +kernel, by decide +kernel⟩, ⟨head_is (by decide +kernel), by unfold OutRoom; decide +kernel⟩, head_is (by decide +kernel),
    head_is (by decide +kernel), ⟨performs (x := { set := 2, ans := some false, eff := .pass (slot0 (inSet 2 (val 1))) }) (by decide +kernel), by decide +kernel, by decide +kernel⟩,
    performs (x := { set := 2, ans := some false, eff := .pass (slot0 (inSet 2 (val 1))) }) (by decide +kernel), performs0 _ _ ⟨⟨rfl, rfl⟩, rfl⟩⟩

/-! Witnesses: fibre and stream elements, and the ports of engines. -/

theorem fib_heads {s : State} {a b : Token}
    (w : decide ((s.cur = .elem 0 41 ∧ s.pageLive 0 = true ∧ (s.elem 0 41).xwait = none ∧ (s.elem 0 41).outQ = [] ∧ (s.elem 0 41).got = none
      ∧ (s.elem 0 41).due = false ∧ (s.elem 0 41).settle = []) ∧ (s.elem 0 41).rooted = false ∧ ((s.elem 0 41).begun = false → (s.elem 0 41).prog = 0)
      ∧ (s.headAt 0 41 0 = some (slot0 a) ∧ (s.elem 0 41).isReg 0 = false ∧ (s.elem 0 41).headFault 0 a = none)
      ∧ (s.headAt 0 41 1 = some (slot0 b) ∧ (s.elem 0 41).isReg 1 = false ∧ (s.elem 0 41).headFault 1 b = none)) = true) :
    FibActs s 0 41 ∧ FibHead s 0 41 0 (slot0 a) ∧ FibHead s 0 41 1 (slot0 b) := by
  have h := of_decide_eq_true w
  exact ⟨⟨⟨h.1.1, h.1.2.1, h.1.2.2.1, h.1.2.2.2.1, h.1.2.2.2.2.1, h.1.2.2.2.2.2.1, by simp [h.1.2.2.2.2.2.2]⟩, h.2.1, h.2.2.1⟩, h.2.2.2.1, h.2.2.2.2⟩
/-- The fibre element of an opcode and MODE with declared depths 2 of both ports, and these heads. -/
def fib (op mode : Nat) (more : AMap Nat) (a b : Token) : State := fibring (elemOf op 0 mode ((14, 16 * mode) :: (23, 0x12) :: more)) [a] [b]
/-- A port of depth 2 that has just had the stop that D must follow. -/
def closed (s : State) : State := s.modElem 0 41 fun e => { e with pa := { e.pa with prev := .stop 1 }, pb := { e.pb with prev := .stop 1 } }
/-- The pairs of control heads and data heads of the statements. -/
theorem witness_fibre_heads :
    let at2 (op mode : Nat) (a b : Token) := FibActs (fib op mode [] a b) 0 41 ∧ FibHead (fib op mode [] a b) 0 41 0 (slot0 a) ∧ FibHead (fib op mode [] a b) 0 41 1 (slot0 b)
    at2 0x83 0 (pair 1 10) (pair 1 20) ∧ at2 0x83 0 (pair 1 10) (stopTok 0) ∧ at2 0x83 0 (stopTok 0) (pair 1 10) ∧ at2 0x83 0 (stopTok 1) (stopTok 1)
      ∧ at2 0x84 0 (stopTok 1) (stopTok 0) ∧ at2 0x84 0 (pair 2 10) (pair 1 20)
      ∧ at2 0x8A 0 { val 5 with width := 1 } { val 3 with width := 1 } ∧ at2 0x83 2 { val 5 with width := 1 } { val 3 with width := 1 } :=
  ⟨fib_heads (by decide +kernel), fib_heads (by decide +kernel), fib_heads (by decide +kernel), fib_heads (by decide +kernel), fib_heads (by decide +kernel),
    fib_heads (by decide +kernel), fib_heads (by decide +kernel), fib_heads (by decide +kernel)⟩
theorem witness_streams_end :
    (FibActs (closed (fib 0x80 0 [] doneTok (ref 1))) 0 41 ∧ FibHead (closed (fib 0x80 0 [] doneTok (ref 1))) 0 41 0 (slot0 doneTok)
        ∧ FibHead (closed (fib 0x80 0 [] doneTok (ref 1))) 0 41 1 (slot0 (ref 1)))
      ∧ (FibActs (closed (fib 0x85 0 [] doneTok doneTok)) 0 41 ∧ FibHead (closed (fib 0x85 0 [] doneTok doneTok)) 0 41 0 (slot0 doneTok)
        ∧ FibHead (closed (fib 0x85 0 [] doneTok doneTok)) 0 41 1 (slot0 doneTok)) :=
  ⟨fib_heads (by decide +kernel), fib_heads (by decide +kernel)⟩
theorem witness_stream_breaks :
    (stopTok 2).lvl = 2 ∧ (fib 0x83 0 [] (stopTok 2) (val 1) |>.elem 0 41).headFault 0 (stopTok 2) = some 0x30
      ∧ (fib 0x83 0 [] (stopTok 1) (val 1) |>.elem 0 41).headFault 0 (stopTok 1) = none ∧ fibRow (.isect 0) = true ∧ scanRow (.scanc 0) = true
      ∧ ((fib 0x81 0 [] (ref 1) (ref 1)).elem 0 41).op = 0x81 ∧ ((fib 0x84 0 [] (pair 1 1) (pair 1 1)).elem 0 41).op = 0x84
      ∧ ((fib 0x84 0 [] (pair 1 1) (pair 1 1)).elem 0 41).begun = false := by decide +kernel
/-- Arrays under handle 5 for SCANC and SCANB: an empty fibre, one of two children, and one whose end lies before its beginning. -/
def scanning (op : Nat) (begun : Bool) (v : Nat) : State :=
  ((fibring { elemOf op 0 0 [(14, 0), (15, 5), (16, 0), (17, 8), (18, 2)] with begun := begun, hi := if begun then 2 else 0 } [ref v] []).modCore 0 fun k =>
    { k with sp := [(64, 1), (68, 1), (72, 3), (76, 2), (80, 9)] })
theorem witness_scans :
    let s := scanning 0x81 false
    let b := scanning 0x81 true 1
    let first := resultOf (arrayRead 0 41 16 4 0) (s 0)
    (isDat (ref 0) = true ∧ (first.1 = (1, none)) ∧ (resultOf (arrayRead 0 41 16 4 1) first.2).1 = (1, none) ∧ runs (arrayRead 0 41 16 4 1) first.2 = true)
      ∧ ((resultOf (arrayRead 0 41 16 4 2) (s 2)).1 = (3, none) ∧ (resultOf (arrayRead 0 41 16 4 3) (s 2)).1 = (2, none))
      ∧ ((b.elem 0 41).begun = true ∧ (b.elem 0 41).last = false ∧ (b.elem 0 41).lo + (b.elem 0 41).prog < (b.elem 0 41).hi
        ∧ runs (arrayRead 0 41 17 4 0) b = true ∧ ((resultOf (arrayRead 0 41 17 4 0) b).2.elem 0 41).begun = true)
      ∧ ((scanning 0x82 false 0).elem 0 41).prog < ((scanning 0x82 false 0).elem 0 41).wide 18
      ∧ (resultOf (arrayRead 0 41 16 8 0) (scanning 0x82 false 0)).1.2 = none ∧ 2 * 3 + 3 ≤ 0xFFFFFFFF
      ∧ (low32 (ref 0xFFFFFFFF) = marker ∧ ((scanning 0x81 false 0xFFFFFFFF).elem 0 41).last = false ∧ 0 < ((scanning 0x82 false 0xFFFFFFFF).elem 0 41).wide 18) := by decide +kernel
theorem witness_walks :
    let r (last seen : Bool) (pend : Option Token) (s : State) := s.modElem 0 41 fun e => { e with last := last, seenF := seen, pend := pend }
    FibActs (r true false none (fib 0x85 0 [] (stopTok 0) (stopTok 1))) 0 41 ∧ ((r true false none (fib 0x85 0 [] (stopTok 0) (stopTok 1))).elem 0 41).last = true
      ∧ ((r false true (some s0) (fib 0x88 0 [] (val 1) (val 1))).elem 0 41).seenF = true ∧ ((r false false (some s0) (fib 0x88 0 [] (val 1) (val 1))).elem 0 41).pend = some s0
      ∧ ((fib 0x87 3 [(18, 4)] (pair 3 0) (ref 1)).elem 0 41).mode = 3 ∧ low32 (pair 3 0) < ((fib 0x87 3 [(18, 4)] (pair 3 0) (ref 1)).elem 0 41).wide 18
      ∧ ((fib 0x87 2 [(18, 4)] (pair 4 0) (ref 1)).elem 0 41).wide 18 ≤ low32 (pair 4 0) ∧ (stopTok 0).lvl + 1 = (stopTok 1).lvl ∧ (stopTok 1).lvl + 1 ≠ (stopTok 1).lvl :=
  ⟨(fib_heads (a := stopTok 0) (b := stopTok 1) (by decide +kernel)).1, by decide +kernel, by decide +kernel, by decide +kernel, by decide +kernel, by decide +kernel,
    by decide +kernel, by decide +kernel, by decide +kernel⟩
/-- FWRITE under handle 5 with off at 0, coordinates at 64, counts at 128; and REDUCE. -/
def fwriting (mode : Nat) (q : List Parked) (a : Token) : State :=
  fibring { elemOf 0x8C 0 0 [(14, 16 * mode), (15, 5), (16, 0), (17, 64), (19, 128), (11, 7), (23, 2)] with seenF := true, lo := 1, settle := q } [a] [a]
theorem witness_fibre_commit_points :
    let crd : Token := { kind := .crd, pay := 7 }
    let s := fwriting 0 [] crd
    let p (eff : Eff) := fwriting 0 [{ eff := eff }] crd
    (FibActs s 0 41 ∧ FibHead s 0 41 0 (slot0 crd)) ∧ (isDat crd = true ∧ (s.elem 0 41).seenF = true ∧ (s.elem 0 41).lo ≠ 0)
      ∧ (∃ t, Parks s 0 41 0 (.fwrite (slot0 crd)) t)
      ∧ Performs (p (.fwrite (slot0 crd))) 0 41 (.fwrite (slot0 crd)) [] ∧ Performs (p (.ctl (slot0 (stopTok 0)))) 0 41 (.ctl (slot0 (stopTok 0))) []
      ∧ runs (arrayWrite 0 41 17 4 0 true 7) (p (.fwrite (slot0 crd))) = true ∧ runs (arrayWrite 0 41 16 4 1 true 0) (p (.ctl (slot0 (stopTok 0)))) = true
      ∧ runs (arrayWrite 0 41 19 4 1 true 0) (reached (arrayWrite 0 41 19 4 0 true 0) (p (.ctl (slot0 doneTok)))) = true
      ∧ (FibActs (fib 0x86 0 [(11, 4)] (val 1) (val 1)) 0 41 ∧ FibHead (fib 0x86 0 [(11, 4)] (val 1) (val 1)) 0 41 0 (slot0 (val 1))) :=
  ⟨⟨⟨by unfold Acts; decide +kernel, by decide +kernel, by decide +kernel⟩, by decide +kernel, by decide +kernel, by decide +kernel⟩, by decide +kernel,
    ⟨_, by decide +kernel, fun _ => rfl, fun h => absurd rfl h, fun h => absurd rfl h⟩, performs (x := { eff := .fwrite (slot0 { kind := .crd, pay := 7 }) }) (by decide +kernel),
    performs (x := { eff := .ctl (slot0 (stopTok 0)) }) (by decide +kernel), by decide +kernel, by decide +kernel, by decide +kernel,
    ⟨⟨by unfold Acts; decide +kernel, by decide +kernel, by decide +kernel⟩, by decide +kernel, by decide +kernel, by decide +kernel⟩⟩

/-- LDA over two rows of two elements under handle 5: at the start, after the first row, at the end, and after D; LDI of an index, the marker, a pair. -/
def walking (prog j fin : Nat) : State :=
  firing { elemOf 0xA0 0x300 1 [(15, 5), (16, 0), (17, 1), (18, 2), (19, 2), (20, 2), (11, 0)] with prog := prog, j := j, fin := fin } [] [] []
theorem witness_lda :
    let s := walking 0 0 0
    let u := reached (entryOf 0 5 true) s
    (Acts s 0 5 ∧ s.sourcesRun 0 = true ∧ (s.elem 0 5).fin = 0 ∧ (s.elem 0 5).ending = false) ∧ ((s.elem 0 5).op = 0xA0 ∧ (s.elem 0 5).j ≠ 1 ∧ 0 < stepCount (s.elem 0 5))
      ∧ s.canEmit 0 5 0 false = true ∧ (resultOf (entryOf 0 5 true) s).1 = e5 ∧ runs (entryOf 0 5 true) s = true ∧ Plain (u.elem 0 5) e5
      ∧ (u.elem 0 5).due = false ∧ (u.elem 0 5).got = none ∧ (resultOf (loadLanes 0 5 e5 0 1) u).1 = ([0x11], 0, none) ∧ ((resultOf (loadLanes 0 5 e5 0 1) u).2.elem 0 5).op = 0xA0
      ∧ ((walking 2 1 0).elem 0 5).walkStop 1 = some 0 ∧ stepCount ((walking 4 0 0).elem 0 5) ≤ 4 ∧ bitAt ((walking 4 0 0).elem 0 5).mode 0 = true
      ∧ ((walking 4 0 1).elem 0 5).armed = false := by unfold Acts Plain; decide +kernel
theorem witness_ldi :
    let s (k : Token) := firing (elemOf 0xA1 0x300 0 [(15, 5), (17, 1)]) [k] [] []
    HeadIs (s (ref 1)) 0 5 (slot0 (ref 1)) ∧ HeadIs (s (ref 0xFFFFFFFF)) 0 5 (slot0 (ref 0xFFFFFFFF)) ∧ HeadIs (s { ref 1 with width := 1 }) 0 5 (slot0 { ref 1 with width := 1 })
      ∧ tokenIndex (ref 1) ≠ marker ∧ tokenIndex (ref 0xFFFFFFFF) = marker ∧ runs (entryOf 0 5 false) (s (ref 1)) = true ∧ ((s (ref 1)).elem 0 5).cmt = false
      ∧ runs (loadLanes 0 5 e5 1 1) (s (ref 1)) = true :=
  ⟨head_is (by decide +kernel), head_is (by decide +kernel), head_is (by decide +kernel), by decide +kernel, by decide +kernel, by decide +kernel, by decide +kernel, by decide +kernel⟩
/-- STA within its traversal and past it, a poison head; STI with an index, the marker and a pair; a parked store and a parked stop. -/
theorem witness_stores_of_elements :
    let sta (prog : Nat) (k : Token) := firing { elemOf 0xA2 0x300 0 [(15, 5), (17, 1), (18, 2), (11, 4)] with prog := prog } [k] [] []
    let sti (k : Token) := firing (elemOf 0xA3 0x300 0 [(15, 5), (17, 1), (11, 4)]) [val 7] [k] []
    let p (op : Nat) (eff : Eff) := settling (elemOf op 0x300 0 [(15, 5), (17, 1), (18, 2), (11, 4)]) [{ eff := eff }]
    let u := reached (entryOf 0 5 true) (sta 0 (val 7))
    HeadIs (sta 0 (val 7)) 0 5 (slot0 (val 7)) ∧ HeadIs (sta 2 (val 7)) 0 5 (slot0 (val 7)) ∧ HeadIs (sta 0 { kind := .poison }) 0 5 (slot0 { kind := .poison })
      ∧ HeadIs (sti (ref 1)) 0 5 (slot0 (val 7))
      ∧ (0 < stepCount ((sta 0 (val 7)).elem 0 5) ∧ stepCount ((sta 2 (val 7)).elem 0 5) ≤ 2 ∧ runs (atHead 0 (slot0 (val 7)) (tokenCheck 0 5 e5 0 1 true)) u = true
        ∧ (sti (ref 1)).headAt 0 5 1 = some (slot0 (ref 1)) ∧ runs (atHead 1 (slot0 (ref 1)) (tokenCheck 0 5 e5 1 1 true)) (sti (ref 1)) = true)
      ∧ Performs (p 0xA3 (.store (slot0 (val 7)) 1 e5)) 0 5 (.store (slot0 (val 7)) 1 e5) [] ∧ Performs (p 0xA2 (.store (slot0 (val 7)) 1 e5)) 0 5 (.store (slot0 (val 7)) 1 e5) []
      ∧ runs (storeLanesAt 0 ((p 0xA3 (.store (slot0 (val 7)) 1 e5)).elem 0 5) e5 1 (val 7)) (p 0xA3 (.store (slot0 (val 7)) 1 e5)) = true
      ∧ ((p 0xA2 (.ctl (slot0 (stopTok 0)))).elem 0 5).few = false ∧ isControl (stopTok 0) ∧ Performs (p 0xA2 (.ctl (slot0 (stopTok 0)))) 0 5 (.ctl (slot0 (stopTok 0))) [] :=
  ⟨head_is (by decide +kernel), head_is (by decide +kernel), head_is (by decide +kernel), head_is (by decide +kernel), by decide +kernel, performs0 _ _ ⟨⟨rfl, rfl⟩, rfl⟩,
    performs0 _ _ ⟨⟨rfl, rfl⟩, rfl⟩, by decide +kernel, by decide +kernel, .inl rfl, performs0 _ _ ⟨⟨rfl, rfl⟩, rfl⟩⟩
/-- A store to handle 6 goes to memory: its page is not written by blocks. -/
theorem witness_store_to_memory :
    let s := settling (elemOf 0xA2 0x300 0 [(15, 6), (17, 1), (18, 2), (11, 4)]) [{ eff := .store (slot0 (val 7)) 1 e6 }]
    hSpace e6 = 1 ∧ (let g := s.elemFmt 0 e6 (s.elem 0 5).ty 1
      blockPage g.1 g.2 = false) ∧ runs (storeLanesAt 0 (s.elem 0 5) e6 1 (val 7)) s = true ∧ Performs s 0 5 (.store (slot0 (val 7)) 1 e6) [] :=
  ⟨by decide +kernel, by decide +kernel, by decide +kernel, performs0 _ _ ⟨⟨rfl, rfl⟩, rfl⟩⟩
theorem witness_atom :
    let hdr : Slotted := { tok := {} }
    let s := firing (elemOf 0xA4 0 0 [(15, 5), (17, 1), (11, 4)]) [val 5] [ref 2] []
    let q := settling (elemOf 0xA4 0 0 [(15, 5), (17, 1), (11, 4)]) [{ eff := .atom 2 5 0 hdr e5 }]
    HeadIs s 0 5 (slot0 (val 5)) ∧ (s.headAt 0 5 1 = some (slot0 (ref 2)) ∧ (s.elem 0 5).sub ≠ 7 ∧ hSpace e5 ≤ 2 ∧ 0 ≤ tokenPlace (s.elem 0 5) (ref 2)
        ∧ hBase e5 % 4 = 0 ∧ runs (locate .elem 0 5 e5 8 4 true) s = true)
      ∧ Performs q 0 5 (.atom 2 5 0 hdr e5) [] ∧ ((q.elem 0 5).mode % 16 = 0 ∧ (q.elem 0 5).sub ≤ 7 ∧ runs (locate .elem 0 5 e5 8 4 true) q = true
        ∧ runs (pageFmt 0 (.sp 0 72) true) q = true ∧ runs (scopeAt true 0 5 8 0 (.sp 0 72)) q = true ∧ (resultOf (homeRead 0 (.sp 0 72) 4 true) q).1 = (0x33, none)
        ∧ runs (homeWrite 0 (.sp 0 72) 4 0x38) q = true) :=
  ⟨head_is (by decide +kernel), by decide +kernel, performs0 _ _ ⟨⟨rfl, rfl⟩, rfl⟩, by decide +kernel⟩
/-- XREQ: a request in a 512-bit token, one with a set high bit, a token of another form; a parked request that passes, with and without ECHO. -/
theorem witness_copy_port :
    let req (n : Nat) : Token := { width := 2, pay := BitVec.ofNat 512 n }
    let s (k : Token) := firing (elemOf 0xA5 0 1 [(11, 4)]) [k] [] []
    let ws : List Word := [word (15 * 2 ^ 16 + 3 * 2 ^ 13), word (5 * 2 ^ 36), word (5 * 2 ^ 36 + 16), 0]
    let q (m : Nat) := settling (elemOf 0xA5 0 m [(11, 4)]) [{ eff := .xreq ws (slot0 (req 1)) }]
    HeadIs (s (req 1)) 0 5 (slot0 (req 1)) ∧ HeadIs (s (req (2 ^ 256))) 0 5 (slot0 (req (2 ^ 256))) ∧ HeadIs (s (val 1)) 0 5 (slot0 (val 1))
      ∧ ((req 1).pay.toNat / 2 ^ 256 = 0 ∧ (req (2 ^ 256)).pay.toNat / 2 ^ 256 ≠ 0) ∧ Performs (q 0) 0 5 (.xreq ws (slot0 (req 1))) []
      ∧ (((q 0).core 0).qRoom (pQ (ws.getD 0 0)) = true ∧ runs (copyOrder false 0 (.elem 0 5)) (q 0) = true
        ∧ runs (checkPacket true 0 (.elem 0 5) (ws.getD 0 0) (ws.getD 1 0) (ws.getD 2 0) (ws.getD 3 0)) (q 0) = true ∧ bitAt ((q 1).elem 0 5).mode 0 = true
        ∧ bitAt ((q 0).elem 0 5).mode 0 = false ∧ bitAt ((q 0).elem 0 5).mode 1 = false) :=
  ⟨head_is (by decide +kernel), head_is (by decide +kernel), head_is (by decide +kernel), by decide +kernel, performs0 _ _ ⟨⟨rfl, rfl⟩, rfl⟩, by decide +kernel⟩
/-- MPORT: MACCZ of tile 2, held, and of tile 3, not held; another token; GREQ: the marker, a poison, a control token; a batch of the marker and of an index. -/
theorem witness_matrix_and_gather_ports :
    let w (t : Nat) : Word := word (0x107 * 2 ^ 54 + t)
    let mp (t : Nat) := (settling (elemOf 0xB5 0 0 [(11, 4)]) [{ eff := .mport (w t) (slot0 { val 1 with width := 1 }) }]).modTile 0 2 fun t => { t with owner := some 0, gen := 1 }
    let gq (k : Token) := firing (elemOf 0xA6 0x300 0 [(15, 5), (17, 1)]) [k] [] []
    let gb (k : Token) := (firing (elemOf 0xA6 0x300 0 [(15, 5), (17, 1)]) [] [] []).modElem 0 5 fun e => { e with batch := [k] }
    HeadIs (firing (elemOf 0xB5 0 0 [(11, 4)]) [{ val 1 with width := 1 }] [] []) 0 5 (slot0 { val 1 with width := 1 })
      ∧ HeadIs (firing (elemOf 0xB5 0 0 [(11, 4)]) [val 1] [] []) 0 5 (slot0 (val 1))
      ∧ (((mp 2).core 0).carryCheck 0 (w 2) = none ∧ ((mp 2).core 0).seqRoom = true ∧ ((mp 3).core 0).carryCheck 0 (w 3) = some 0x20 ∧ ((mp 2).elem 0 5).op = 0xB5)
      ∧ Performs (mp 2) 0 5 (.mport (w 2) (slot0 { val 1 with width := 1 })) []
      ∧ HeadIs (gq (ref 0xFFFFFFFF)) 0 5 (slot0 (ref 0xFFFFFFFF)) ∧ HeadIs (gq { kind := .poison }) 0 5 (slot0 { kind := .poison }) ∧ HeadIs (gq (stopTok 0)) 0 5 (slot0 (stopTok 0))
      ∧ (((gq (stopTok 0)).elem 0 5).batch = [] ∧ ((gq (stopTok 0)).elem 0 5).cmt = false ∧ runs (sendOut 0 5 0 (some (stopTok 0)) (some (stopTok 0))) (gq (stopTok 0)) = true)
      ∧ ((gb (ref 1)).pageLive 0 = true ∧ ((gb (ref 1)).elem 0 5).op = 0xA6 ∧ ((gb (ref 1)).elem 0 5).outQ = [] ∧ ((gb (ref 1)).elem 0 5).batch = [ref 1]
        ∧ runs (entryOf 0 5 false) (gb (ref 1)) = true
        ∧ (((reached (entryOf 0 5 false) (gb (ref 1))).elemFmt 0 e5 ((gb (ref 1)).elem 0 5).ty (tokenPlace ((gb (ref 1)).elem 0 5) (ref 1)).toNat).1 < 3)
        ∧ runs (loadLanes 0 5 e5 1 1) (reached (entryOf 0 5 false) (gb (ref 1))) = true) :=
  ⟨head_is (by decide +kernel), head_is (by decide +kernel), by decide +kernel, performs (x := { eff := .mport (word (0x107 * 2 ^ 54 + 2)) (slot0 { val 1 with width := 1 }) })
    (by decide +kernel), head_is (by decide +kernel), head_is (by decide +kernel), head_is (by decide +kernel), by decide +kernel, by decide +kernel⟩
theorem witness_boundary_element :
    let s (a b : List Token) := firing (elemOf 0xB0 0 0 []) a b []
    HeadIs (s [val 1] []) 0 5 (slot0 (val 1)) ∧ ((s [val 1] []).canEmit 0 5 0 false = true) ∧ ((s [] [val 2]).headAt 0 5 0 = none ∧ (s [] [val 2]).headAt 0 5 1 = some (slot0 (val 2))
      ∧ (s [] [val 2]).canEmit 0 5 1 false = true) := ⟨head_is (by decide +kernel), by decide +kernel, by decide +kernel⟩

/-! Witnesses: configuration, command ports, omission, launches. -/

/-- A page whose HEAD stands at position 63, as its stream has written it. -/
def headed (n : Stream) : State :=
  { (pkg [(63, { b0 := [(0, fv (0xB7 * 2 ^ 11))] })] []).modCore 0 fun k => { k with net := some n } with cur := .net 0 }
/-- A stream of three commands at its second, with and without an open page, and at its last. -/
def midway (page : Option Nat) (pfx : Option (Nat × BitVec 30)) : Stream := { cmds := [0, 0, 0], idx := 1, page := page, pfx := pfx }
theorem streaming (n : Stream) (h : n.ended = false ∧ n.idx + 1 < n.cmds.length) : Streaming (headed n) 0 n := ⟨rfl, rfl, h⟩
theorem witness_commands :
    Streaming (headed (midway none none)) 0 (midway none none) ∧ Streaming (headed (midway (some 0) none)) 0 (midway (some 0) none)
      ∧ (headed (midway none none)).streamPages (midway none none) = 2 ∧ (headed (midway (some 0) none)).streamCore (midway (some 0) none) 0 = some 0
      ∧ fixedPos 55 = false ∧ (headed (midway (some 0) none)).sealErrs (midway (some 0) none) 0 = [] ∧ (1 - 0 - 1) % 2 ^ 19 = (0 : BitVec 19).toNat :=
  ⟨streaming _ (by decide), streaming _ (by decide), by decide +kernel, by decide +kernel, by decide +kernel, by decide +kernel, by decide +kernel⟩
theorem witness_field_command :
    let n := midway (some 0) (some (0, 5))
    Streaming (headed n) 0 n ∧ (headed n).streamCore n 0 = some 0 ∧ n.bank < 2 ∧ n.origin = none ∧ wideField 4 = true ∧ wideField 23 = true ∧ wideField 10 = false
      ∧ ((headed n).elem 0 5).armed = false ∧ opAssigned (0x00800 / 2 ^ 11) = true ∧ opLegalAt (0x00800 / 2 ^ 11) 5 = true ∧ (0x3F : BitVec 19).toNat < 2 ^ 6
      ∧ ¬ (0x40 : BitVec 19).toNat < 2 ^ 6 := ⟨streaming _ (by decide), by decide +kernel⟩
theorem witness_trailing_prefix :
    let n : Stream := { cmds := [0, 0], idx := 1 }
    (headed n).cur = .net 0 ∧ ((headed n).core 0).net = some n ∧ n.idx + 1 = n.cmds.length ∧ n.pfx = none ∧ n.closed = [] := ⟨rfl, rfl, rfl, rfl, rfl⟩
theorem witness_configuration_faults :
    (headed (midway none none)).streamPages (midway none none) ≤ (2 : BitVec 4).toNat ∧ 56 ≤ (56 : BitVec 6).toNat ∧ (59 : BitVec 6).toNat ≤ 59
      ∧ (midway (some 0) (some (0, 5))).pfx = some (0, 5) ∧ (midway (some 0) none).page ≠ none ∧ (midway none none).origin = none := by decide +kernel
/-- CFGW of 2 commands at handle 5 from a firing, one of none, and one that has been answered. -/
theorem witness_cfgw :
    let s := act [(2, refTo 5 64), (3, 2)]
    let d := s.modSlot 0 0 fun x => { x with park := some { kind := .cfgw, done := true, val := 3 } }
    s.given 0 0 .cfgw = none ∧ (reg s 3).toNat ≠ 0 ∧ (reg s 3).toNat ≤ 2 ^ 20 ∧ fld (reg s 2) 0 52 % 4 = 0 ∧ s.netBusy 0 = false ∧ s.spPoisoned 0 128 8 = false
      ∧ sideRef (.trap 0x2A (word (fld (reg s 2) 52 12)) (word (fld (reg s 2) 0 52))) 0 (reg s 2) (4 * 2) [1, 2] false s = .ok (.sp 0 128, s)
      ∧ (reg s 4).toNat = 0 ∧ d.given 0 0 .cfgw = some { kind := .cfgw, done := true, val := 3 } :=
  ⟨by decide +kernel, by decide +kernel, by decide +kernel, by decide +kernel, by decide +kernel, by decide +kernel, yields_ok (by decide +kernel), by decide +kernel, by decide +kernel⟩

/-- The command ports with a command at the highest value of its operand, and with a bit beside it; poison; a port with a notice to take. -/
def commanding (op mode : Nat) (k : Token) : State := { firing (elemOf op 0 mode []) [k] [] [] with entries := [(0, { launch := 0, share := 0, set := 2, s := 1, u := 1 })] }
def cmd (n : Nat) : Token := { width := 1, pay := BitVec.ofNat 512 n }
theorem witness_command_ports :
    let x (n : Nat) := slot0 (cmd n)
    let s (n : Nat) := commanding 0xB6 0 (cmd n)
    let ended := (commanding 0xB6 0 (cmd 2)).modElem 0 5 fun e => { e with last := true }
    CmdIs (s (2 ^ 24 - 1)) 0 5 24 (x (2 ^ 24 - 1)) ∧ CmdIs (s (3 * 2 ^ 60 + 2)) 0 5 40 (x (3 * 2 ^ 60 + 2)) ∧ CmdIs (s (4 * 2 ^ 60)) 0 5 0 (x (4 * 2 ^ 60))
      ∧ CmdIs (s 63) 0 5 6 (x 63) ∧ CmdIs (s 64) 0 5 7 (x 64) ∧ ((s 2).launch 0).dies[0]? = some 0 ∧ (Acts ended 0 5 ∧ (ended.elem 0 5).last = true)
      ∧ (HeadIs (s (2 ^ 24)) 0 5 (x (2 ^ 24)) ∧ 2 ^ 24 ≤ (x (2 ^ 24)).tok.num % 2 ^ 60) ∧ commandBits .dportQuery = some (0x28, 24) :=
  ⟨⟨head_is (by decide +kernel), rfl, rfl, by decide +kernel, by decide +kernel⟩, ⟨head_is (by decide +kernel), rfl, rfl, by decide +kernel, by decide +kernel⟩,
    ⟨head_is (by decide +kernel), rfl, rfl, by decide +kernel, by decide +kernel⟩, ⟨head_is (by decide +kernel), rfl, rfl, by decide +kernel, by decide +kernel⟩,
    ⟨head_is (by decide +kernel), rfl, rfl, by decide +kernel, by decide +kernel⟩, by decide +kernel, by unfold Acts; decide +kernel,
    ⟨head_is (by decide +kernel), by decide +kernel⟩, rfl⟩
/-- A damper that is about to take a request of the port: a QUERY of a set with an entry and of a set of no share; SETTLE with a set below it and none; OLDEST. -/
def atDamper (kind : DKind) (set : BitVec 24) (below : Nat) (es : List (Nat × DEntry)) : State :=
  { pkg [] [] with entries := es, agenda := [.damper 0 5], dreqs := [(5, { die := 0, launch := 0, kind := kind, set := set, s := below, src := .dport 0 })] }
theorem witness_damper_commands :
    let e : Nat × DEntry := (0, { launch := 0, share := 0, set := 2, s := 1, u := 1 })
    let s (kind : DKind) := atDamper kind 2 2 [e]
    (∀ kind ∈ [DKind.query, DKind.settle, DKind.oldest], (s kind).power = .on ∧ (s kind).agenda = [.damper 0 5]
        ∧ mget (s kind).dreqs 5 = some { die := 0, launch := 0, kind := kind, set := 2, s := 2, src := .dport 0 })
      ∧ (bits (2 : BitVec 24).toNat 22 2 < ((s .query).launch 0).dies.length ∧ (s .query).entry ((s .query).homeOf 0 2) 0 2 = some e.2)
      ∧ ((s .query).launch 0).dies.length ≤ bits (0x400000 : BitVec 24).toNat 22 2 ∧ (e.1 = 0 ∧ liveBelow 0 2 e) ∧ (atDamper .oldest 2 0 []).entries = [] := by
  unfold liveBelow; decide +kernel
theorem witness_notice_at_the_port :
    let s : State := { firing (elemOf 0xB6 0 1 []) [] [] [] with launches :=
      [(0, { dies := [0], note := 0x20000, flue := [⟨2, 0x10014, 0⟩], released := 1, img := { psets := [{ pages := 1, stream := [] }], osnew := [5] } })] }
    let u := reached (noteTouch 0 0) s
    Acts s 0 5 ∧ bitAt (s.elem 0 5).mode 0 = true ∧ runs (noteTouch 0 0) s = true ∧ u.noticeAt 0 = some (⟨2, 0x10014, 0⟩, 0) ∧ u.canEmit 0 5 0 false = true
      ∧ (u.elem 0 5).outs.contains 0 = true := by unfold Acts; decide +kernel
theorem witness_swaps :
    let e := elemOf 1 0 0 []
    let s := firing { e with armed := true } [eosTok] [eosTok] []
    let p := (bound [] []).modElem 0 60 fun e => { e with armed := true }
    (commonRow e (.iadd ⟨0, 0, 0, 0⟩) = some (⟨0, 0, 0, 0⟩, [0, 1]) ∧ decodeElem (BitVec.ofNat 19 ((s.elem 0 5).fld 0)) = some (.iadd ⟨0, 0, 0, 0⟩)
        ∧ mrising (s.core 0).elems = true ∧ (s.elem 0 5).settle = [])
      ∧ (Acts s 0 5 ∧ Heads s 0 5 false [0, 1] [(0, slot0 eosTok), (1, slot0 eosTok)]) ∧ ((firing e [] [] []).elem 0 5).armed = false
      ∧ (p.pageLive 0 = true ∧ (p.elem 0 60).armed = true ∧ (p.elem 0 60).inChans 0 ≠ [] ∧ ((p.modSlot 0 0 fun x => { x with status := .finished }).slot 0 0).eosDue = []) :=
  ⟨by decide +kernel, two_heads (by decide +kernel), by decide +kernel, by decide +kernel⟩
/-- A data head short of the element's count, one that completes it, and one of an element that counts none; HEAD's TRIG 1 and 2; a queue pair at handle 6,
empty, with nothing that can fire. -/
theorem witness_triggers_and_dry_pages :
    let e (k t : Nat) : Elem := { b0 := [(0, fv 0x800), (1, fv (srcOf 1 0)), (13, fv k)], trig := t, pa := portOf [val 1] }
    let s (n t : Nat) := pkg [(5, { e 3 0 with trigOut := n }), (7, { b0 := [(0, fv (0xA0 * 2 ^ 11))] }), (63, { b0 := [(0, fv (0xB7 * 2 ^ 11)), (13, fv t)] })] []
    let d := pkg [(63, { b0 := [(0, fv (0xB7 * 2 ^ 11)), (14, fv (16 * 16)), (15, fv 6)] })] []
    (∀ x ∈ [e 3 1, e 3 2, e 0 0], x.isReg 0 = false ∧ (x.port 0).res = none ∧ (x.port 0).q.head? = some (slot0 (val 1)))
      ∧ ((e 3 1).trig + 1 < (e 3 1).fld 13 % 2 ^ 19 ∧ (e 3 2).fld 13 % 2 ^ 19 ≤ (e 3 2).trig + 1 ∧ (e 0 0).fld 13 % 2 ^ 19 = 0 ∧ (e 3 1).op ≠ 0xB0 ∧ (e 3 1).op ≠ 0xB7)
      ∧ ((s 0 1).elem 0 5).trigOut = 0 ∧ 0 < ((s 1 1).elem 0 5).trigOut ∧ ((s 1 1).elem 0 63).fld 13 % 2 ^ 19 = 1 ∧ ((s 1 2).elem 0 63).fld 13 % 2 ^ 19 = 2
      ∧ (((s 1 1).elem 0 7).isSource = true ∧ ((s 1 1).elem 0 7).fin = 0) ∧ (s 1 1).sourcesRun 0 = true ∧ ((s 1 1).modCore 0 fun k => { k with srcRun := false }).sourcesRun 0 = false
      ∧ (d.pageLive 0 = true ∧ (d.elem 0 63).op = 0xB7 ∧ bitAt (d.elem 0 63).mode 4 = true ∧ (d.elem 0 63).xwait = none)
      ∧ yields (queuePair 0) d (0, 0) d = true ∧ ((d.core 0).elems.all fun e => e.2.isSource || !d.firesNext 0 e.1) = true := by decide +kernel

/-- Requests at a damper whose set is LIVE, QUENCHED, and without an entry; a tenant below its cap, at it, and without one. -/
theorem witness_dampers :
    Asked (asked .declare false) 0 5 .declare { die := 0, launch := 0, kind := .declare, set := 2, src := .settle 0 5, cause := 1, worth := 0x3E80, elem := 20 }
      ∧ (let s (cap : Nat) (es : List (Nat × DEntry)) : State := { asked .declare false with entries := es, ctxs := [(0, { ctl := 1, caps := word cap })] }
        let e : Nat × DEntry := (0, { launch := 0, share := 0, set := 6, s := 3, u := 3 })
        ((s 0 []).entry 0 0 2 = none ∧ (s 1 [e]).entry 0 0 2 = none) ∧ fld ((s 0 []).ctx 0).caps 0 14 = 0 ∧ fld ((s 1 [e]).ctx 0).caps 0 14 = 1
          ∧ (((s 1 [e]).entries.filter (·.1 == 0)).filter fun e => ((s 1 [e]).launch e.2.launch).ctx == 0).length = 1)
      ∧ ((asked .commit false).entry 0 0 2).map (·.quenched) = some false
      ∧ ((asked .quench true).entry 0 0 2).map (·.quenched) = some true ∧ (∃ o, ((asked .quench false).core 0).own = some o ∧ o.launch = 0) :=
  ⟨⟨rfl, rfl, rfl⟩, by decide +kernel, by decide +kernel, by decide +kernel, ⟨owner0, rfl, rfl⟩⟩
/-- A broadcast on its way; a head that the filter holds, one that must be looked up, and one that neither concerns. -/
theorem witness_filters :
    let s : State := { pkg [] [] with casts := [(3, { die := 0, launch := 0, core := 0, set := 2 })] }
    let h (f : List (BitVec 24)) (r : Option (BitVec 24 × BitVec 24)) := (pkg [(5, { elemOf 1 0 0 [] with pa := portOf [inSet 2 (val 1)] })] []).modCore 0 fun k =>
      { k with filter := f, range := r }
    (mget s.casts 3 = some { die := 0, launch := 0, core := 0, set := 2 } ∧ (s.core 0).own.map (·.launch) = some 0 ∧ (s.core 0).filter.length < 1024)
      ∧ FreeHead ((h [2] none).elem 0 5) 0 (slot0 (inSet 2 (val 1))) [] ∧ ((h [2] none).core 0).quenches (slot0 (inSet 2 (val 1))) = true
      ∧ ((h [3] none).core 0).quenches (slot0 (inSet 2 (val 1))) = false ∧ ((h [] (some (1, 3))).core 0).asks (slot0 (inSet 2 (val 1))) = true := by unfold FreeHead; decide +kernel
/-- A ranked port of eight slots: a token on its way; a landing token with room, with every slot taken, with and without a candidate, and one whose candidate was
sealed; a segment open, full, at its quota, and one that waits to close. -/
def ranked (mode : Nat) (p : Port) : State :=
  { pkg [(5, { elemOf 1 0 0 [(1, srcOf 1 0 + 8), (12, 3 * 2 ^ 7 + 16)] with pa := p })] [] with launches := [(0, { dies := [0], pkt := [word (mode * 2 ^ 32)] })] }
theorem lands {mode : Nat} {p : Port} {elastic : Bool} {k : Slotted}
    (w : decide (((ranked mode p).elem 0 5).port 0 = p ∧ p.landing = some k ∧ (ranked mode p).pageLive 0 = true
      ∧ ((ranked mode p).launch ((ranked mode p).own 0).launch).elastic = elastic) = true) : Lands (ranked mode p) 0 5 0 elastic k :=
  have h := of_decide_eq_true w
  ⟨by rw [h.1, h.2.1], h.2.2.1, h.2.2.2⟩
/-- What an elastic procedure may choose from. -/
def candidates (p : Port) (k : Slotted) : List Slotted := (p.q ++ [k]).filter fun (x : Slotted) => x.tok.isData && x.tok.set != 0 && !x.sealed
theorem witness_elastic_inputs :
    let k : Slotted := { tok := inSet 9 (val 1), ord := 8 }
    let full (k : Slotted) (v : Option Evict) : Port := { portOf (List.replicate 8 (val 1)) with landing := some k, evict := v }
    (((ranked 2 { lane := [k] }).elem 0 5).port 0).landing = none ∧ (((ranked 2 { lane := [k] }).elem 0 5).port 0).lane = [k]
      ∧ Lands (ranked 2 { landing := some k }) 0 5 0 true k ∧ Lands (ranked 2 (full k none)) 0 5 0 true k
      ∧ Lands (ranked 2 (full { k with sealed := true } (some {}))) 0 5 0 true { k with sealed := true }
      ∧ (({ landing := some k } : Port).used < ((ranked 2 {}).elem 0 5).depth 0 ∧ ((ranked 2 {}).elem 0 5).depth 0 ≤ (full k none).used
        ∧ ((ranked 2 {}).elem 0 5).inStep = false ∧ ((ranked 2 {}).core 0).filter = [])
      ∧ candidates (full k none) k ≠ [] ∧ candidates (full { k with sealed := true } (some {})) { k with sealed := true } = []
      ∧ ∀ x ∈ (full k none).q, ((ranked 2 (full k none)).core 0).quenches x = false :=
  ⟨by decide +kernel, by decide +kernel, lands (by decide +kernel), lands (by decide +kernel), lands (by decide +kernel), by decide +kernel, by decide +kernel, by decide +kernel,
    by decide +kernel⟩
theorem witness_repro_inputs :
    let k : Slotted := { tok := inSet 9 (val 1), ord := 8 }
    let c : Slotted := { tok := stopTok 1, ord := 8 }
    let seg (n : Nat) : List Slotted := (List.range n).map fun i => { tok := inSet (i + 1) (val 1), ord := i }
    let loose : List Slotted := List.replicate 8 (slot0 (val 1))
    let held (q : List Slotted) : List Slotted := q.filter fun x => x.tok.isData && x.tok.set != 0
    Lands (ranked 1 { landing := some k }) 0 5 0 false k ∧ Lands (ranked 1 { landing := some c }) 0 5 0 false c ∧ Lands (ranked 1 { landing := some k, seg := seg 4 }) 0 5 0 false k
      ∧ Lands (ranked 1 { landing := some k, seg := loose }) 0 5 0 false k
      ∧ (((ranked 1 {}).elem 0 5).quota = 4 ∧ ((ranked 1 {}).elem 0 5).window = 0 ∧ ((ranked 1 {}).elem 0 5).segLvl = 1 ∧ ((ranked 1 {}).elem 0 5).depth 0 = 8)
      ∧ (4 ≤ (held (seg 4)).length ∧ (seg 4).length < 8) ∧ (8 ≤ loose.length ∧ held loose ≠ loose)
      ∧ ((ranked 1 { closing := [([k], none)] }).pageLive 0 = true ∧ (((ranked 1 { closing := [([k], none)] }).elem 0 5).port 0).segReqs = [])
      ∧ (let s : State := { ranked 1 { closing := [([k], none)], segSets := [3] } with casts := [(1, { die := 0, launch := 0, core := 0, set := 3 })] }
         ∃ b ∈ s.casts, b.2.launch = (s.own 0).launch ∧ b.2.set ∈ ((s.elem 0 5).port 0).segSets) :=
  ⟨lands (by decide +kernel), lands (by decide +kernel), lands (by decide +kernel), lands (by decide +kernel), by decide +kernel, by decide +kernel, by decide +kernel, by decide +kernel,
    by decide +kernel⟩
/-- An answer of each agent. -/
theorem witness_answers :
    let a (src : DFrom) (q : Bool) : DAns := { die := 0, req := 5, launch := 0, set := 2, kind := .commit, src := src, quenched := q, code := 2 }
    let s (src : DFrom) (q : Bool) : State := { act [] with dans := [(7, a src q)] }
    let r (mode : Nat) (own : Bool) := ranked mode { evict := some { req := some (5, 2), own := own }, landing := some (slot0 (val 1)), segReqs := [5] }
    let w := (act []).modSlot 0 0 fun x => { x with park := some { kind := .rsend, on := 5 } }
    (∀ src ∈ [DFrom.settle 0 5, .osnew 0 5, .ranked 0 5 0, .dport 0, .belfry 0 3 1, .actor 0 0], mget (s src false).dans 7 = some (a src false)
        ∧ mget (s src true).dans 7 = some (a src true))
      ∧ ((r 2 true).launch 0).elastic = true ∧ ((r 1 true).launch 0).elastic = false
      ∧ (((r 2 true).elem 0 5).port 0).evict = some { req := some (5, 2), own := true } ∧ (((r 2 false).elem 0 5).port 0).landing = some (slot0 (val 1))
      ∧ (∃ k, (w.slot 0 0).park = some k ∧ k.done = false ∧ k.kind = .rsend ∧ k.on = 5) :=
  ⟨by decide +kernel, by decide +kernel, by decide +kernel, by decide +kernel, by decide +kernel, ⟨{ kind := .rsend, on := 5 }, by decide +kernel⟩⟩
/-- A quenched set whose sequence is the frontier's, and one that is not; a notice behind a ring of 4, with room and without. -/
def noticed (wr : Nat) : State :=
  placing 0x30000 [4, 0, 0]
    { pkg [] [] with
      owners := (upTo 4).map fun p => (p, 0)
      entries := [(0, { launch := 0, share := 0, set := 2, s := 1, u := 1, quenched := true, cause := 1, worth := 0x3E80, elem := 20 })]
      launches := [(0, { dies := [0], note := 0x30000, flue := [⟨2, 0x10014, 0⟩], wr := wr, frontier := [(0, some 1)], img := { psets := [{ pages := 1, stream := [] }], osnew := [5] } })] }
theorem witness_notices :
    let s := noticed 0
    mget s.launches 0 = some (s.launch 0) ∧ (s.launch 0).phase ≠ .saved ∧ (s.firstQuenched 0).map (·.1) = some 0 ∧ (s.launch 0).settledBelow 1 = true ∧ (s.launch 0).settledBelow 2 = false
      ∧ (s.launch 0).flue.length < 512 ∧ (pkg [] []).firstQuenched 0 = none ∧ s.noteArea 0 = some 0x30000 ∧ s.noteWord 0 0x30000 = 4 ∧ s.noteWord 0 0x30010 = 0
      ∧ ((noticed 4).launch 0).wr = 4 ∧ (1 < 16 ∧ 0 < 4 ∧ 0 < 64) := by decide +kernel
/-- The flue writes into a ring of 4 with room, and finds it full. -/
theorem witness_flue :
    let s := noticed 0
    let r₁ := resultOf (unitRead none 0 0x30000 8) s
    let r₂ := resultOf (unitRead none 0 0x30010 8) r₁.2
    let u := reached (unitWrite none 0 0x30040 false (bytesOf [2, 0x10014, 0, 0])) r₂.2
    Fresh s (.flueWrite 0) ∧ (s.launch 0).phase ≠ .saved ∧ s.noteArea 0 = some 0x30000 ∧ (s.launch 0).flue = [⟨2, 0x10014, 0⟩] ∧ runs (unitRead none 0 0x30000 8) s = true
      ∧ runs (unitRead none 0 0x30010 8) r₁.2 = true ∧ leVal r₁.1.1 = 4 ∧ leVal r₂.1.1 = 0 ∧ (s.launch 0).wr < 4 ∧ 0 + 4 ≤ ((noticed 4).launch 0).wr
      ∧ runs (unitWrite none 0 0x30040 false (bytesOf [2, 0x10014, 0, 0])) r₂.2 = true
      ∧ runs (unitWrite none 0 0x30008 false (bytesOf [1])) (u.pkgRelease 0 0x30008) = true := by unfold Fresh; decide +kernel

/-- Two handles in a table at 0x20000: 0 memory of a save area, 1 memory at 0x30000, 2 a BUSY one; team 5 has one page; and a packet for queue 2. -/
def team5 : Image := { psets := [{ pages := 1, stream := [] }], system := true }
def packet (team done : Nat) : List Word :=
  [word (team + 2 ^ 32 + 2 ^ 34 + 4 * 2 ^ 42), 0, 0, 0, 0, refTo 0 0, 0x290000, refTo done 0] ++ List.replicate 24 0
def admitting (team done : Nat) : State :=
  placing 0x20000 [0x0010000000400000, 0x290000, 0, 0, 0x0010000000030000, 65536, 0, 0, 0x0010000000030000, 65536, 0, 2 ^ 63]
    { pkg [] [] with
      owners := (upTo 0x70).map fun p => (p, 0), cores := [], launches := [], images := [(5, team5)]
      ctxs := [(0, { ctl := 1, keys := 1, htb := 0x20000, htbUse := 0x20000, queues := [(2, [packet team done])] })] }
theorem witness_admission :
    (admitting 5 1).nextPacket 0 3 = none ∧ (admitting 5 1).nextPacket 0 2 = some (packet 5 1) ∧ (admitting 5 1).readmits 0 = []
      ∧ yields (judge 0 (packet 5 1)) (admitting 5 1) .go (admitting 5 1) = true ∧ yields (judge 0 (packet 6 1)) (admitting 6 1) (.refuse 4) (admitting 6 1) = true
      ∧ yields (judge 0 (packet 5 3)) (admitting 5 3) .drop (admitting 5 3) = true ∧ yields (judge 0 (packet 5 2)) (admitting 5 2) .wait (admitting 5 2) = true
      ∧ runs (completion 0 0x30000 4 0) (admitting 6 1) = true ∧ mget (admitting 5 1).images (fld ((packet 5 1).getD 0 0) 0 32) = some team5
      ∧ ((admitting 5 1).packetPlan (packet 5 1)).isSome = true ∧ (admitting 5 1).myTurn 0 = true ∧ ((admitting 5 1).refVA 0 (refTo 0 0) 0x290000 1) = some 0x400000
      ∧ runs (zeroArea 0 0x400000 0x290000) (admitting 5 1) = true ∧ (admitting 5 1).unitWait = [] := by decide +kernel
/-- LAUNCH of a packet at handle 6, into a queue with room and a full one; a doorbell; an image that is none; any value of HINV. -/
theorem witness_packets_and_images :
    let s := act [(2, refTo 6 0x100)]
    let full : State := { s with ctxs := [(0, { ctl := 1, keys := 1, wtb := 0x8000, queues := [(0, List.replicate 64 [])] })] }
    let bad : Stop := .trap 0x2A (word (fld (reg s 2) 52 12)) (word (fld (reg s 2) 0 52))
    yields (sideRef bad 0 (reg s 2) 256 [1] false) s (.mem 0 0x20100 0 false) s = true ∧ s.queueRoom 0 0 = true ∧ full.queueRoom 0 0 = false
      ∧ yields (sideRef bad 0 (refTo 6 0x101) 256 [1] false) s (.mem 0 0x20101 0 false) s = true
      ∧ fld (s.ctx 0).ctl 0 1 = 1 ∧ (s.ctxRead 0 0x20100 256).isSome = true ∧ (s.ctxRead 0 (2 ^ 40) 256).isNone = true
      ∧ (match s.checkImage 0 0x20000 with | .error why => why == 3 | .ok _ => false) = true := by decide +kernel
/-- A launch with no element that must end; one with an element that holds no eos; one that failed; one that retires with its notices written, with a good and a
poisoned output window; a trap record that waits. -/
theorem witness_launch_ends :
    let s (k : Launch) (e : AMap Elem) : State := { pkg e [] with owners := (upTo 4).map fun p => (p, 0), launches := [(0, { k with dies := [0], done := 0x30000, save := 0x31000 })] }
    let r := s { phase := .retiring } []
    (s {} []).enginesIdle 0 = true ∧ (s {} []).sinks 0 ((s {} []).noticePath 0) = []
      ∧ ((s {} [(5, elemOf 1 0 0 [])]).sinks 0 ((s {} [(5, elemOf 1 0 0 [])]).noticePath 0)).any (fun n => !(s {} [(5, elemOf 1 0 0 [])]).holdsEos n) = true
      ∧ (s {} []).farPending 0 = false ∧ ({ s {} [] with reach := [(3, { kind := .rst, launch := some 0 })] } : State).farPending 0 = true
      ∧ runs (completion 0 0x30000 6 1) (freed (s { failed := some (6, 1) } []) 0) = true ∧ r.firstQuenched 0 = none ∧ (r.launch 0).flue = []
      ∧ (s {} []).unitWait = [] ∧ ((s {} []).ctx 0).trapQ = [] ∧ (({ s {} [] with ctxs := [(0, { ctl := 1, trapQ := [[0]] })] } : State).ctx 0).trapQ ≠ []
      ∧ (resultOf (windowBytes (fun _ va n => unitRead none 0 va n) (r.launch 0)) (r.flushCores (r.hosts 0))).1 = ([], none)
      ∧ (let b : State := { s { phase := .retiring, outs := [⟨0x8000, 6, 0, 0, 8, 0⟩] } [] with poison := [0x1000] }
         runs (windowBytes (fun _ va n => unitRead none 0 va n) (b.launch 0)) (b.flushCores (b.hosts 0)) = true
          ∧ (resultOf (windowBytes (fun _ va n => unitRead none 0 va n) (b.launch 0)) (b.flushCores (b.hosts 0))).1.2 ≠ none
          ∧ runs (unitWrite none 0 0x31000 false (List.replicate 64 0)) (reached (windowBytes (fun _ va n => unitRead none 0 va n) (b.launch 0)) (b.flushCores (b.hosts 0))) = true)
      ∧ runs (unitWrite none 0 0x31000 false (Sha.sha512 [])) (r.flushCores (r.hosts 0)) = true
      ∧ runs (completion 0 0x30000 0 0) (freed (reached (unitWrite none 0 0x31000 false (Sha.sha512 [])) (r.flushCores (r.hosts 0))) 0) = true := by decide +kernel
/-- A saved team of context 1 that is too large for what is free, beside the running launch 0 with a slice. -/
def crowded : State :=
  { act [] with
    ctxs := [(0, { ctl := 1, keys := 1, wtb := 0x8000, slice := 5 })]
    launches := [(0, { dies := [0], places := [{ pset := 0, inst := 0, share := 0, lpg := 0, core := 0 }] })
               , (1, { ctx := 1, phase := .saved, readmit := some 0, dies := [0], img := { psets := [{ pages := 300, stream := [] }] } })] }
theorem witness_preemptions :
    let w := crowded.modSlot 0 0 fun x => { x with status := .parked, park := some { kind := .mwait } }
    (fld (crowded.ctx 0).slice 0 32 ≠ 0 ∧ (1 < 16 ∧ 1 ≠ 0 ∧ crowded.waitsPages 1 = true) ∧ (mget crowded.launches 0).isSome = true)
      ∧ (fld ((pkg [] []).ctx 0).slice 0 32 = 0) ∧ ((w.slot 0 0).park = some { kind := .mwait } ∧ (w.swapWatches 0).isSome = true)
      ∧ ({ w with waiters := [{ core := 0, slot := 0, sp := some 0, addr := 72, size := 4, bound := 9 }] } : State).swapWatches 0 = none
      ∧ crowded.placesOk 0 [0] (movedPlaces (crowded.launch 0).places [(0, 5)]) = true ∧ dieOf 5 = 0 := by decide +kernel
theorem witness_waits_for_pages : ∃ q : State, q.waitsPages (q.launch 0).ctx = true ∧ (q.launch 0).phase = .running :=
  ⟨{ crowded with launches := [(0, { ctx := 1, dies := [0] }), (1, { ctx := 1, phase := .saved, readmit := some 0, dies := [0], img := { psets := [{ pages := 300, stream := [] }] } })] },
    by decide +kernel⟩
/-- A saved page whose image lacks the token that its port holds. -/
def damaged : SavedPage :=
  { place := { pset := 0, inst := 0, share := 0, lpg := 0, core := 0 }, core := { elems := [(5, { pa := portOf [val 1] })] }, toks := [3 * 2 ^ 46] }
/-- A stopping team that is quiescent and one that is not; a halted one; and a saved one that is asked back, with an image that stands and one that does not. -/
def stopping (k : Launch) (busy : Bool) : State :=
  { pkg [] [] with
    launches := [(0, { k with dies := [0], places := [{ pset := 0, inst := 0, share := 0, lpg := 0, core := 0 }], why := some .slice, img := { psets := [{ pages := 1, stream := [] }] } })]
    cores := if k.phase = .saved then [] else [(0, { own := some owner0, seq := if busy then [{ word := 0x107 * 2 ^ 54 }] else [] })] }
theorem witness_saves :
    (stopping { phase := .stopping } false).quiescent 0 = true ∧ (stopping { phase := .stopping } true).quiescent 0 = false
      ∧ (stopping { phase := .halted } false).settledFor 0 true = true ∧ mget (stopping { phase := .halted } false).launches 0 = some ((stopping { phase := .halted } false).launch 0)
      ∧ (((stopping { phase := .saved, readmit := some 0 } false).readmits 0).head? = some 0) ∧ ((stopping { phase := .saved } false).readmits 0).head? ≠ some 0
      ∧ (stopping { phase := .saved, readmit := some 0 } false).myTurn 0 = true
      ∧ (stopping { phase := .saved, readmit := some 0 } false).readImage 0 = some [] ∧ (stopping { phase := .saved, saved := [damaged] } false).readImage 0 = none
      ∧ ((stopping { phase := .saved, readmit := some 0 } false).plan { psets := [{ pages := 1, stream := [] }] } [0] 1).isSome = true := by decide +kernel
/-- The dies of a team of one die are that die, whatever order the package gives. -/
theorem resume_dies_of_one {s : State} {l d : Nat} (h : (s.launch l).dies = [d]) : s.resumeDies l = [d] := by
  unfold State.resumeDies
  simp only [h]
  split
  · rename_i w
    match hf : Config.freeDies s.tick with
    | [] => simp [hf] at w
    | [a] => simp [hf] at w; simp [w]
    | _ :: _ :: _ => simp [hf] at w
  · rfl
theorem witness_resume : ∃ (s : State) (ps : List Place), (s.launch 0).phase = .saved ∧ s.plan (s.launch 0).img (s.resumeDies 0) (packetInsts (s.launch 0).pkt) = some ps := by
  refine ⟨stopping { phase := .saved, readmit := some 0 } false, (((stopping { phase := .saved, readmit := some 0 } false).plan { psets := [{ pages := 1, stream := [] }] } [0] 1).getD []), by decide +kernel, ?_⟩
  rw [resume_dies_of_one (d := 0) (by decide +kernel)]
  decide +kernel

/-- Tokens of each width, and header words that R64 refuses. -/
theorem witness_token_images :
    (∀ k ∈ [val 5, { val 7 with width := 1 }, { val 9 with width := 2, set := 3, worth := 0x3F80 }, stopTok 6],
        k.width < 3 ∧ k.lvl < 8 ∧ (k.width = 2 ∨ k.pay.toNat < 2 ^ 64) ∧ readToken (k.image ++ [1]) = some (k, [1]))
      ∧ fld (word (2 ^ 48)) 48 16 ≠ 0 ∧ fld (word 6) 0 3 = 6 ∧ fld (word (3 * 2 ^ 46)) 46 2 = 3 := by decide +kernel

/-! ### Soft errors -/

/-- ADD that reads w2, with w2 poisoned; and an IADD of two heads whose state is poisoned. -/
def poisonedAdd : State := (fetched 0x004221A200000000).modSlot 0 0 fun x => { x with poisoned := [2] }
def spoiledAdd : State :=
  { pkg [(0, { b0 := [(0, BitVec.ofNat 49 (0x01 * 2048))], pa := { q := [{ tok := { pay := 5 } }] }, pb := { q := [{ tok := { pay := 6 } }] }, spoiled := true })] [] with
    agenda := [.element 0 0] }
theorem witness_soft_errors :
    (poisonedAdd.power = .on ∧ poisonedAdd.agenda = [.actor 0, .event (.bringUp State.plainBringUp)] ∧ (poisonedAdd.core 0).running = some 0
        ∧ poisonedAdd.firingLive 0 = true ∧ (poisonedAdd.slot 0 0).status = .firing ∧ poisonedAdd.readsPoison 0 0 (.add ⟨1, 2, 3, 0, 2, 0, 1⟩) = some 2
        ∧ (let u := poisonedAdd.nextMove.2.redoCore 0
           (match u.nextInstr 0 0 with | .ok i => i == .add ⟨1, 2, 3, 0, 2, 0, 1⟩ | .error _ => false) = true
            ∧ u.awaited 0 0 (.add ⟨1, 2, 3, 0, 2, 0, 1⟩) = none ∧ 2 ∈ regReads (u.slot 0 0) (.add ⟨1, 2, 3, 0, 2, 0, 1⟩) ∧ 2 ∈ (u.slot 0 0).poisoned))
      ∧ (spoiledAdd.pageLive 0 = true ∧ mget spoiledAdd.launches (spoiledAdd.own 0).launch = some (spoiledAdd.launch 0)
        ∧ spoiledAdd.nextMove.2.pickDiscard 0 0 = none ∧ (spoiledAdd.elem 0 0).spoiled = true ∧ spoiledAdd.nextMove.2.firesNext 0 0 = true)
      ∧ ((act []).core 0).own = some owner0 ∧ ((act []).slot 0 0).status ≠ .absent := by decide +kernel
/-- R426: the first instruction that reads a poisoned register ends its firing. -/
theorem test_poisoned_register_ends_the_firing :
    after (step poisonedAdd) (fun t => (t.slot 0 0).status == .idle && (t.launch 0).failed.isNone) = true := by decide +kernel
/-- R426: the first firing of a poisoned element is fault 0x23. -/
theorem test_poisoned_element_faults :
    after (step spoiledAdd) (fun t => (t.launch 0).failed == some (6, 0x23) && (t.elem 0 0).pa.q.length == 1) = true := by decide +kernel
/-- R22, R426: an error in a channel's token makes it poison with SRC 8 and the core. -/
theorem test_save_spoils_a_token :
    (((spoiledAdd.spoilImage 0 [.token 0 0 1 0]).elem 0 0).pb.q.map fun x => (x.tok.kind, x.tok.num)) = [(.poison, 0x8000)] := by decide +kernel
/-- R404: the bytes of a line that a save image lies in are readable under no key; a write of the line makes it plain again. -/
theorem test_veiled_lines :
    ({ pkg [] [] with veils := [(0x800, 0x900)] } : State).keyed 0x810 0 = some false
      ∧ (({ pkg [] [] with veils := [(0x800, 0x900)] } : State).rekey 0 0x810).veils = [(0x800, 0x810), (0x811, 0x900)] := by decide +kernel
/-- A launch whose image is lost: 128 bytes of save area at 0x31000. -/
def lostSave : State :=
  { pkg [] [] with
    launches := [(0, { dies := [0], done := 0x30000, save := 0x31000, pkt := [0, 0, 0, 0, 0, 0, 128], failed := some (7, 0) })]
    owners := (upTo 8).map fun p => (p, 0), hbm := hbm0 ++ [(0x31008, 5)]
    lineKey := [(0, (0, 0)), (256, (0, 0)), (512, (0, 0)), (513, (0, 0)), (0xC40, (0, 0))] }
theorem witness_lost_save :
    lostSave.farPending 0 = false ∧ (lostSave.launch 0).failed = some (7, 0)
      ∧ runs (zeroArea 0 0x31000 128) (lostSave.flushCores (lostSave.hosts 0)) = true
      ∧ runs (completion 0 0x30000 7 0) (freed (reached (zeroArea 0 0x31000 128) (lostSave.flushCores (lostSave.hosts 0))) 0) = true := by decide +kernel
/-- R426: the save area is zero when the completion word holds status 7. -/
theorem test_lost_save_is_zeroed :
    after (exec (.launchEnd 0) lostSave) (fun t => t.homeByte 0 0x31008 == 0 && t.homeByte 0 0x30000 == 7 && (mget t.launches 0).isNone) = true := by
  decide +kernel

end Sys2Proof.Tests
end

/-!
SUPPORT. R126, R127, R137, R138, R372: the float instructions and CVT of actors. A float result is held zero-extended; a mask of
FCMP or FCLASS has one bit, told by whether an operand is a NaN; INT64 to INT64 converts a value to itself.
-/
namespace Sys2Proof.Machine
open Sys2Proof.Claims

/-! ### Results in registers -/

/-- The operation by which every scalar instruction ends, in the words of the statements. -/
theorem State.result_eq_wrote (s : State) (dst : Reg) (v : Word) (fl : BitVec 4) :
    s.result dst v fl = .next (wrote s dst v fl) := rfl

theorem wrReg_of_float {ty : BitVec 3} (hty : ty = 4 ∨ ty = 5) (code : Nat) :
    wrReg ty.toNat code = BitVec.ofNat 64 (code % 2 ^ (if ty = 5 then 16 else 32)) := by
  rcases hty with rfl | rfl <;> rfl

theorem State.resultTy_of_float (s : State) (dst : Reg) {ty : BitVec 3} (hty : ty = 4 ∨ ty = 5) (r : Nat × Flags) :
    s.resultTy dst ty.toNat r
      = .next (wrote s dst (BitVec.ofNat 64 (r.1 % 2 ^ (if ty = 5 then 16 else 32))) r.2) := by
  rw [State.resultTy, State.result_eq_wrote, wrReg_of_float hty]

/-- A mask of one bit among the low nine fits each float type, and so is written as it is. -/
theorem State.resultTy_of_float_bit (s : State) (dst : Reg) {ty : BitVec 3} (hty : ty = 4 ∨ ty = 5) {k : Nat} (hk : k < 9)
    (fl : Flags) : s.resultTy dst ty.toNat (2 ^ k, fl) = .next (wrote s dst (BitVec.ofNat 64 (2 ^ k)) fl) := by
  have hfit : 2 ^ k < 2 ^ (if ty = 5 then 16 else 32) :=
    Nat.pow_lt_pow_right (by omega) (by split <;> omega)
  rw [State.resultTy_of_float s dst hty, Nat.mod_eq_of_lt hfit]

/-! ### The masks of FCMP and FCLASS -/

theorem Num.cmp_eq_none_iff (a b : Num) : a.cmp b = none ↔ a.isNan = true ∨ b.isNan = true := by
  cases a <;> cases b <;> simp [Num.cmp, Num.isNan]

theorem fCmpMask_eq_bit (ty a b : Nat) :
    ∃ k, k < 4 ∧ fCmpMask ty a b = (2 ^ k, if k = 3 then 1 else 0)
      ∧ (k = 3 ↔ ((tyFmt ty).decode a).isNan = true ∨ ((tyFmt ty).decode b).isNan = true) := by
  rw [← Num.cmp_eq_none_iff, fCmpMask]
  cases ((tyFmt ty).decode a).cmp ((tyFmt ty).decode b) with
  | none => exact ⟨3, by decide, rfl, by simp⟩
  | some o =>
    cases o with
    | lt => exact ⟨0, by decide, rfl, by simp⟩
    | eq => exact ⟨1, by decide, rfl, by simp⟩
    | gt => exact ⟨2, by decide, rfl, by simp⟩

theorem exists_bit_of_side (neg : Bool) {i j : Nat} (hi : i < 8) (hj : j < 8) :
    ∃ k, k < 8 ∧ (if neg = true then 2 ^ i else 2 ^ j) = 2 ^ k := by
  cases neg with
  | true => exact ⟨i, hi, rfl⟩
  | false => exact ⟨j, hj, rfl⟩

/-- R138: the classes of numbers are bits 0 to 7: infinity, normal, subnormal and zero, each on two sides. -/
theorem fClass_eq_bit_of_not_nan (ty a : Nat) (h : ((tyFmt ty).decode a).isNan = false) : ∃ k, k < 8 ∧ fClass ty a = 2 ^ k := by
  simp only [fClass]
  cases hd : (tyFmt ty).decode a with
  | nan => simp [hd, Num.isNan] at h
  | inf neg => exact exists_bit_of_side neg (i := 0) (j := 7) (by decide) (by decide)
  | fin neg m e =>
    simp only
    split
    · exact exists_bit_of_side _ (by decide) (by decide)
    · split
      · exact exists_bit_of_side _ (by decide) (by decide)
      · exact exists_bit_of_side _ (i := 1) (j := 6) (by decide) (by decide)

theorem fClass_of_nan (ty a : Nat) (h : ((tyFmt ty).decode a).isNan = true) : fClass ty a = 2 ^ 8 := by
  simp only [fClass]
  cases hd : (tyFmt ty).decode a with
  | nan => rfl
  | inf neg => simp [hd, Num.isNan] at h
  | fin neg m e => simp [hd, Num.isNan] at h

theorem fClass_eq_bit (ty a : Nat) :
    ∃ k, k < 9 ∧ fClass ty a = 2 ^ k ∧ (k = 8 ↔ ((tyFmt ty).decode a).isNan = true) := by
  cases hnan : ((tyFmt ty).decode a).isNan with
  | true => exact ⟨8, by decide, fClass_of_nan ty a hnan, by simp⟩
  | false =>
    obtain ⟨k, hk, hbit⟩ := fClass_eq_bit_of_not_nan ty a hnan
    exact ⟨k, by omega, hbit, by simp; omega⟩

/-! ### INT64 to INT64 -/

/-- A number's low bits come back from their signed reading. -/
theorem ofInt_sgn (w n : Nat) : ofInt w (sgn w n) = n % 2 ^ w := by
  have hlt : n % 2 ^ w < 2 ^ w := Nat.mod_lt _ (Nat.two_pow_pos w)
  unfold ofInt sgn
  split
  · rw [Int.emod_eq_of_lt (by omega) (by omega)]; omega
  · rw [Int.sub_emod_right, Int.emod_eq_of_lt (by omega) (by omega)]; omega

/-- A signed reading lies in the signed range, so saturation leaves it alone. -/
theorem satInt_sgn {w : Nat} (hw : 0 < w) (n : Nat) : satInt true w (sgn w n) = (sgn w n, false) := by
  have hlt : n % 2 ^ w < 2 ^ w := Nat.mod_lt _ (Nat.two_pow_pos w)
  have hdouble : 2 ^ w = 2 * 2 ^ (w - 1) := by rw [← Nat.pow_succ']; congr 1; omega
  have hlo : ¬ sgn w n < -((2 ^ (w - 1) : Nat) : Int) := by unfold sgn; split <;> omega
  have hhi : ¬ ((2 ^ (w - 1) : Nat) : Int) - 1 < sgn w n := by unfold sgn; split <;> omega
  simp only [satInt, if_true, if_neg hlo, if_neg hhi]

/-- R127: SAT or not, an INT64 destination takes every INT64 value as it is, and no flag is recorded. -/
theorem fmtCode_int64 (rnd : Rnd) (sat : Bool) (n : Nat) (x : Num) :
    fmtCode 12 rnd sat (some (sgn 64 n)) x = (n % 2 ^ 64, noFlags) := by
  cases sat with
  | false => exact congrArg (·, noFlags) (ofInt_sgn 64 n)
  | true =>
    have hclamp : satInt (fmtSigned 12) (fmtW 12) (sgn 64 n) = (sgn 64 n, false) := satInt_sgn (by decide) n
    simp only [fmtCode, hclamp]
    exact congrArg (·, noFlags) (ofInt_sgn 64 n)

theorem convert_int64_int64 (rnd : Rnd) (sat : Bool) (n : Nat) : convert 12 12 rnd sat none n = (n % 2 ^ 64, noFlags) := by
  have hint : convert 12 12 rnd sat none n
      = let r := fmtCode 12 rnd sat (some (sgn 64 n)) (Num.ofInt (sgn 64 (n % 2 ^ 64)))
        (r.1, r.2 ||| noFlags) := rfl
  simp [hint, fmtCode_int64, noFlags]

theorem wrFmt_int64 (w : Word) : wrFmt 12 (w.toNat % 2 ^ 64) = w := by
  have hread : wrFmt 12 (w.toNat % 2 ^ 64) = word (ofInt 64 (sgn 64 (w.toNat % 2 ^ 64))) := rfl
  rw [hread, ofInt_sgn, Nat.mod_mod, Nat.mod_eq_of_lt w.isLt, word, BitVec.ofNat_toNat, BitVec.setWidth_eq]

/-! ### CVT -/

theorem ctlF_eq_extractLsb' {n : Nat} (c : BitVec n) (lo len : Nat) : ctlF c lo len = (c.extractLsb' lo len).toNat := by
  rw [BitVec.extractLsb'_toNat, Nat.shiftRight_eq_div_pow]; rfl

theorem ctlF_one_eq_getLsbD {n : Nat} (c : BitVec n) (i : Nat) : (ctlF c i 1 == 1) = c.getLsbD i := by
  rw [BitVec.getLsbD, Nat.testBit_eq_decide_div_mod_eq]; rfl

theorem execCvt_eq_wrote (f : XForm) (s : State) :
    let r := convert (f.ctl.extractLsb' 18 4).toNat (f.ctl.extractLsb' 14 4).toNat (f.xm.extractLsb' 2 2).toNat (f.ctl.getLsbD 12)
      (if f.ctl.getLsbD 13 then some ((reg s f.sb).toNat % 256) else none) (reg s f.sa).toNat
    execCvt f s = .next (wrote s f.dst (wrFmt (f.ctl.extractLsb' 14 4).toNat r.1) r.2) := by
  simp only [execCvt, ctlF_one_eq_getLsbD, ← ctlF_eq_extractLsb']
  rfl

end Sys2Proof.Machine

namespace Sys2Proof.Claims
open Sys2Proof.Machine

theorem floatInstructionsWriteTheRoundedResult : FloatInstructionsWriteTheRoundedResult := by
  intro s f hty
  have hres := State.resultTy_of_float s f.dst hty
  exact ⟨hres _, hres _, hres _, hres _, hres _, hres _⟩

theorem floatCompareAndClassWriteOneBit : FloatCompareAndClassWriteOneBit := by
  intro s f hty
  obtain ⟨k, hk, hmask, hnanMask⟩ := fCmpMask_eq_bit f.ty.toNat (s.rd f.sa) (s.rd f.sb)
  obtain ⟨j, hj, hclass, hnanClass⟩ := fClass_eq_bit f.ty.toNat (s.rd f.sa)
  have hcmp : execFcmp f s = .next (wrote s f.dst (BitVec.ofNat 64 (2 ^ k)) (if k = 3 then 1 else 0)) := by
    rw [execFcmp, hmask, State.resultTy_of_float_bit s f.dst hty (by omega)]
  have hcls : execFclass f s = .next (wrote s f.dst (BitVec.ofNat 64 (2 ^ j)) 0) := by
    rw [execFclass, hclass, State.resultTy_of_float_bit s f.dst hty hj, noFlags]
  exact ⟨⟨k, hk, hcmp, hnanMask⟩, j, hj, hcls, hnanClass⟩

theorem convertWritesTheConvertedValue : ConvertWritesTheConvertedValue := by
  intro s f sf df usc sat r
  have hcvt : exec (.cvt f) s = .next (wrote s f.dst (wrFmt df r.1) r.2) := execCvt_eq_wrote f s
  refine ⟨hcvt, fun hsf hdf husc => ?_⟩
  have hr : r = ((reg s f.sa).toNat % 2 ^ 64, noFlags) := by
    simp only [r, hsf, hdf, husc, if_neg Bool.false_ne_true, convert_int64_int64]
  rw [hcvt, hr, hdf, wrFmt_int64, noFlags]

end Sys2Proof.Claims

/-- Settles O9: each instruction ends in `State.result`, whose register value and flags are the element operation's (float results
zero-extended, masks of one bit, the converted code of CVT). -/
theorem floatInstructionsAndConversionsOfActors : Obligations.FloatInstructionsAndConversionsOfActors :=
  ⟨Sys2Proof.Claims.floatInstructionsWriteTheRoundedResult, Sys2Proof.Claims.floatCompareAndClassWriteOneBit,
    Sys2Proof.Claims.convertWritesTheConvertedValue⟩
